-- ==== Sys2Proof/Word.lean ====
section
/-!
DEFINITION. The word types of the device and their plainest arithmetic.
-/

namespace Sys2Proof

/-- An instruction word, a lane register or an accumulator word. -/
abbrev Word := BitVec 32

/-- A uniform register, a special register, an address in a register. -/
abbrev Reg := BitVec 64

/-- A byte of memory. -/
abbrev Byte := BitVec 8

/-- Bits [lo+n-1:lo] of a natural number. -/
abbrev bits (x lo n : Nat) : Nat := x / 2 ^ lo % 2 ^ n

end Sys2Proof
end

