-- ==== Sys2Proof/Config.lean ====
section
/-!
DEFINITION. What is fixed for the device (sizes, limits, times of the spec) and the free values, which the spec
leaves open: constants without a body, so that no proof can see what they are.
-/

namespace Sys2Proof.Config

/-- Base of the local aperture (R288). -/
abbrev localBase : Nat := 0x01FF000000000000
/-- Logical cores (R11). -/
abbrev cores : Nat := 96
/-- Groups per core (R164). -/
abbrev groupsPerCore : Nat := 32
/-- Split-table entries per core (R171). -/
abbrev splitEntries : Nat := 256
/-- The physical function's number (R386). -/
abbrev physFn : Nat := 256
/-- Engine queue depth and active slots (R65). -/
abbrev engineQueue : Nat := 16
abbrev engineSlots : Nat := 4
/-- Reservation table entries (R117). -/
abbrev reservations : Nat := 32
/-- Monitor entries per slice (R58). -/
abbrev monitorsPerSlice : Nat := 256
/-- Records per translation fault queue (R31). -/
abbrev faultQueue : Nat := 4096
/-- Memory instructions of a gang not yet globally performed (R224). -/
abbrev memLimit : Nat := 32
/-- Entries of the device run list (R200). -/
abbrev runList : Nat := 256
/-- Sevenths of a tick in a nominal core clk: 1.4 GHz against 1 GHz (R2). -/
abbrev clkUnits : Nat := 5
/-- Units in a tick. -/
abbrev tickUnits : Nat := 7

/-- FREE VALUE (log 14): byte k, after the index, of the signature that the device key makes with leaf n over the bytes of
a report; the spec gives the signature's length and scheme, and no key (R403, R404). -/
opaque attestSig : Nat → List Byte → Nat → Byte

/-- FREE VALUE (log 49): what the arguments of INVALIDATE name besides the function: all of it, or an address space with
the first address of a range and the address after it; the spec gives them no layout (R28, R397). -/
opaque invalidateScope : List (BitVec 64) → Option (Nat × Nat × Nat)

/-- FREE VALUE (log 14): the security version a firmware image carries; the spec names the check and gives the
image no layout (R402). -/
opaque fwVersion : List Byte → BitVec 64

/-- FREE VALUE (log 14): a drawn value, one for each count of State's free-value counter. -/
opaque freeValue : Nat → BitVec 64

/-- FREE VALUE (log 14): the byte of host memory at an address, as the operation of a number reads it (R385). -/
opaque hostByte : Nat → Nat → Byte

end Sys2Proof.Config
end

