-- ==== Sys2Proof/Syntax.lean ====
section
/-!
DEFINITION. The instructions and the steps of the units, one constructor per row of spec/opcode_table.json.
A program instruction carries its encoded operand fields (R243, R244, R247, R249 to R251); a step of a unit, of
the host or of a peer carries what names it (which core, group, request, function) and what comes from outside.
-/

namespace Sys2Proof

/-- First word of the L-R and U-R layout (R243), its opcode apart: GUARD, D, A, B. -/
structure LR where
  g : BitVec 3
  d : BitVec 7
  a : BitVec 7
  b : BitVec 7
  deriving DecidableEq, Repr

/-- L-I (R244): D, A, IMM10. -/
structure LI where
  d : BitVec 7
  a : BitVec 7
  imm : BitVec 10
  deriving DecidableEq, Repr

/-- U-I (R244): D, IMM17. -/
structure UI where
  d : BitVec 7
  imm : BitVec 17
  deriving DecidableEq, Repr

/-- U-B (R250): GUARD (or the tested predicate of BRA), DISP21. -/
structure UB where
  g : BitVec 3
  disp : BitVec 21
  deriving DecidableEq, Repr

/-- U-L (R251): GUARD, the reserved bits [20:0], D64. -/
structure UL where
  g : BitVec 3
  rsvd : BitVec 21
  d64 : BitVec 64
  deriving DecidableEq, Repr

/-- The arithmetic extension word XA (R247). -/
structure XA where
  c : BitVec 7
  slot : BitVec 3
  rnd : BitVec 2
  sat : BitVec 1
  sub : BitVec 7
  ty : BitVec 4
  imm : BitVec 8
  deriving DecidableEq, Repr

/-- The memory extension word XM (R249). -/
structure XM where
  c : BitVec 7
  subf : BitVec 4
  ord : BitVec 2
  ty : BitVec 4
  mode : BitVec 2
  addr : BitVec 13
  deriving DecidableEq, Repr

/-- L-X and U-X words: the first word and XA. -/
structure LX where
  w : LR
  x : XA
  deriving DecidableEq, Repr

/-- L-M and U-M words: the first word and XM. -/
structure LM where
  w : LR
  x : XM
  deriving DecidableEq, Repr

/-- MOVW: the first word and the raw word XI (R247). -/
structure LXI where
  w : LR
  xi : BitVec 32
  deriving DecidableEq, Repr

/-- A dictionary pair (R195): the entry number of the high code, and the low half. -/
structure Pair where
  hi : BitVec 10
  lo : BitVec 16
  deriving DecidableEq, Repr

/-- Names a fragment: its group's key, its gang and its number in the gang. -/
structure Who where
  gid : Nat
  gang : Nat
  frag : Nat
  deriving DecidableEq, Repr

/-- What the host asks of memory through BAR2 (R384): a read of bytes, a write of the bytes it sends along, or an AtomicOp
as ATOM's operation and type with its operand and the value that CAS compares with. -/
inductive HostAccess where
  | read (len : Nat)
  | write
  | atomic (op ty opnd cmp : Nat)
  deriving DecidableEq, Repr

/-- Where a tagged message arrives, and under which tag (R395). -/
structure MsgHead where
  port : Nat
  tag : Nat
  deriving DecidableEq, Repr

/-- One constructor per row of spec/opcode_table.json, in the table's order. The first 292 are Skaic
instructions; the rest are steps of the units, the host and the peers, which have no encoding. -/
inductive Instr where
  | iadd (o : LR)   -- R264
  | isub (o : LR)   -- R264
  | iaddSatI32 (o : LR)   -- R264
  | iaddSatN32 (o : LR)   -- R264
  | isubSatI32 (o : LR)   -- R264
  | isubSatN32 (o : LR)   -- R264
  | imul (o : LR)   -- R264
  | imulhI32 (o : LR)   -- R264
  | imulhN32 (o : LR)   -- R264
  | imac (o : LR)   -- R264
  | iminI32 (o : LR)   -- R264
  | iminN32 (o : LR)   -- R264
  | imaxI32 (o : LR)   -- R264
  | imaxN32 (o : LR)   -- R264
  | iabs (o : LR)   -- R264
  | ineg (o : LR)   -- R264
  | and (o : LR)   -- R264
  | or (o : LR)   -- R264
  | xor (o : LR)   -- R264
  | not (o : LR)   -- R264
  | shl (o : LR)   -- R265
  | shr (o : LR)   -- R265
  | sar (o : LR)   -- R265
  | rot (o : LR)   -- R265
  | bfeN32 (o : LR)   -- R266
  | bfeI32 (o : LR)   -- R266
  | bfi (o : LR)   -- R266
  | brev (o : LR)   -- R264
  | clz (o : LR)   -- R105
  | ffs (o : LR)   -- R105
  | popc (o : LR)   -- R105
  | icmp (o : LR)   -- R267
  | fadd (o : LR)   -- R269
  | fsub (o : LR)   -- R269
  | fmul (o : LR)   -- R269
  | fmac (o : LR)   -- R269
  | fmin (o : LR)   -- R270
  | fmax (o : LR)   -- R270
  | frcp (o : LR)   -- R271
  | frsq (o : LR)   -- R271
  | fsqrt (o : LR)   -- R271
  | fexp2 (o : LR)   -- R271
  | flog2 (o : LR)   -- R271
  | fcmp (o : LR)   -- R272
  | fabs (o : LR)   -- R269
  | fneg (o : LR)   -- R269
  | fminNum (o : LR)   -- R270
  | fmaxNum (o : LR)   -- R270
  | faddBf16 (o : LR)   -- R269
  | fsubBf16 (o : LR)   -- R269
  | fmulBf16 (o : LR)   -- R269
  | fmacBf16 (o : LR)   -- R269
  | fminBf16 (o : LR)   -- R270
  | fmaxBf16 (o : LR)   -- R270
  | fabsBf16 (o : LR)   -- R269
  | fnegBf16 (o : LR)   -- R269
  | faddF16 (o : LR)   -- R269
  | fsubF16 (o : LR)   -- R269
  | fmulF16 (o : LR)   -- R269
  | fmacF16 (o : LR)   -- R269
  | fminF16 (o : LR)   -- R270
  | fmaxF16 (o : LR)   -- R270
  | fabsF16 (o : LR)   -- R269
  | fnegF16 (o : LR)   -- R269
  | cvtF32Fs (o : LX)   -- R274
  | cvtFsF32 (o : LX)   -- R274
  | cvtBf16Fs (o : LX)   -- R274
  | cvtFsBf16 (o : LX)   -- R274
  | cvtF16Fs (o : LX)   -- R274
  | cvtFsF16 (o : LX)   -- R274
  | cvtI32Fs (o : LX)   -- R274
  | cvtFsI32 (o : LX)   -- R274
  | cvtF32Bf16 (o : LX)   -- R274
  | cvtBf16F32 (o : LX)   -- R274
  | cvtF32F16 (o : LX)   -- R274
  | cvtF16F32 (o : LX)   -- R274
  | cvtF32I32 (o : LX)   -- R274
  | cvtI32F32 (o : LX)   -- R274
  | cvtF32N32 (o : LX)   -- R274
  | cvtN32F32 (o : LX)   -- R274
  | qsplit (o : LX)   -- R278
  | vcomp (o : LR)   -- R287
  | spc48 (o : LR)   -- R279
  | bpick (o : LR)   -- R277
  | frnd (o : LR)   -- R276
  | packBf16 (o : LR)   -- R277
  | packF16 (o : LR)   -- R277
  | unpackBf16 (o : LR)   -- R277
  | unpackF16 (o : LR)   -- R277
  | i2fI32 (o : LR)   -- R276
  | i2fN32 (o : LR)   -- R276
  | f2iI32 (o : LR)   -- R276
  | f2iN32 (o : LR)   -- R276
  | vexpand (o : LR)   -- R287
  | qxchH (o : LX)   -- R283
  | qxchV (o : LX)   -- R283
  | qxchD (o : LX)   -- R283
  | qxchBc (o : LX)   -- R283
  | shflAt (o : LX)   -- R284
  | shflRot (o : LX)   -- R284
  | shflSpan (o : LX)   -- R284
  | shflFlip (o : LX)   -- R284
  | vreduceAdd (o : LX)   -- R285
  | vreduceMin (o : LX)   -- R285
  | vreduceMax (o : LX)   -- R285
  | vreduceAnd (o : LX)   -- R285
  | vreduceOr (o : LX)   -- R285
  | vreduceXor (o : LX)   -- R285
  | vreduceFadd (o : LX)   -- R285
  | vreduceFmin (o : LX)   -- R285
  | vreduceFmax (o : LX)   -- R285
  | vscanAdd (o : LX)   -- R285
  | vscanMin (o : LX)   -- R285
  | vscanMax (o : LX)   -- R285
  | vscanAnd (o : LX)   -- R285
  | vscanOr (o : LX)   -- R285
  | vscanXor (o : LX)   -- R285
  | vscanFadd (o : LX)   -- R285
  | vscanFmin (o : LX)   -- R285
  | vscanFmax (o : LX)   -- R285
  | voteSome (o : LX)   -- R286
  | voteEvery (o : LX)   -- R286
  | voteSame (o : LX)   -- R286
  | ballot (o : LR)   -- R286
  | eqmask (o : LR)   -- R286
  | sel (o : LX)   -- R280
  | plop (o : LX)   -- R281
  | mov (o : LR)   -- R280
  | movi (o : LI)   -- R280
  | pget (o : LR)   -- R281
  | pset (o : LR)   -- R281
  | ldN8Lane (o : LM)   -- R296
  | ldI8Lane (o : LM)   -- R296
  | ldN16Lane (o : LM)   -- R296
  | ldI16Lane (o : LM)   -- R296
  | ldN32Lane (o : LM)   -- R296
  | ldN64Lane (o : LM)   -- R296
  | ldN128Lane (o : LM)   -- R296
  | stN8Lane (o : LM)   -- R296
  | stN16Lane (o : LM)   -- R296
  | stN32Lane (o : LM)   -- R296
  | stN64Lane (o : LM)   -- R296
  | stN128Lane (o : LM)   -- R296
  | atomAddLane (o : LM)   -- R301
  | atomFaddLane (o : LM)   -- R301
  | atomMinLane (o : LM)   -- R301
  | atomMaxLane (o : LM)   -- R301
  | atomAndLane (o : LM)   -- R301
  | atomOrLane (o : LM)   -- R301
  | atomXorLane (o : LM)   -- R301
  | atomXchgLane (o : LM)   -- R301
  | atomCasLane (o : LM)   -- R301
  | pref (o : LM)   -- R298
  | wide (o : LX)   -- R263
  | movw (o : LXI)   -- R280
  | ffma (o : LX)   -- R273
  | imad (o : LX)   -- R268
  | isum3 (o : LX)   -- R268
  | bitfn (o : LX)   -- R268
  | winxN32 (o : LX)   -- R268
  | winxI32 (o : LX)   -- R268
  | idot4 (o : LX)   -- R268
  | fdot2 (o : LX)   -- R273
  | iclamp (o : LX)   -- R268
  | fclamp (o : LX)   -- R273
  | sad (o : LX)   -- R268
  | fscale (o : LX)   -- R273
  | imadw (o : LX)   -- R268
  | uadd (o : LR)   -- R343
  | usub (o : LR)   -- R343
  | umul (o : LR)   -- R343
  | umulhI64 (o : LR)   -- R343
  | umulhN64 (o : LR)   -- R343
  | umac (o : LR)   -- R343
  | uminI64 (o : LR)   -- R343
  | uminN64 (o : LR)   -- R343
  | umaxI64 (o : LR)   -- R343
  | umaxN64 (o : LR)   -- R343
  | uand (o : LR)   -- R343
  | uor (o : LR)   -- R343
  | uxor (o : LR)   -- R343
  | unot (o : LR)   -- R343
  | ushl (o : LR)   -- R343
  | ushr (o : LR)   -- R343
  | usar (o : LR)   -- R343
  | uext (o : LR)   -- R344
  | uclz (o : LR)   -- R343
  | uffs (o : LR)   -- R343
  | upopc (o : LR)   -- R343
  | ucmp (o : LR)   -- R345
  | usel (o : LR)   -- R345
  | uplop (o : LR)   -- R345
  | umov (o : LR)   -- R343
  | umovi (o : UI)   -- R344
  | uaddi (o : UI)   -- R344
  | ucat (o : UI)   -- R344
  | udivN64 (o : LR)   -- R343
  | uremN64 (o : LR)   -- R343
  | ldN8Uniform (o : LM)   -- R297
  | ldN16Uniform (o : LM)   -- R297
  | ldN32Uniform (o : LM)   -- R297
  | ldI32Uniform (o : LM)   -- R297
  | ldN64Uniform (o : LM)   -- R297
  | stN8Uniform (o : LM)   -- R297
  | stN16Uniform (o : LM)   -- R297
  | stN32Uniform (o : LM)   -- R297
  | stN64Uniform (o : LM)   -- R297
  | ldc (o : LM)   -- R299
  | atomAddUniform (o : LM)   -- R301
  | atomFaddUniform (o : LM)   -- R301
  | atomMinUniform (o : LM)   -- R301
  | atomMaxUniform (o : LM)   -- R301
  | atomAndUniform (o : LM)   -- R301
  | atomOrUniform (o : LM)   -- R301
  | atomXorUniform (o : LM)   -- R301
  | atomXchgUniform (o : LM)   -- R301
  | atomCasUniform (o : LM)   -- R301
  | waitcmp (o : LM)   -- R305
  | fenceW (o : LR)   -- R153
  | fenceL (o : LR)   -- R154
  | fenceS (o : LR)   -- R306
  | cinv (o : LR)   -- R63
  | br (o : UB)   -- R347
  | bra (o : UB)   -- R347
  | brl (o : UL)   -- R347
  | call (o : UB)   -- R348
  | calll (o : UL)   -- R348
  | callo (o : LR)   -- R349
  | bri (o : LR)   -- R347
  | calli (o : LR)   -- R348
  | ret (o : LR)   -- R348
  | regang (o : LR)   -- R350
  | exit (o : LR)   -- R351
  | hoist (o : LX)   -- R352
  | hwait (o : LR)   -- R187
  | evict (o : LR)   -- R185
  | pin (o : LR)   -- R190
  | unpin (o : LR)   -- R190
  | hset (o : LX)   -- R315
  | hget (o : LR)   -- R316
  | mmLoadb (o : LX)   -- R318
  | mmPass (o : LX)   -- R319
  | mmSpass (o : LX)   -- R320
  | mmStore (o : LX)   -- R322
  | mmZero (o : LX)   -- R321
  | twLoad (o : LX)   -- R326
  | twStore (o : LX)   -- R326
  | twMcast (o : LX)   -- R330
  | twGather (o : LX)   -- R326
  | twRed (o : LX)   -- R329
  | twPermit (o : UI)   -- R331
  | cbatch (o : LR)   -- R332
  | cwait (o : LR)   -- R332
  | barInit (o : LR)   -- R333
  | barArrive (o : LR)   -- R333
  | barWait (o : LR)   -- R333
  | twait (o : LR)   -- R334
  | tread (o : LR)   -- R334
  | tapEnc (o : LX)   -- R336
  | tapAdapt (o : LX)   -- R336
  | tapNext (o : LR)   -- R337
  | tapRead (o : LR)   -- R338
  | tapResumeApply (o : LX)   -- R339
  | tapResumeSkip (o : LX)   -- R339
  | tapResumeRewritten (o : LX)   -- R339
  | gqIns (o : LX)   -- R340
  | gqPop (o : LX)   -- R340
  | gqAdd (o : LX)   -- R340
  | gqMax (o : LX)   -- R340
  | gqDone (o : LX)   -- R340
  | kvFork (o : LX)   -- R308
  | kvApp (o : LX)   -- R309
  | kvDrop (o : LX)   -- R310
  | kvDropFrame (o : LX)   -- R310
  | sread (o : LR)   -- R357
  | swrite (o : LR)   -- R358
  | trap (o : UI)   -- R359
  | tret (o : LR)   -- R360
  | elect (o : LR)   -- R354
  | lsel (o : LR)   -- R355
  | lwr (o : LR)   -- R355
  | launchTrig (o : LR)   -- R361
  | gridwait (o : LR)   -- R362
  | nop (o : LR)   -- R363
  | sleep (o : LR)   -- R363
  | gqRead (o : LR)   -- R341
  | gqResid (o : LR)   -- R341
  | yield (o : LR)   -- R363
  | bkpt (o : LR)   -- R359
  | mark (o : LR)   -- R363
  | time (o : LR)   -- R363
  | dictionaryPair (o : Pair)   -- R195
  | issueSelect   -- R204
  | fragmentPromotion (f : Who)   -- R204
  | fragmentRefill (core : Nat)   -- R172
  | spillWaitExpiry (core : Nat)   -- R172
  | yieldExpiry (f : Who)   -- R363
  | sleepExpiry (f : Who)   -- R363
  | wctWaitEnd (f : Who)   -- R49
  | detTurn (f : Who)   -- R206
  | detStall (launch : Nat)   -- R207
  | pageWalk (i : Nat)   -- R26
  | faultqOverflowRewalk (i : Nat)   -- R31
  | homeSliceWrite (id : Nat)   -- R49
  | writeVisible (id : Nat)   -- R49
  | homeSliceRead (id : Nat)   -- R50
  | mxAliasWrite (id : Nat)   -- R22
  | ownershipGrant (id : Nat)   -- R44
  | stashWriteback (gid : Nat) (line : Nat)   -- R44
  | leaseRecordDrop (line : Nat)   -- R48
  | atomicPerform (id : Nat)   -- R53
  | relAtomicRelease (id : Nat)   -- R54
  | routerMerge (i : Nat) (j : Nat)   -- R55
  | mergeHoldExpiry (id : Nat)   -- R55
  | atomicReturn (id : Nat)   -- R57
  | monitorFallback (f : Who)   -- R59
  | hostWriteAck (id : Nat)   -- R39
  | hostBar2Access (func : Nat) (va : Nat) (a : HostAccess) (data : List Byte)   -- R384
  | engineSlotStart (core : Nat)   -- R65
  | engineWalkStart (core : Nat) (i : Nat)   -- R66
  | permitEffect (gid : Nat)   -- R73
  | ringTileStart (core : Nat) (i : Nat)   -- R73
  | engineCommandComplete (core : Nat) (i : Nat)   -- R76
  | mcastCopyLand (core : Nat) (i : Nat) (target : Nat)   -- R74
  | operandFetch (core : Nat)   -- R72
  | matrixGrant (core : Nat)   -- R118
  | arbiterPromotion (core : Nat) (i : Nat)   -- R118
  | bankLoad (core : Nat) (i : Nat)   -- R318
  | bankLoadComplete (core : Nat) (bank : Nat)   -- R318
  | passComplete (core : Nat)   -- R110
  | mmStoreComplete (id : Nat)   -- R323
  | tapEncodeRow (core : Nat)   -- R136
  | tapCommit (gid : Nat) (i : Nat)   -- R139
  | tapAdaptRow (core : Nat)   -- R147
  | hoistLoadComplete (core : Nat) (slot : Nat)   -- R185
  | hoistLoadFault (core : Nat) (slot : Nat)   -- R185
  | overlayFree (core : Nat) (slot : Nat)   -- R185
  | codeAbsentService (f : Who)   -- R188
  | forcedEviction (core : Nat) (slot : Nat)   -- R191
  | dictLoad (core : Nat) (k : Nat)   -- R194
  | groupClaim (core : Nat)   -- R202
  | groupDrainComplete (gid : Nat)   -- R123
  | launchComplete (launch : Nat)   -- R159
  | gqUpdateApply (pool : Nat) (i : Nat)   -- R160
  | faultDelivery (f : Who)   -- R220
  | delegatedFault (f : Who)   -- R221
  | imageSlotClaim (gid : Nat)   -- R225
  | groupHalt (gid : Nat)   -- R226
  | saveComplete (gid : Nat)   -- R227
  | resumePlace (core : Nat)   -- R233
  | focusEnd (gid : Nat)   -- R409
  | uncorrectableWriteback (pa : Nat)   -- R234
  | errorRetry (die : Nat) (kind : Nat) (pa : Nat)   -- R418
  | coreRetire (core : Nat)   -- R420
  | sliceRetire (slice : Nat)   -- R421
  | deviceSpare (dev : Nat)   -- R422
  | droopStretch (pair : Nat)   -- R423
  | droopRelease (pair : Nat)   -- R423
  | powerLimitStretch (watts : Nat)   -- R424
  | firmwareVerify   -- R402
  | dieRestart (die : Nat)   -- R412
  | taggedMessageArrive (func : Nat) (m : MsgHead) (payload : List Byte) (mp : Nat) (mc : Nat)   -- R395
  | flitReplay (port : Nat) (seq : Nat)   -- R401
  | frontEndFetch (func : Nat) (q : Nat)   -- R388
  | nopPacket (func : Nat) (q : Nat)   -- R389
  | launchPacket (func : Nat) (q : Nat)   -- R390
  | resumePacket (func : Nat) (q : Nat)   -- R392
  | ibPacket (func : Nat) (q : Nat)   -- R391
  | predPacket (func : Nat) (q : Nat)   -- R390
  | fencePacket (func : Nat) (q : Nat)   -- R390
  | signalPacket (func : Nat) (q : Nat)   -- R390
  | waitPacket (func : Nat) (q : Nat)   -- R390
  | armPacket (func : Nat) (q : Nat)   -- R394
  | cqDoorbell (func : Nat) (q : Nat) (v : Nat)   -- R387
  | cqEnable (func : Nat) (q : Nat) (v : Nat)   -- R387
  | cqRestart (func : Nat) (q : Nat) (skip : Bool)   -- R393
  | evqCtlWrite (func : Nat) (v : Nat)   -- R396
  | evqHeadWrite (func : Nat) (v : Nat)   -- R396
  | mxModeChange (e : Nat) (mode : Nat)   -- R24
  | mxModeChangeDone (e : Nat)   -- R24
  | l2WaysWrite (func : Nat) (v : Nat)   -- R40
  | l2LeaseWrite (func : Nat) (v : Nat)   -- R47
  | codeCantonWrite (func : Nat) (v : Nat)   -- R192
  | gqPoolOpen (func : Nat) (k : Nat)   -- R210
  | gqPoolClose (func : Nat) (k : Nat)   -- R214
  | traceEnable (func : Nat) (v : Nat)   -- R413
  | profClear (core : Nat)   -- R416
  | profFreeze (core : Nat) (on : Bool)   -- R416
  | powerLimitWrite (v : Nat)   -- R424
  | registerWrite (func : Nat) (off : Nat) (size : Nat) (v : Option Nat)   -- R386
  | hcCmdUnknown (func : Nat) (code : Nat)   -- R397
  | preempt (func : Nat)   -- R405
  | retry (func : Nat)   -- R220
  | terminate (func : Nat)   -- R220
  | replay (func : Nat)   -- R31
  | cancel (func : Nat)   -- R31
  | invalidate (func : Nat)   -- R28
  | invalidateComplete (func : Nat)   -- R28
  | peerSet (func : Nat)   -- R401
  | collSetup (func : Nat)   -- R401
  | attest (func : Nat)   -- R404
  | functionReset (func : Nat)   -- R397
  | moduleLoad (func : Nat)   -- R398
  | moduleBind (func : Nat)   -- R398
  | moduleUnload (func : Nat)   -- R193
  | moduleUnloadComplete (func : Nat)   -- R193
  | keyEnroll (func : Nat)   -- R398
  | fwLoad (func : Nat)   -- R402
  | hostReadCompletion (id : Nat) (data : List Byte)   -- R385
  | twRedContribution (func : Nat) (k : Nat) (rank : Nat) (data : List Byte) (mp : Nat) (mc : Nat)   -- R329
  | powerLimitRelease (watts : Nat)   -- R424
  | dieRepairReset (die : Nat)   -- R412
  | spareDeviceCopy (dev : Nat) (line : Nat)   -- R422
  deriving DecidableEq, Repr

end Sys2Proof
end

