-- ==== Sys2Proof/Machine/State.lean ====
section
/-!
DEFINITION. The state of the whole device as plain data, its reset, and the ways a step can stop.
-/

namespace Sys2Proof.Machine

/-- A sparse table: pairs of a key and a value, keys strictly rising, no pair whose value is the default of its
table. The operations over it are in Ops.lean. -/
abbrev SMap (α : Type) := List (Nat × α)

/-- Memory: `Host.Cell` pairs of a physical address and a byte in the same form; an unlisted byte reads 0 (log 2). -/
abbrev Memory := SMap Byte

/-- Fault and fault-record reasons, in code order (R215). -/
inductive Reason where
  | notPresent | permission | badEntry | nonCanonical | paUnbacked | mxAliasAtomic
  | cow | poolEmpty | listFull | badList | refcountOverflow | refcountUnderflow
  | codeAbsent | moduleRevoked | noCode | badOverlay | storeFull | pinLimit | pinOverflow | pinUnderflow
  | illegalInstruction | misaligned | maskStackOverflow | regangMismatch
  | badStashMap | badWalk | permitOverflow | badMcast | badTcbind | badSreg | badFormatSlot | badDupMap
  | matrixConfig | sparseMetadata | tapConfig | pennantLimit | badPennant | nanOperand
  | gqState | gqNan | gqRange | gqPool
  | barrierOverflow | badSlot | badRule | nanFeature | rewriteLimit | unhandled | badAdapter | mcastDrop
  | trap | debug | uncorrectable | detStall | badDict | badImage
  deriving DecidableEq, Repr

/-- A fault of an instruction, as its record will show it (R216, R218, R219). -/
structure FaultInfo where
  reason : Reason
  addr : Reg
  lanes : BitVec 64
  pc : Reg
  tick : Nat
  d0 : Reg
  d1 : Reg
  d2 : Reg
  deriving DecidableEq, Repr

/-- Kinds of access for translation (R27, R29, R31). -/
inductive Access where
  | read | write | atomic | execute | frontEnd
  deriving DecidableEq, Repr

/-- The contexts that number operations (R80, R81). -/
inductive CtxRef where
  | engine (core : Nat)
  | matrix (gid : Nat)
  | tap (gid : Nat) (t : Nat)
  | coll (func : Nat) (k : Nat)
  deriving DecidableEq, Repr

/-- A context's counters (R81): ISSUED, COUNT, numbers completed above COUNT, numbers that ended in error. -/
structure Counter where
  issued : Nat
  count : Nat
  done : List Nat
  errs : List Nat
  deriving DecidableEq, Repr

/-- Why a fragment waits (R171's STALLED and SLEEPING; the reasons of R417). -/
inductive Wait where
  | scoreboard (regs : List Nat)    -- registers that loads or atomics have still to write, or, from 128 on, that passes hold, R176, R320
  | memLimit                        -- R224
  | walk                            -- a translation is being walked, R30
  | missFull                        -- every miss entry of the core is busy, R30
  | older                           -- an older access of the gang has still to be translated, R161
  | ownStore (line : Nat)           -- the gang's own store to a line has still to be performed, R150
  | until (t : Nat)                 -- NOW() ≥ the time at which its operation completes, R34
  | parked                          -- in a translation fault record, R31
  | rewalk (due : Nat)              -- the fault queue was full, R31
  | ownership                       -- a store that waits for its lines, R44
  | acquire                         -- an atomic with .ACQ has not returned, R155
  | fenceW                          -- R153
  | fenceL                          -- R154
  | stash                           -- earlier stash accesses, R158
  | settle                          -- earlier writes have not returned their T, R49
  | wct (due : Nat) (gang : Bool)   -- NOW() ≥ the settled %wct, R49; the gang is held in FENCE.W, R153
  | monitor                         -- WAITCMP armed, R58
  | monitorFull (due : Nat)         -- WAITCMP parked, R59
  | mirror                          -- TWAIT on a mirror word, armed as a monitor, R82
  | mirrorFull (due : Nat)          -- TWAIT on a mirror word, parked, R82
  | hostRead                        -- WAITCMP's re-read of region 0x4, R305
  | barrier (b : Nat)               -- BAR.WAIT, R333
  | batch (n : Nat)                 -- CWAIT of batch n, or a ninth CBATCH with n = 0, R77
  | timeline (x : Option CtxRef) (n : Nat)  -- TWAIT for number n of a context, or GRIDWAIT
  | engineFull (w0 w1 : Word) (next : Reg)  -- the engine's queue is full: the command's words and the address after it, R65
  | matrix                          -- the reservation table is full, R117
  | inUse                           -- accumulator rows or a handle in use, R111, R135, R315
  | tapNext                         -- R142
  | gqPop (pool : Nat)              -- R212
  | gqHeld (pool : Nat)             -- an update held for its marker, R160
  | hwait (t : Nat)                 -- R187
  | codeLoad                        -- fetch of a LOADING entry, R188
  | codeAbsent                      -- the agent's service, R188
  | dictLoad                        -- R194
  | sleep (due : Nat)               -- R363
  | yield (clk : Nat)               -- R363
  | det                             -- a deterministic operation's turn, R206
  deriving DecidableEq, Repr

/-- What an event has answered to a waiting instruction, taken when it issues again. -/
inductive Grant where
  | pred (b : Bool)                               -- WAITCMP, TWAIT on a mirror word, GQ.ADD and GQ.MAX
  | reached (ok : Bool)                           -- TWAIT, CWAIT: what is waited for has completed, without an error
  | popped (task : Nat) (gain : Word)             -- GQ.POP with a task
  | closed                                        -- GQ.POP of a closed pool
  | walkFault (r : Reason) (va : Nat)             -- a walk that ended in a fault, or a record answered by CANCEL
  | fault (r : Reason) (d0 d1 d2 : Reg)           -- the fault that a performed operation ends in (R35, R37)
  | turn                                          -- its turn in a deterministic launch
  | passed                                        -- the wait has ended
  deriving DecidableEq, Repr

/-- STATE of a split-table entry (R171). A fault that has been taken up holds the address of its fault-record entry, 0
for one that the agent serves or that waits under R221. -/
inductive FState where
  | eligible
  | stalled (w : Wait)
  | regangWait
  | sleeping (w : Wait)
  | faulted (f : FaultInfo) (entry : Option Nat)
  deriving DecidableEq, Repr

/-- The uniform registers and predicates that an instruction read when it issued, kept while it waits (R174). -/
structure Frozen where
  g : Vector Reg 32
  q : Vector Bool 8
  deriving DecidableEq, Repr

/-- A fragment (R170, R171). `entry` is its split-table entry, `none` while it is spilled. `code` is the
dictionary entry's word in hand and the address after it (R195). `ret` is the address of the instruction it has just
retired (R406). `frozen` are the operands of an instruction that waits. `spillNo` is the place of its latest spill in spill order (R172).
`ckpt` is its checkpoint: from the oldest memory instruction with an access not performed on, their numbers and addresses
(R161). `overlay` is the residency slot it last issued from (R189). `busy` is the clk before which it does not issue (R172, R197). -/
structure Frag where
  id : Nat
  quads : List Nat
  pc : Reg
  state : FState
  entry : Option Nat
  lastIssue : Nat
  waited : Nat
  promoted : Option Nat
  overlay : Option Nat
  code : Option (Word × Reg)
  ret : Option Reg
  grant : Option Grant
  frozen : Option Frozen
  ckpt : List (Nat × Reg)
  handler : Bool
  skip : BitVec 32
  since : Nat
  spillNo : Nat
  busy : Nat
  deriving DecidableEq, Repr

/-- A mask-stack entry (R168). -/
structure MaskEntry where
  resume : Reg
  join : Option Reg
  phase : Bool
  doneMask : BitVec 4
  other : BitVec 4
  deriving DecidableEq, Repr

/-- A quad (R167, R100); `lclk` counts what it has retired (R206). -/
structure Quad where
  present : Bool
  mask : BitVec 4
  stack : List MaskEntry
  dix : Reg
  lclk : Reg
  deriving DecidableEq, Repr

/-- A tile handle's four words (R314). -/
structure Handle where
  base : Reg
  dims : Reg
  stride : Reg
  genSlot : Reg
  deriving DecidableEq, Repr

/-- A format slot's four words (R95). -/
structure FmtSlot where
  w0 : Reg
  seed : Reg
  scaleBase : Reg
  dupBase : Reg
  deriving DecidableEq, Repr

/-- A closed batch: its number and the numbered commands in it (R77). -/
structure Batch where
  no : Nat
  cmds : List (CtxRef × Nat)
  deriving DecidableEq, Repr

/-- A gang (R174). v registers are keyed register × 64 + lane. -/
structure Gang where
  slot : Nat
  lanes : Nat
  v : SMap Word
  p : Vector (BitVec 64) 8
  g : Vector Reg 32
  q : Vector Bool 8
  m : Vector Reg 8
  h : Vector Handle 16
  wct : Nat
  fsticky : BitVec 4
  batchNo : Nat
  openCmds : List (CtxRef × Nat)
  batches : List Batch
  frec : Vector Reg 8
  pins : List (Nat × Nat)
  triggered : Bool
  quads : Vector Quad 16
  frags : List Frag
  nextFrag : Nat
  deriving DecidableEq, Repr

/-- A named barrier (R78); `bad` notes an engine arrival in error in the phase under way, `lastBad` in the last
completed phase (R333). -/
structure Barrier where
  phase : Bool
  expected : BitVec 12
  arrived : BitVec 12
  bad : Bool
  lastBad : Bool
  deriving DecidableEq, Repr

/-- A stash line of a mapped window (R44), keyed by its line number in the partition. `own` is EXCLUSIVE; `id` is the
request that filled it. -/
structure SLine where
  id : Nat
  pa : Nat
  own : Bool
  lease : Nat
  dirty : List (Nat × Byte)
  deriving DecidableEq, Repr

/-- States of a tap row (R143). -/
inductive TapState where
  | waiting | encoding | applying | held | handling | ready
  deriving DecidableEq, Repr

/-- A row at work for a tap instruction (R129, R143): its number on the device, the clk it began to wait, the block row,
its request slot, its rule set or adapter id; its features and deltas once encoded; `unhandled` marks a hit without a
handler (R141). Its x stands in its accumulator rows. -/
structure TapRow where
  id : Nat
  since : Nat
  tap : Nat
  number : Nat
  row : Nat
  slot : Nat
  adapt : Bool
  state : TapState
  status : Nat
  encCount : Nat
  pennant : Nat
  position : Word
  index : Nat
  feats : List (Nat × Word)
  trunc : Bool
  delta : List (Nat × Word)
  unhandled : Bool
  parked : Bool
  deriving DecidableEq, Repr

/-- What a tap instruction copied at its issue (R126, R335, R336). -/
structure TapBlock where
  tap : Nat
  number : Nat
  gang : Nat
  pc : Reg
  quads : List Nat
  dix : Reg
  desc : List Reg
  enc : Handle
  dec : Handle
  rows : Nat
  accBase : Nat
  descOff : Nat
  adapt : Bool
  deriving DecidableEq, Repr

/-- Classes of the matrix arbiter (R118). -/
inductive MClass where
  | main | tapClass | background
  deriving DecidableEq, Repr

/-- Stages of a reservation entry: waiting for its grant, granted (a bank to load, or the follower to fall idle), and
running since a clk. -/
inductive RStage where
  | waiting | granted
  | running (start : Nat)
  deriving DecidableEq, Repr

/-- A reservation entry: a pass or a bank load (R117 to R120, R318 to R320). `id` is its place in posting order; `op`
is 0x42, 0x43 or 0x44; `gacc` is gO for a load; a load's tile is `hB`; `next` the next slot; `halves` the metadata as
(column, group, indices); `ins` and `wct` carry the gang's settled %wct (R66, R72); a restored pass has its B to fetch again
while `refetch` (R124). -/
structure Rsv where
  id : Nat
  op : Nat
  who : Who
  pc : Reg
  quads : List Nat
  words : Word × Word
  cls : MClass
  since : Nat
  gacc : Reg
  gp : Reg
  hA : Nat × Handle
  hB : Nat × Handle
  origin : Nat × Nat
  rr : BitVec 256
  number : Nat
  next : Nat
  halves : List (Nat × Nat × BitVec 12)
  ins : Nat
  wct : Nat
  parked : Bool
  refetch : Bool
  stage : RStage
  deriving DecidableEq, Repr

/-- What a load's line fills besides registers: the read buffer, a line of a mapped window (its number in the
partition and its address), the constant buffer (R43, R44, R62). -/
inductive Fill where
  | readBuffer
  | window (line va : Nat)
  | const
  deriving DecidableEq, Repr

/-- The kinds of requests that go to home slices (R44, R49, R50, R53). -/
inductive ReqKind where
  | store
  | own (line va : Nat)
  | load (size : Nat) (signed : Bool) (fill : Fill)
  | compare (ty rel value : Nat)
  | atomic (op ty : Nat) (rel acq : Bool)
  | unit
  deriving DecidableEq, Repr

/-- Where a request stands: on its way, in the merge buffer of a router since a tick (R55; routers 0 to 95 are those of
the cores, 96 on those of the home slices), held for its marker, sent on to the host, holding a T, performed, or found
to fail at its home slice (R24, R234). -/
inductive ReqStage where
  | flight
  | merging (since router : Nat)
  | heldRel
  | sent
  | timed (t : Nat)
  | performed
  | bad (r : Reason)
  deriving DecidableEq, Repr

/-- One part of a request: the requester, the instruction's address, its lane (64 for a uniform access) and destination
register, a virtual and a physical address, the register its bytes start in beyond `dst`, and its bytes or operand; `pre` are the operands merged
before it, outermost first (R57); `ins` is its instruction's number. -/
structure ReqPart where
  who : Option Who
  pc : Reg
  ins : Nat
  lane : Nat
  dst : Nat
  va : Nat
  pa : Nat
  off : Nat
  data : List Byte
  opnd : BitVec 64
  cmp : BitVec 64
  pre : List (BitVec 64)
  deriving DecidableEq, Repr

/-- A request: `id` in order of issue, `ins` its instruction's number, `total` the combined operand (R57), `old` the
value an atomic found. -/
structure Req where
  id : Nat
  ins : Nat
  who : Option Who
  func : Nat
  aspace : Nat
  kind : ReqKind
  parts : List ReqPart
  total : BitVec 64
  marker : Nat
  stage : ReqStage
  old : BitVec 64
  det : Bool
  deriving DecidableEq, Repr

/-- What an atomic does to the value it finds: operation, type, operand and CAS's compare value. -/
structure Rmw where
  op : Nat
  ty : Nat
  opnd : BitVec 64
  cmp : BitVec 64
  deriving DecidableEq, Repr

/-- A write that holds its T and is not visible yet (R49): bytes, or an atomic to be performed at T. `view` is the alias
line that it writes (R23), `gangs` are the gangs that issued it, `func` is the function that allocates its line (R41). -/
structure Pending where
  id : Nat
  ins : Nat
  func : Nat
  view : Option Nat
  pa : Nat
  data : List Byte
  rmw : Option Rmw
  t : Nat
  gangs : List (Nat × Nat)
  deriving DecidableEq, Repr

/-- A home slice's record of a line (R48, R44): L_MAX, T_LAST, and the group that holds it EXCLUSIVE. -/
structure LineRec where
  lmax : Nat
  tlast : Nat
  owner : Option Nat
  deriving DecidableEq, Repr

/-- Who waits at a monitor: a fragment, or a command queue in a WAIT packet (R58, R390). -/
inductive Waiter where
  | frag (w : Who)
  | queue (func q : Nat)
  deriving DecidableEq, Repr

/-- An armed monitor (R58), armed at the tick `since`; one whose slice is 64 is a WAITCMP parked without an entry (R59,
R305). -/
structure Monitor where
  slice : Nat
  who : Waiter
  since : Nat
  func : Nat
  pa : Nat
  ty : Nat
  rel : Nat
  value : Nat
  deriving DecidableEq, Repr

/-- A home slice (R38, R48, R61, R421). -/
structure Slice where
  remap : Nat
  retired : Bool
  horizon : Nat
  overflow : Nat
  deriving DecidableEq, Repr

/-- A way of L2: a line, and for a dirty one the bytes that device memory still holds (R41, R234). -/
structure L2Way where
  line : Nat
  older : Option (List Byte)
  deriving DecidableEq, Repr

/-- A set of L2: its sixteen ways, and the bits of its pseudo-LRU tree, node n in bit n (R38, R41). -/
structure L2Set where
  ways : Vector (Option L2Way) 16
  plru : BitVec 16
  deriving DecidableEq, Repr

/-- A cached entry (R26, R28): the cache that holds it (2c the micro-TLB and 2c+1 the core TLB of core c, 192+d the shared
cache of die d), its level (4 a leaf of a 64 KiB window, 1 to 3 the address of a table of that level), its tags and the
index bits that it translates. -/
structure Tlb where
  cache : Nat
  lvl : Nat
  func : Nat
  aspace : Nat
  page : Nat
  pa : Nat
  r : Bool
  w : Bool
  x : Bool
  deriving DecidableEq, Repr

/-- A miss waiting for a walker (R30). -/
structure Walk where
  who : Who
  func : Nat
  aspace : Nat
  va : Nat
  kind : Access
  deriving DecidableEq, Repr

/-- What a translation fault record parks besides fragments (R31). -/
inductive Parked where
  | frag (w : Who)
  | engine (core : Nat) (i : Nat)
  | hoist (core : Nat) (slot : Nat)
  | tapRow (gid : Nat) (i : Nat)
  | pass (core : Nat) (i : Nat)
  | ticket (launch : Nat)
  | queue (func : Nat) (q : Nat)
  deriving DecidableEq, Repr

/-- A translation fault record (R31); `parked` are the works parked in it, each with the reason and address it met. -/
structure XRec where
  die : Nat
  place : Nat
  func : Nat
  aspace : Nat
  page : Nat
  kinds : BitVec 5
  parked : List (Parked × Reason × Nat)
  deriving DecidableEq, Repr

/-- Work that a full fault queue did not record: it re-walks at `due` (R31). -/
structure Rewalk where
  due : Nat
  what : Parked
  deriving DecidableEq, Repr

/-- An MX region entry (R19). -/
structure MxEntry where
  view : Nat
  packed : Nat
  scale : Nat
  busy : Bool
  mode : Nat
  fmt : Nat
  len : Nat
  deriving DecidableEq, Repr

/-- A residency table entry (R183); STATE 0 FREE to 4 FAILED. `charged` are the functions charged (R192), `used`
the last use (R186), `loadVA` where its bytes lie for the function and address space that hoisted it; `revoked` after
its module's unload began (R193). -/
structure ResEntry where
  modIdx : Nat
  offset : Nat
  len : Nat
  store : Nat
  state : Nat
  fail : Option Reason
  evictPending : Bool
  gen : Nat
  pins : Nat
  func : Nat
  charged : List Nat
  used : Nat
  loadVA : Nat
  loadFunc : Nat
  loadAspace : Nat
  revoked : Bool
  deriving DecidableEq, Repr

/-- A dictionary store (R194). -/
structure DictStore where
  launch : Option Nat
  words : List Word
  deriving DecidableEq, Repr

/-- Stages of an engine command (R65, R66, R73, R76). -/
inductive CmdStage where
  | queued                -- in the queue
  | active                -- in an active slot, waiting for its settled %wct
  | permit                -- a ring command that waits for its permit
  | walking               -- its walk is under way, or contributions are awaited
  | finishing (due : Nat) -- its walk is done; its last write reaches its time at `due`
  deriving DecidableEq, Repr

/-- An engine command (R324 to R330): `id` in order of issue, operands as its issue read them, the window of its
modulo register (base in the partition and length), its walk program, `pos` the iterations done, `ins` and `wct` as it
carries the gang's settled %wct (R66), `due` the latest T of its writes, `hosts` its writes to host memory, `data` what
a multicast read and `copies` the cores where it has still to land; `idx` are the index elements in hand: the LOOP's step,
the iteration that read it and its value (R74). -/
structure Cmd where
  id : Nat
  stage : CmdStage
  op : Nat
  who : Who
  pc : Reg
  quads : List Nat
  dix : Reg
  words : Word × Word
  ga : Reg
  gw : Reg
  gc : Reg
  win : Nat × Nat
  prog : List Reg
  pos : Nat
  batch : Nat
  ctx : CtxRef
  number : Nat
  ins : Nat
  wct : Nat
  err : Option Reason
  addr : Nat
  flags : BitVec 4
  due : Nat
  copies : List Nat
  data : List (Int × List Byte)
  idx : List (Nat × Nat × Int)
  hosts : List Nat
  parked : Bool
  deriving DecidableEq, Repr

/-- Phases of a pre-emption (R225 to R227): wanted, its slot claimed at a tick, saving since HALT_TICK with the entries
taken off the reservation table, the accesses cancelled and the engine commands not accepted. `host` is false for one that the agents resume themselves (R191, R420). -/
inductive Preempt where
  | none
  | wanted (host : Bool)
  | claimed (host : Bool) (slot since : Nat)
  | saving (host : Bool) (slot halt : Nat) (rsvs : List Rsv) (reqs : List Req) (cmds : List Cmd)
  deriving DecidableEq, Repr

/-- A group under focus (R408, R409). -/
structure Focus where
  gang : Nat
  frag : Nat
  lane : Nat
  left : Nat
  steps : Nat
  ended : Nat
  deriving DecidableEq, Repr

/-- A placed group, keyed by core × 32 + place (R164, R201). `origins` are the origins of its latest MM.LOADBs by bank
and handle contents (R108); `permits` are TW.PERMITs that wait: gang, register, count and the number of the
instruction before which its loads return (R73). `resumedBy` are the queues whose RESUME restored it (R392). -/
structure Group where
  launch : Nat
  index : Nat
  handlerOf : Bool
  handlerLive : Bool
  peer : Option Nat
  placedAt : Nat
  stashBase : Nat
  accBase : Nat
  stash : SMap Byte
  lines : SMap SLine
  acc : SMap (List Word)
  smap : Vector Reg 8
  mcast : Reg
  tcbind : Vector Reg 8
  rready : BitVec 256
  rpend : BitVec 256
  bars : Vector Barrier 16
  halyard : Vector (BitVec 12) 8
  permits : List (Nat × Nat × Nat × Nat)
  matrix : Counter
  taps : Vector Counter 8
  slots : Vector FmtSlot 8
  gangs : List Gang
  tapBlocks : List TapBlock
  tapRows : List TapRow
  dictReady : Bool
  origins : List (Nat × Handle × Nat × Nat)
  draining : Bool
  preempt : Preempt
  focus : Option Focus
  resumedBy : List Nat
  deriving DecidableEq, Repr

/-- A bank's tag (R108, R318); `layout` 0 single, 1 K512, 2 N2048. -/
structure BankTag where
  func : Nat
  aspace : Nat
  handle : Handle
  slot : FmtSlot
  origin : Nat × Nat
  layout : Nat
  deriving DecidableEq, Repr

/-- A B bank (R106): cells keyed row × 1024 + column, each with its block's scale byte, and the indices of the index
plane that are not those of R120's reset; `busy` is the load under way. -/
structure Bank where
  tag : Option BankTag
  cells : SMap Byte
  scales : SMap Byte
  index : SMap (BitVec 3)
  busy : Option Nat
  deriving DecidableEq, Repr

/-- An operand-cache entry (R119): 4 KiB of a tile from an offset on, with the bytes fetched so far. -/
structure OcEntry where
  gid : Nat
  handle : Nat
  gen : Nat
  off : Int
  data : SMap Byte
  deriving DecidableEq, Repr

/-- A constant-buffer line (R62); `readAt` is the tick at which it was read. -/
structure CLine where
  func : Nat
  aspace : Nat
  line : Nat
  readAt : Nat
  data : List Byte
  deriving DecidableEq, Repr

/-- A pennant in the queue or in HANDLING, held by a handler group (R140, R142). -/
structure Pennant where
  id : Nat
  gid : Nat
  row : Nat
  words : List Reg
  handling : Bool
  holder : Option Nat
  launch : Nat
  deriving DecidableEq, Repr

/-- What a save keeps beside its image (log 40): the function, the image's address space and address, the launch, the
group's key, the group and its entries as they were saved, the accesses that its halt cancelled and the engine commands
not accepted (R226), the pennants its handler held, and the name that its rows' pennants carry meanwhile. While `opened` the image's last write has its time at `due`, its writes to host memory are acknowledged with `hosts`; `image` is
what was written. -/
structure SaveRec where
  func : Nat
  aspace : Nat
  va : Nat
  launch : Nat
  gid : Nat
  tag : Nat
  grp : Group
  rsvs : List Rsv
  reqs : List Req
  cmds : List Cmd
  pens : List Pennant
  opened : Bool
  host : Bool
  slot : Nat
  due : Nat
  hosts : List Nat
  image : List Byte
  deriving DecidableEq, Repr

/-- An accepted MM.STORE whose writes have not all reached their times (R323). -/
structure StoreJob where
  id : Nat
  who : Who
  number : Nat
  due : Nat
  hosts : List Nat
  flags : BitVec 4
  deriving DecidableEq, Repr

/-- A split-table entry on its way to its core's spill area (R172, R228): `base` is the save region's address, `n` the place
in the area. -/
structure SpillJob where
  func : Nat
  aspace : Nat
  base : Nat
  n : Nat
  data : List Byte
  deriving DecidableEq, Repr

/-- One logical core. -/
structure Core where
  residency : Vector ResEntry 64
  istore : SMap Word
  dicts : Vector DictStore 4
  queue : List Cmd
  engine : Counter
  banks : Vector Bank 4
  rsvs : List Rsv
  slave : Option Nat
  opcache : List OcEntry
  cbuf : List CLine
  rbuf : List (Nat × Nat)
  pennants : List Pennant
  nextPennant : Nat
  storeJobs : List StoreJob
  spilled : List SpillJob
  rotate : Vector Nat 5
  portBusy : Vector Nat 5
  agentClk : Nat
  profFreeze : Bool
  profFunc : Nat
  prof : SMap Nat
  unplaced : Bool
  retiring : Bool
  deriving DecidableEq, Repr

/-- The fields of a launch record that the device keeps (R198). -/
structure LaunchRec where
  entry : Reg
  groups : Nat
  shape : Nat
  gangs : Nat
  width : Nat
  lastLanes : Nat
  regs : Nat
  accRows : Nat
  stash4k : Nat
  tapMask : Nat
  cluster : Bool
  det : Bool
  dict : Reg
  fmtBase : Reg
  tapBase : Reg
  reqBase : Reg
  reqCount : Nat
  ticket : Reg
  saveBase : Reg
  faultBase : Reg
  tapEntry : Reg
  cowEntry : Reg
  ginit : List Reg
  deriving DecidableEq, Repr

/-- A launch (R200, R159): `exited` groups have drained, `saved` ones stand in images, `triggers` are gangs (group
index, gang) that have recorded their trigger or were saved after they exited; `latest` is the last T of its writes;
`blocked` while a fault on its ticket line awaits its answer (R202); it starts at `notBefore` at the earliest, once the
host has acknowledged `hosts` (R395); `start` is the tick of its first claim (R62). -/
structure Launch where
  func : Nat
  aspace : Nat
  va : Reg
  queue : Option Nat
  dep : Option Nat
  rcd : LaunchRec
  dictWords : List Word
  slots : List FmtSlot
  claimed : Nat
  allClaimed : Bool
  exited : Nat
  saved : List Nat
  triggers : List (Nat × Nat)
  latest : Nat
  blocked : Option Nat
  notBefore : Nat
  start : Nat
  hosts : List Nat
  terminated : Bool
  complete : Bool
  lastSync : Nat
  deriving DecidableEq, Repr

/-- An entry of the device run list (R200): a launch, or a RESUME. -/
inductive RunEntry where
  | launch (l : Nat)
  | resume (func aspace : Nat) (queue : Option Nat) (saveBase : Reg) (slot : Nat)
  deriving DecidableEq, Repr

/-- A task of a pool (R210). -/
structure Task where
  gain : Word
  pending : Word
  runs : Nat
  state : Nat
  deriving DecidableEq, Repr

/-- A held GQ.ADD or GQ.MAX (R160). -/
structure GqUpdate where
  who : Who
  task : Nat
  value : Word
  max : Bool
  marker : Nat
  deriving DecidableEq, Repr

/-- A gain-queue pool (R209 to R212). -/
structure Pool where
  state : Nat
  closeReason : Nat
  err : Bool
  owner : Nat
  base : Reg
  aspace : Nat
  ntasks : Nat
  spill : Reg
  tolerance : Word
  threshold : Word
  tasks : List Task
  sleepers : List Who
  held : List GqUpdate
  deriving DecidableEq, Repr

/-- A module table entry (R180): `bytes` are its bytes and `dir` its directory, as the load read them (R187). -/
structure Module where
  digest : List Byte
  state : Nat
  shared : Bool
  len : Nat
  dirOff : Nat
  dirCount : Nat
  dir : List (Nat × Nat)
  bytes : List Byte
  deriving DecidableEq, Repr

/-- A binding of a module map (R181). -/
structure Binding where
  modIdx : Nat
  aspace : Nat
  va4k : Nat
  deriving DecidableEq, Repr

/-- A level of nesting of a command queue: where its packets lie and how many are left (R391). -/
structure CqLevel where
  va : Reg
  next : Nat
  total : Nat
  deriving DecidableEq, Repr

/-- A command queue (R387): packets left of the units in hand, what it waits for: `parked` in a translation record, `due`
the time of a SIGNAL's store or of a WAIT's next look, `hosts` that store's acknowledgements, `woken` that the monitor of
its WAIT found the relation true; `held` is the packet under way, which the host's writes do not change any more (R388), and
`byPacket` that a packet stopped it (R393). -/
structure Cq where
  base : Reg
  en : Bool
  aspace : Nat
  sizeLog2 : Nat
  head : BitVec 32
  tail : BitVec 32
  stopReason : Nat
  stopDetail : Nat
  state : Nat
  levels : List CqLevel
  units : List (Nat × List Byte)
  lastLaunch : Option Nat
  launches : List Nat
  resumes : Nat
  parked : Option Nat
  due : Option Nat
  hosts : List Nat
  woken : Bool
  held : Option (List Byte)
  byPacket : Bool
  deriving DecidableEq, Repr

/-- An event waiting in the device (R396), not to be written before the tick `due`, nor before the host has acknowledged
`hosts`. -/
structure Event where
  due : Nat
  hosts : List Nat
  kind : Nat
  w1 : Reg
  w2 : Reg
  w3 : Reg
  deriving DecidableEq, Repr

/-- A trace ring's own state (R413 to R415). -/
structure Ring where
  head : Nat
  tail : Nat
  last : Option Nat
  dropped : Nat
  fresh : Bool
  deriving DecidableEq, Repr

/-- An ARM entry (R394), with the queue that armed it. -/
structure Arm where
  queue : Nat
  va : Reg
  aspace : Nat
  tag : Nat
  cap : Nat
  buf : Reg
  deriving DecidableEq, Repr

/-- A peer entry (R401). -/
structure Peer where
  id : Nat
  device : Nat
  func : Nat
  ports : Nat
  deriving DecidableEq, Repr

/-- A collective context (R401, R75): members, own rank, peer ids, counters, contributions of the command under way. -/
structure Coll where
  n : Nat
  rank : Nat
  peers : List Nat
  ctr : Counter
  got : List (Nat × List Byte)
  deriving DecidableEq, Repr

/-- A function's registers and tables (R386 to R401); `hcMark` numbers the requests that an INVALIDATE under way waits for,
those below it (R28). `evDue` is the time of the ring write under way, `evHosts` its requests to host memory (R396). -/
structure Func where
  waysErr : Bool
  adapt : BitVec 16
  code : BitVec 16
  alloc : BitVec 16
  lease : Nat
  cantonErr : Bool
  quota : Nat
  kvPool : Reg
  hcCmd : Reg
  hcArgs : Vector Reg 4
  hcBusy : Bool
  hcResult : Nat
  hcValue : Nat
  hcMark : Nat
  evBase : Reg
  evLost : Bool
  evEn : Bool
  evSize : Nat
  evVector : Nat
  evHead : BitVec 32
  evTail : BitVec 32
  evWait : List Event
  evDue : Option Nat
  evHosts : List Nat
  cqs : Vector Cq 8
  trcBase : Reg
  trcEn : Bool
  trcKinds : Nat
  trcSize : Nat
  rings : Vector Ring 5
  bps : Vector Reg 4
  focusLr : Reg
  focus : Reg
  arms : SMap Arm
  peers : SMap Peer
  colls : SMap Coll
  roots : SMap Nat
  bindings : SMap Binding
  deriving DecidableEq, Repr

/-- A hybrid logical clock (R410). -/
structure Hlc where
  p : Nat
  c : Nat
  deriving DecidableEq, Repr

/-- The root of trust's own state (R402, R403). -/
structure Trust where
  image : List Byte
  sig : List Byte
  key : List Byte
  fused : List Byte
  minVersion : Reg
  accepted : Bool
  digest : List Byte
  version : Reg
  keys : SMap (List Byte)
  leaf : Nat
  pubKey : List Byte
  deriving DecidableEq, Repr

/-- A die's counters and flags (R418, R31, R410, R412). -/
structure Die where
  corr : Nat
  transient : Nat
  lasting : Nat
  fqOverflow : Nat
  hlc : Hlc
  stopped : Bool
  spares : Nat
  deriving DecidableEq, Repr

/-- A core pair's clock (R423): stretched, clks above the threshold, the next clk is skipped, clks skipped so far. -/
structure Pair where
  stretched : Bool
  above : Nat
  skip : Bool
  lag : Nat
  deriving DecidableEq, Repr

/-- A GDDR7 device being replaced (R422): its group's spare stands in, lines not copied yet. -/
structure Sparing where
  dev : Nat
  copied : List Nat
  deriving DecidableEq, Repr

/-- What the device has sent (R390, R395, R396; log 95): interrupts; tagged messages and contributions with the port
they leave by (R401); requests to host memory with the function whose requester ID they carry (R385); completions of
the host's accesses through BAR2 and BAR0, `none` for a Completer Abort (R384, R386). -/
inductive Output where
  | msix (func vector : Nat)
  | message (func port peer tag : Nat) (payload : List Byte) (stamp : Nat)
  | contribution (func port peer ctx : Nat) (data : List Byte) (stamp : Nat)
  | hostRead (func id addr : Nat)
  | hostWrite (func id addr : Nat) (data : List Byte)
  | hostAtomic (func id addr op ty : Nat) (opnd cmp : BitVec 64)
  | bar2 (func : Nat) (data : Option (List Byte))
  | bar0 (func : Nat) (data : Option (List Byte))
  deriving DecidableEq, Repr

/-- One turn of the schedule: a step of a unit, of the host or of a peer, the issue of the next picked fragment, or the
driver's gift of a ROOT to an address space (R25). -/
inductive Turn where
  | unit (i : Instr)
  | issue
  | root (func aspace pa : Nat)
  | spill (core : Nat)
  deriving DecidableEq, Repr

/-- The state of the device. `msgAt` is the tick and port of the latest message matched (R395). -/
structure State where
  agenda : List Turn
  issuing : List Who
  cur : Option Who
  free : Nat
  nextId : Nat
  now : Nat
  phase : Nat
  clk : Nat
  mem : Memory
  ecc : List Nat
  mx : SMap MxEntry
  tlb : List Tlb
  walks : List Walk
  xrecs : List XRec
  rewalks : List Rewalk
  lines : SMap LineRec
  slices : SMap Slice
  l2 : SMap L2Set
  reqs : List Req
  pending : List Pending
  nextIns : Nat
  monitors : List Monitor
  cores : SMap Core
  groups : SMap Group
  saves : List SaveRec
  runList : List RunEntry
  launches : SMap Launch
  nextLaunch : Nat
  pools : SMap Pool
  modules : SMap Module
  funcs : SMap Func
  trust : Trust
  dies : SMap Die
  pairs : SMap Pair
  powerStretch : Bool
  measured : Nat
  limit : Nat
  sparing : List Sparing
  msgAt : Nat × Nat
  out : List Output
  deriving DecidableEq, Repr

/-- The model stops: no instruction of the machine raises these; they name uses of `exec` that no step makes. -/
inductive Fault where
  /-- Raised by the meaning of a program instruction when no fragment is issuing. Safe: `step` never runs one so. -/
  | noFragment
  deriving DecidableEq, Repr

/-- Instructions without a meaning. -/
inductive Refusal where
  /-- Raised by an arm of `exec` whose instruction is not modelled yet. Safe: the run stops. -/
  | notModelled (mnemonic : String)
  deriving DecidableEq, Repr

/-- Default entries of the sparse tables: what a key that is not listed reads as. -/
def Counter.zero : Counter := { issued := 0, count := 0, done := [], errs := [] }
def LineRec.none : LineRec := { lmax := 0, tlast := 0, owner := .none }
/-- An MX region entry after reset (R19; log 3). -/
def MxEntry.reset : MxEntry := { view := 0, packed := 0, scale := 0, busy := false, mode := 0, fmt := 0, len := 0 }
def Handle.zero : Handle := { base := 0, dims := 0, stride := 0, genSlot := 0 }
def FmtSlot.zero : FmtSlot := { w0 := 0, seed := 0, scaleBase := 0, dupBase := 0 }
def Quad.absent : Quad := { present := false, mask := 0, stack := [], dix := 0, lclk := 0 }
def Barrier.zero : Barrier := { phase := false, expected := 0, arrived := 0, bad := false, lastBad := false }

def ResEntry.free : ResEntry :=
  { modIdx := 0, offset := 0, len := 0, store := 0, state := 0, fail := .none, evictPending := false, gen := 0,
    pins := 0, func := 0, charged := [], used := 0, loadVA := 0, loadFunc := 0, loadAspace := 0, revoked := false }

def DictStore.free : DictStore := { launch := .none, words := [] }
def L2Set.empty : L2Set := { ways := Vector.replicate 16 .none, plru := 0 }
def Bank.empty : Bank := { tag := .none, cells := [], scales := [], index := [], busy := .none }

/-- A core after reset (log 7, 8, 9, 11). -/
def Core.reset : Core :=
  { residency := Vector.replicate 64 ResEntry.free, istore := [], dicts := Vector.replicate 4 DictStore.free,
    queue := [], engine := Counter.zero, banks := Vector.replicate 4 Bank.empty, rsvs := [],
    slave := .none, opcache := [], cbuf := [], rbuf := [], pennants := [], nextPennant := 0, storeJobs := [], spilled := [],
    rotate := Vector.replicate 5 0, portBusy := Vector.replicate 5 0, agentClk := 0, profFreeze := false,
    profFunc := 0x1FF, prof := [], unplaced := false, retiring := false }

/-- A home slice after reset: slice s, identity remap (R38). -/
def Slice.reset (s : Nat) : Slice := { remap := s, retired := false, horizon := 0, overflow := 0 }

def Pool.reset : Pool :=
  { state := 0, closeReason := 0, err := false, owner := 0x1FF, base := 0, aspace := 0, ntasks := 0, spill := 0,
    tolerance := 0, threshold := 0, tasks := [], sleepers := [], held := [] }

def Module.free : Module :=
  { digest := List.replicate 32 0, state := 0, shared := false, len := 0, dirOff := 0, dirCount := 0, dir := [], bytes := [] }

def Cq.reset : Cq :=
  { base := 0, en := false, aspace := 0, sizeLog2 := 0, head := 0, tail := 0, stopReason := 0, stopDetail := 0,
    state := 0, levels := [], units := [], lastLaunch := .none, launches := [], resumes := 0, parked := .none,
    due := .none, hosts := [], woken := false, held := .none, byPacket := false }

def Ring.reset : Ring := { head := 0, tail := 0, last := .none, dropped := 0, fresh := true }

/-- A function's registers after reset (R40, R47, R192, R386, R387, R396, R406, R407, R413; log 5, log 6). -/
def Func.reset (f : Nat) : Func :=
  { waysErr := false, adapt := 0, code := 0, alloc := 0xFFFF, lease := 128, cantonErr := false,
    quota := if f = Config.physFn then 128 else 0, kvPool := 0, hcCmd := 0, hcArgs := Vector.replicate 4 0,
    hcBusy := false, hcResult := 0, hcValue := 0, hcMark := 0, evBase := 0, evLost := false, evEn := false, evSize := 0,
    evVector := 0, evHead := 0, evTail := 0, evWait := [], evDue := .none, evHosts := [], cqs := Vector.replicate 8 Cq.reset, trcBase := 0,
    trcEn := false, trcKinds := 0, trcSize := 0, rings := Vector.replicate 5 Ring.reset,
    bps := Vector.replicate 4 0, focusLr := 0, focus := 0, arms := [], peers := [], colls := [], roots := [],
    bindings := [] }

def Die.reset (d : Nat) : Die :=
  { corr := 0, transient := 0, lasting := 0, fqOverflow := 0, hlc := { p := 0, c := 0 }, stopped := false,
    spares := if d < 4 then 2 else 0 }

def Pair.reset : Pair := { stretched := false, above := 0, skip := false, lag := 0 }

/-- The root of trust after reset (log 12): firmware accepted, no module keys. -/
def Trust.reset : Trust :=
  { image := [], sig := [], key := [], fused := [], minVersion := 0, accepted := true,
    digest := List.replicate 32 0, version := 0, keys := [], leaf := 0, pubKey := List.replicate 68 0 }

/-- The device right after reset: every register at the value the spec gives it, or at the one the log names;
memory with nothing listed; no launch, no group (log 1). -/
def State.reset : State :=
  { agenda := [], issuing := [], cur := .none, free := 0, nextId := 0, now := 0, phase := 0, clk := 0, mem := [],
    ecc := [], mx := [], tlb := [], walks := [], xrecs := [], rewalks := [], lines := [], slices := [], l2 := [], reqs := [],
    pending := [], nextIns := 0, monitors := [], cores := [], groups := [], saves := [], runList := [], launches := [], nextLaunch := 0,
    pools := [], modules := [], funcs := [], trust := Trust.reset, dies := [], pairs := [], powerStretch := false,
    measured := 0, limit := 2200, sparing := [], msgAt := (0, 0), out := [] }

end Sys2Proof.Machine
end

