-- ==== Sys2Proof/WellFormed.lean ====
section
/-!
DEFINITION. Which instructions are well formed (R245 to R251, R256 to R260, R263, R313, R325, R356): the class of
each register field, and the reserved and unused fields of the extension words.
-/

namespace Sys2Proof

/-- The classes of 7-bit register fields (R245). `w` is a v pair or a g register read whole (R262); `gz` is a
g register or 0 (R312); `lit n` is a literal of at most n; `cmpI` and `cmpF` are a comparison code with its
predicate (R243, R246); `casV` and `casG` name the register whose successor holds the new value of CAS (R249). -/
inductive Cls where
  | v | g | vg | v2 | w | v4 | g2 | p | m | h | z | gz | any | cmpI | cmpF
  | lit (n : Nat)
  | casV (wide : Bool)
  | casG (wide : Bool)
  deriving DecidableEq, Repr

/-- A field value lies in its class (R245). -/
def Cls.ok (c : Cls) (x : BitVec 7) : Bool :=
  let n := x.toNat
  match c with
  | .v => n < 96
  | .g => 96 ≤ n
  | .vg | .any => true
  | .v2 => n % 2 == 0 && n < 96
  | .w => 96 ≤ n || n % 2 == 0
  | .v4 => n % 4 == 0 && n < 96
  | .g2 => n % 2 == 0 && 96 ≤ n
  | .p | .m => n < 8
  | .h => n < 16
  | .z => n == 0
  | .gz => n == 0 || 96 ≤ n
  | .cmpI => n / 8 % 8 < 6
  | .cmpF => n < 64
  | .lit k => n ≤ k
  | .casV wide => if wide then n % 2 == 0 && n < 93 else n < 95
  | .casG wide => 96 ≤ n && n + (if wide then 2 else 1) < 128

/-- One more than the highest lane register that a field names (R165); 0 when it names none. -/
def Cls.high (c : Cls) (x : BitVec 7) : Nat :=
  let n := x.toNat
  match c with
  | .v => n + 1
  | .v2 => n + 2
  | .v4 => n + 4
  | .vg => if n < 96 then n + 1 else 0
  | .w => if n < 96 then n + 2 else 0
  | .casV wide => if wide then n + 4 else n + 2
  | _ => 0

/-- The register numbers (0 to 95 for v, 96 to 127 for g) that a field names, for the scoreboard (R176). -/
def Cls.regs (c : Cls) (x : BitVec 7) : List Nat :=
  let n := x.toNat
  match c with
  | .v | .g | .vg => [n]
  | .v2 | .g2 => [n, n + 1]
  | .v4 => [n, n + 1, n + 2, n + 3]
  | .w => if n < 96 then [n, n + 1] else [n]
  | .gz => if n < 96 then [] else [n]
  | .casV wide => if wide then [n, n + 1, n + 2, n + 3] else [n, n + 1]
  | .casG wide => if wide then [n, n + 2] else [n, n + 1]
  | _ => []

/-- TYPE codes of 64-bit integers (R248). -/
def w64 (ty : BitVec 4) : Bool := ty == 3 || ty == 7

/-- .I32, .N32, .I64, .N64. -/
def intTy (ty : BitVec 4) : Bool := ty == 2 || ty == 3 || ty == 6 || ty == 7

/-- `clsIf b x y`: x when b, else y. -/
def clsIf (b : Bool) (x y : Cls) : Cls := if b then x else y

/-- The class of B in a memory word: the index register in MODE 1 (R249, R290), else unused. -/
def idxCls (x : XM) : Cls :=
  if x.mode == 1 then (if x.addr.toNat / 2048 == 3 then .v2 else .v) else .z

/-- MODE 0's ADDR field (R249): MREG is 0 without WRAP, [8:0] is 0. -/
def postOk (x : XM) : Bool := x.addr.toNat % 512 == 0 && (x.addr.toNat / 4096 == 1 || x.addr.toNat / 512 % 8 == 0)

/-- The modes of the lane set (R249, R294). -/
def laneMode (x : XM) : Bool :=
  if x.mode == 0 then postOk x
  else x.mode == 1 && x.addr.toNat % 128 == 0 && decide (x.addr.toNat / 128 % 8 < 5)

/-- The modes of the uniform set (R249, R294). -/
def uniMode (x : XM) : Bool := if x.mode == 0 then postOk x else x.mode == 2

/-- The special registers (R356). -/
inductive SReg where
  | lane | quad | helper | gang | group | dix | lclk | wct | fsticky | hlc
  | smap (i : Fin 8)
  | mcast
  | tcbind (i : Fin 8)
  | rready (i : Fin 4)
  | rpend (i : Fin 4)
  | frec (i : Fin 8)
  | m (i : Fin 8)
  deriving DecidableEq, Repr

/-- The special register of an SREG number, `none` for a number that is not listed (R356). -/
def sregNum (n : Nat) : Option SReg :=
  match n with
  | 0 => some .lane
  | 1 => some .quad
  | 2 => some .helper
  | 3 => some .gang
  | 4 => some .group
  | 8 => some .dix
  | 9 => some .lclk
  | 16 => some .wct
  | 17 => some .fsticky
  | 18 => some .hlc
  | 40 => some .mcast
  | _ =>
    if h : 32 ≤ n ∧ n < 40 then some (.smap ⟨n - 32, by omega⟩)
    else if h : 48 ≤ n ∧ n < 56 then some (.tcbind ⟨n - 48, by omega⟩)
    else if h : 56 ≤ n ∧ n < 60 then some (.rready ⟨n - 56, by omega⟩)
    else if h : 60 ≤ n ∧ n < 64 then some (.rpend ⟨n - 60, by omega⟩)
    else if h : 64 ≤ n ∧ n < 72 then some (.frec ⟨n - 64, by omega⟩)
    else if h : 128 ≤ n ∧ n < 136 then some (.m ⟨n - 128, by omega⟩)
    else none

/-- SREG joins the A and B fields (R243). -/
def sregOf (a b : BitVec 7) : Option SReg := sregNum (a.toNat * 128 + b.toNat)

/-- Registers of lane scope, which need a v destination (R357). -/
def SReg.laneScope : SReg → Bool
  | .lane | .quad | .helper => true
  | _ => false

/-- Registers of 32 bits (R356). -/
def SReg.narrow : SReg → Bool
  | .lane | .quad | .helper | .gang | .group => true
  | _ => false

/-- SREAD's destination fits its register (R357). -/
def sreadOk (o : LR) : Bool :=
  match sregOf o.a o.b with
  | none => false
  | some r =>
    if 96 ≤ o.d.toNat then !r.laneScope
    else r.narrow || o.d.toNat % 2 == 0

/-- The class of SREAD's destination: a pair for a 64-bit register into v (R357). -/
def sreadCls (o : LR) : Cls :=
  match sregOf o.a o.b with
  | some r => if r.narrow then .vg else .w
  | none => .vg

/-- What the wide form of an L-R cell accepts (R263). -/
inductive WideKind where
  | int (types : List Nat)
  | flt (ty : Nat) (sat : Bool)
  | no
  deriving DecidableEq, Repr

/-- The table of R263 by the cell's opcode. -/
def wideKind (cell : Nat) : WideKind :=
  match cell with
  | 0 => .int [7, 3, 12, 13]
  | 1 => .int [7, 3, 12, 13]
  | 2 => .int [7, 4, 5]
  | 3 => .int [3, 0, 1]
  | 4 => .int [7, 4, 5]
  | 5 => .int [3, 0, 1]
  | 6 => .int [7, 3, 12, 13]
  | 7 => .int [7, 4, 5]
  | 8 => .int [3, 0, 1]
  | 9 => .int [7, 3, 12, 13]
  | 10 => .int [7, 4, 5]
  | 11 => .int [3, 0, 1]
  | 12 => .int [7, 4, 5]
  | 13 => .int [3, 0, 1]
  | 14 => .int [7, 4, 5]
  | 15 => .int [7, 3, 12, 13]
  | 16 => .int [7, 3, 12, 13]
  | 17 => .int [7, 3, 12, 13]
  | 18 => .int [7, 3, 12, 13]
  | 19 => .int [7, 3, 12, 13]
  | 20 => .int [7, 3, 12, 13]
  | 21 => .int [7, 3, 12, 13]
  | 22 => .int [7, 4, 5]
  | 23 => .int [7, 3, 12, 13]
  | 24 => .int [3, 0, 1]
  | 25 => .int [7, 4, 5]
  | 26 => .int [7, 3, 12, 13]
  | 27 => .int [7, 3, 12, 13]
  | 28 => .int [7, 3, 12, 13]
  | 29 => .int [7, 3, 12, 13]
  | 30 => .int [7, 3, 12, 13]
  | 31 => .int [7, 3]
  | 32 => .flt 8 true
  | 33 => .flt 8 true
  | 34 => .flt 8 true
  | 35 => .flt 8 true
  | 38 => .flt 8 true
  | 39 => .flt 8 true
  | 40 => .flt 8 true
  | 41 => .flt 8 true
  | 42 => .flt 8 true
  | 48 => .flt 9 true
  | 49 => .flt 9 true
  | 50 => .flt 9 true
  | 51 => .flt 9 true
  | 56 => .flt 10 true
  | 57 => .flt 10 true
  | 58 => .flt 10 true
  | 59 => .flt 10 true
  | 69 => .flt 8 false
  | 70 => .flt 9 true
  | 71 => .flt 10 true
  | 74 => .flt 8 false
  | 75 => .flt 8 false
  | _ => .no

/-- The cells that do not use B (R264, R269, R276). -/
def oneSource (cell : Nat) : Bool :=
  [14, 15, 19, 27, 28, 29, 30, 38, 39, 40, 41, 42, 69, 74, 75].contains cell

/-- The field classes of a WIDE word: those of its cell, widened for 64-bit types (R262, R263). -/
def wideFields (o : LX) : List (Cls × BitVec 7) :=
  let big := w64 o.x.ty
  let src := clsIf big .w .vg
  [(if o.x.sub == 31 then .cmpI else clsIf big .v2 .v, o.w.d), (src, o.w.a),
   (if oneSource o.x.sub.toNat then .z else src, o.w.b), (.z, o.x.c)]

/-- The XA conditions of a WIDE word (R263, R267). -/
def wideOk (o : LX) : Bool :=
  o.x.slot == 0 && o.x.imm == 0 &&
  match wideKind o.x.sub.toNat with
  | .int ts => o.x.rnd == 0 && o.x.sat == 0 && ts.contains o.x.ty.toNat &&
      (o.x.sub != 31 || (o.w.d.toNat / 64 == 1) == (o.x.ty == 3))
  | .flt ty sat => o.x.ty.toNat == ty && o.x.rnd != 3 && (sat || o.x.sat == 0) && (o.x.rnd != 0 || o.x.sat != 0)
  | .no => false

/-- The register fields of an instruction with their classes, as its description gives them. -/
def Instr.fields : Instr → List (Cls × BitVec 7)
  | .iadd o => [(.v, o.d), (.vg, o.a), (.vg, o.b)]
  | .isub o => [(.v, o.d), (.vg, o.a), (.vg, o.b)]
  | .iaddSatI32 o => [(.v, o.d), (.vg, o.a), (.vg, o.b)]
  | .iaddSatN32 o => [(.v, o.d), (.vg, o.a), (.vg, o.b)]
  | .isubSatI32 o => [(.v, o.d), (.vg, o.a), (.vg, o.b)]
  | .isubSatN32 o => [(.v, o.d), (.vg, o.a), (.vg, o.b)]
  | .imul o => [(.v, o.d), (.vg, o.a), (.vg, o.b)]
  | .imulhI32 o => [(.v, o.d), (.vg, o.a), (.vg, o.b)]
  | .imulhN32 o => [(.v, o.d), (.vg, o.a), (.vg, o.b)]
  | .imac o => [(.v, o.d), (.vg, o.a), (.vg, o.b)]
  | .iminI32 o => [(.v, o.d), (.vg, o.a), (.vg, o.b)]
  | .iminN32 o => [(.v, o.d), (.vg, o.a), (.vg, o.b)]
  | .imaxI32 o => [(.v, o.d), (.vg, o.a), (.vg, o.b)]
  | .imaxN32 o => [(.v, o.d), (.vg, o.a), (.vg, o.b)]
  | .iabs o => [(.v, o.d), (.vg, o.a), (.z, o.b)]
  | .ineg o => [(.v, o.d), (.vg, o.a), (.z, o.b)]
  | .and o => [(.v, o.d), (.vg, o.a), (.vg, o.b)]
  | .or o => [(.v, o.d), (.vg, o.a), (.vg, o.b)]
  | .xor o => [(.v, o.d), (.vg, o.a), (.vg, o.b)]
  | .not o => [(.v, o.d), (.vg, o.a), (.z, o.b)]
  | .shl o => [(.v, o.d), (.vg, o.a), (.vg, o.b)]
  | .shr o => [(.v, o.d), (.vg, o.a), (.vg, o.b)]
  | .sar o => [(.v, o.d), (.vg, o.a), (.vg, o.b)]
  | .rot o => [(.v, o.d), (.vg, o.a), (.vg, o.b)]
  | .bfeN32 o => [(.v, o.d), (.vg, o.a), (.vg, o.b)]
  | .bfeI32 o => [(.v, o.d), (.vg, o.a), (.vg, o.b)]
  | .bfi o => [(.v, o.d), (.vg, o.a), (.vg, o.b)]
  | .brev o => [(.v, o.d), (.vg, o.a), (.z, o.b)]
  | .clz o => [(.v, o.d), (.vg, o.a), (.z, o.b)]
  | .ffs o => [(.v, o.d), (.vg, o.a), (.z, o.b)]
  | .popc o => [(.v, o.d), (.vg, o.a), (.z, o.b)]
  | .icmp o => [(.cmpI, o.d), (.vg, o.a), (.vg, o.b)]
  | .fadd o => [(.v, o.d), (.vg, o.a), (.vg, o.b)]
  | .fsub o => [(.v, o.d), (.vg, o.a), (.vg, o.b)]
  | .fmul o => [(.v, o.d), (.vg, o.a), (.vg, o.b)]
  | .fmac o => [(.v, o.d), (.vg, o.a), (.vg, o.b)]
  | .fmin o => [(.v, o.d), (.vg, o.a), (.vg, o.b)]
  | .fmax o => [(.v, o.d), (.vg, o.a), (.vg, o.b)]
  | .frcp o => [(.v, o.d), (.vg, o.a), (.z, o.b)]
  | .frsq o => [(.v, o.d), (.vg, o.a), (.z, o.b)]
  | .fsqrt o => [(.v, o.d), (.vg, o.a), (.z, o.b)]
  | .fexp2 o => [(.v, o.d), (.vg, o.a), (.z, o.b)]
  | .flog2 o => [(.v, o.d), (.vg, o.a), (.z, o.b)]
  | .fcmp o => [(.cmpF, o.d), (.vg, o.a), (.vg, o.b)]
  | .fabs o => [(.v, o.d), (.vg, o.a), (.z, o.b)]
  | .fneg o => [(.v, o.d), (.vg, o.a), (.z, o.b)]
  | .fminNum o => [(.v, o.d), (.vg, o.a), (.vg, o.b)]
  | .fmaxNum o => [(.v, o.d), (.vg, o.a), (.vg, o.b)]
  | .faddBf16 o => [(.v, o.d), (.vg, o.a), (.vg, o.b)]
  | .fsubBf16 o => [(.v, o.d), (.vg, o.a), (.vg, o.b)]
  | .fmulBf16 o => [(.v, o.d), (.vg, o.a), (.vg, o.b)]
  | .fmacBf16 o => [(.v, o.d), (.vg, o.a), (.vg, o.b)]
  | .fminBf16 o => [(.v, o.d), (.vg, o.a), (.vg, o.b)]
  | .fmaxBf16 o => [(.v, o.d), (.vg, o.a), (.vg, o.b)]
  | .fabsBf16 o => [(.v, o.d), (.vg, o.a), (.z, o.b)]
  | .fnegBf16 o => [(.v, o.d), (.vg, o.a), (.z, o.b)]
  | .faddF16 o => [(.v, o.d), (.vg, o.a), (.vg, o.b)]
  | .fsubF16 o => [(.v, o.d), (.vg, o.a), (.vg, o.b)]
  | .fmulF16 o => [(.v, o.d), (.vg, o.a), (.vg, o.b)]
  | .fmacF16 o => [(.v, o.d), (.vg, o.a), (.vg, o.b)]
  | .fminF16 o => [(.v, o.d), (.vg, o.a), (.vg, o.b)]
  | .fmaxF16 o => [(.v, o.d), (.vg, o.a), (.vg, o.b)]
  | .fabsF16 o => [(.v, o.d), (.vg, o.a), (.z, o.b)]
  | .fnegF16 o => [(.v, o.d), (.vg, o.a), (.z, o.b)]
  | .cvtF32Fs o => [(.v, o.w.d), (.vg, o.w.a), (.vg, o.w.b), (.z, o.x.c)]
  | .cvtFsF32 o => [(.v, o.w.d), (.vg, o.w.a), (.vg, o.w.b), (.z, o.x.c)]
  | .cvtBf16Fs o => [(.v, o.w.d), (.vg, o.w.a), (.vg, o.w.b), (.z, o.x.c)]
  | .cvtFsBf16 o => [(.v, o.w.d), (.vg, o.w.a), (.vg, o.w.b), (.z, o.x.c)]
  | .cvtF16Fs o => [(.v, o.w.d), (.vg, o.w.a), (.vg, o.w.b), (.z, o.x.c)]
  | .cvtFsF16 o => [(.v, o.w.d), (.vg, o.w.a), (.vg, o.w.b), (.z, o.x.c)]
  | .cvtI32Fs o => [(.v, o.w.d), (.vg, o.w.a), (.vg, o.w.b), (.z, o.x.c)]
  | .cvtFsI32 o => [(.v, o.w.d), (.vg, o.w.a), (.vg, o.w.b), (.z, o.x.c)]
  | .cvtF32Bf16 o => [(.v, o.w.d), (.vg, o.w.a), (.z, o.w.b), (.z, o.x.c)]
  | .cvtBf16F32 o => [(.v, o.w.d), (.vg, o.w.a), (.z, o.w.b), (.z, o.x.c)]
  | .cvtF32F16 o => [(.v, o.w.d), (.vg, o.w.a), (.z, o.w.b), (.z, o.x.c)]
  | .cvtF16F32 o => [(.v, o.w.d), (.vg, o.w.a), (.z, o.w.b), (.z, o.x.c)]
  | .cvtF32I32 o => [(.v, o.w.d), (.vg, o.w.a), (.z, o.w.b), (.z, o.x.c)]
  | .cvtI32F32 o => [(.v, o.w.d), (.vg, o.w.a), (.z, o.w.b), (.z, o.x.c)]
  | .cvtF32N32 o => [(.v, o.w.d), (.vg, o.w.a), (.z, o.w.b), (.z, o.x.c)]
  | .cvtN32F32 o => [(.v, o.w.d), (.vg, o.w.a), (.z, o.w.b), (.z, o.x.c)]
  | .qsplit o => [(.v2, o.w.d), (.vg, o.w.a), (.z, o.w.b), (.z, o.x.c)]
  | .vcomp o => [(.v2, o.d), (.vg, o.a), (.p, o.b)]
  | .spc48 o => [(.v2, o.d), (.v2, o.a), (.z, o.b)]
  | .bpick o => [(.v, o.d), (.w, o.a), (.vg, o.b)]
  | .frnd o => [(.v, o.d), (.vg, o.a), (.z, o.b)]
  | .packBf16 o => [(.v, o.d), (.vg, o.a), (.vg, o.b)]
  | .packF16 o => [(.v, o.d), (.vg, o.a), (.vg, o.b)]
  | .unpackBf16 o => [(.v2, o.d), (.vg, o.a), (.z, o.b)]
  | .unpackF16 o => [(.v2, o.d), (.vg, o.a), (.z, o.b)]
  | .i2fI32 o => [(.v, o.d), (.vg, o.a), (.z, o.b)]
  | .i2fN32 o => [(.v, o.d), (.vg, o.a), (.z, o.b)]
  | .f2iI32 o => [(.v, o.d), (.vg, o.a), (.z, o.b)]
  | .f2iN32 o => [(.v, o.d), (.vg, o.a), (.z, o.b)]
  | .vexpand o => [(.v, o.d), (.vg, o.a), (.p, o.b)]
  | .qxchH o => [((clsIf (w64 o.x.ty) .v2 .v), o.w.d), ((clsIf (w64 o.x.ty) .v2 .v), o.w.a), (.z, o.w.b), (.z, o.x.c)]
  | .qxchV o => [((clsIf (w64 o.x.ty) .v2 .v), o.w.d), ((clsIf (w64 o.x.ty) .v2 .v), o.w.a), (.z, o.w.b), (.z, o.x.c)]
  | .qxchD o => [((clsIf (w64 o.x.ty) .v2 .v), o.w.d), ((clsIf (w64 o.x.ty) .v2 .v), o.w.a), (.z, o.w.b), (.z, o.x.c)]
  | .qxchBc o => [((clsIf (w64 o.x.ty) .v2 .v), o.w.d), ((clsIf (w64 o.x.ty) .v2 .v), o.w.a), (.z, o.w.b), (.z, o.x.c)]
  | .shflAt o => [((clsIf (w64 o.x.ty) .v2 .v), o.w.d), ((clsIf (w64 o.x.ty) .v2 .v), o.w.a), (.vg, o.w.b), (.z, o.x.c)]
  | .shflRot o => [((clsIf (w64 o.x.ty) .v2 .v), o.w.d), ((clsIf (w64 o.x.ty) .v2 .v), o.w.a), (.vg, o.w.b), (.z, o.x.c)]
  | .shflSpan o => [((clsIf (w64 o.x.ty) .v2 .v), o.w.d), ((clsIf (w64 o.x.ty) .v2 .v), o.w.a), (.vg, o.w.b), (.z, o.x.c)]
  | .shflFlip o => [((clsIf (w64 o.x.ty) .v2 .v), o.w.d), ((clsIf (w64 o.x.ty) .v2 .v), o.w.a), (.vg, o.w.b), (.z, o.x.c)]
  | .vreduceAdd o => [((clsIf (w64 o.x.ty) .v2 .v), o.w.d), ((clsIf (w64 o.x.ty) .w .vg), o.w.a), (.z, o.w.b), (.z, o.x.c)]
  | .vreduceMin o => [((clsIf (w64 o.x.ty) .v2 .v), o.w.d), ((clsIf (w64 o.x.ty) .w .vg), o.w.a), (.z, o.w.b), (.z, o.x.c)]
  | .vreduceMax o => [((clsIf (w64 o.x.ty) .v2 .v), o.w.d), ((clsIf (w64 o.x.ty) .w .vg), o.w.a), (.z, o.w.b), (.z, o.x.c)]
  | .vreduceAnd o => [((clsIf (w64 o.x.ty) .v2 .v), o.w.d), ((clsIf (w64 o.x.ty) .w .vg), o.w.a), (.z, o.w.b), (.z, o.x.c)]
  | .vreduceOr o => [((clsIf (w64 o.x.ty) .v2 .v), o.w.d), ((clsIf (w64 o.x.ty) .w .vg), o.w.a), (.z, o.w.b), (.z, o.x.c)]
  | .vreduceXor o => [((clsIf (w64 o.x.ty) .v2 .v), o.w.d), ((clsIf (w64 o.x.ty) .w .vg), o.w.a), (.z, o.w.b), (.z, o.x.c)]
  | .vreduceFadd o => [((clsIf (w64 o.x.ty) .v2 .v), o.w.d), ((clsIf (w64 o.x.ty) .w .vg), o.w.a), (.z, o.w.b), (.z, o.x.c)]
  | .vreduceFmin o => [((clsIf (w64 o.x.ty) .v2 .v), o.w.d), ((clsIf (w64 o.x.ty) .w .vg), o.w.a), (.z, o.w.b), (.z, o.x.c)]
  | .vreduceFmax o => [((clsIf (w64 o.x.ty) .v2 .v), o.w.d), ((clsIf (w64 o.x.ty) .w .vg), o.w.a), (.z, o.w.b), (.z, o.x.c)]
  | .vscanAdd o => [((clsIf (w64 o.x.ty) .v2 .v), o.w.d), ((clsIf (w64 o.x.ty) .w .vg), o.w.a), (.z, o.w.b), (.z, o.x.c)]
  | .vscanMin o => [((clsIf (w64 o.x.ty) .v2 .v), o.w.d), ((clsIf (w64 o.x.ty) .w .vg), o.w.a), (.z, o.w.b), (.z, o.x.c)]
  | .vscanMax o => [((clsIf (w64 o.x.ty) .v2 .v), o.w.d), ((clsIf (w64 o.x.ty) .w .vg), o.w.a), (.z, o.w.b), (.z, o.x.c)]
  | .vscanAnd o => [((clsIf (w64 o.x.ty) .v2 .v), o.w.d), ((clsIf (w64 o.x.ty) .w .vg), o.w.a), (.z, o.w.b), (.z, o.x.c)]
  | .vscanOr o => [((clsIf (w64 o.x.ty) .v2 .v), o.w.d), ((clsIf (w64 o.x.ty) .w .vg), o.w.a), (.z, o.w.b), (.z, o.x.c)]
  | .vscanXor o => [((clsIf (w64 o.x.ty) .v2 .v), o.w.d), ((clsIf (w64 o.x.ty) .w .vg), o.w.a), (.z, o.w.b), (.z, o.x.c)]
  | .vscanFadd o => [((clsIf (w64 o.x.ty) .v2 .v), o.w.d), ((clsIf (w64 o.x.ty) .w .vg), o.w.a), (.z, o.w.b), (.z, o.x.c)]
  | .vscanFmin o => [((clsIf (w64 o.x.ty) .v2 .v), o.w.d), ((clsIf (w64 o.x.ty) .w .vg), o.w.a), (.z, o.w.b), (.z, o.x.c)]
  | .vscanFmax o => [((clsIf (w64 o.x.ty) .v2 .v), o.w.d), ((clsIf (w64 o.x.ty) .w .vg), o.w.a), (.z, o.w.b), (.z, o.x.c)]
  | .voteSome o => [(.p, o.w.d), (.p, o.w.a), (.z, o.w.b), (.z, o.x.c)]
  | .voteEvery o => [(.p, o.w.d), (.p, o.w.a), (.z, o.w.b), (.z, o.x.c)]
  | .voteSame o => [(.p, o.w.d), (.p, o.w.a), (.z, o.w.b), (.z, o.x.c)]
  | .ballot o => [(.v2, o.d), (.p, o.a), (.z, o.b)]
  | .eqmask o => [(.v2, o.d), (.vg, o.a), (.z, o.b)]
  | .sel o => [((clsIf (w64 o.x.ty) .v2 .v), o.w.d), ((clsIf (w64 o.x.ty) .w .vg), o.w.a), ((clsIf (w64 o.x.ty) .w .vg), o.w.b), (.p, o.x.c)]
  | .plop o => [(.p, o.w.d), (.p, o.w.a), (.p, o.w.b), (.p, o.x.c)]
  | .mov o => [(.v, o.d), (.vg, o.a), (.z, o.b)]
  | .movi o => [(.v, o.d), (.z, o.a)]
  | .pget o => [(.v, o.d), (.z, o.a), (.z, o.b)]
  | .pset o => [(.p, o.d), (.vg, o.a), (.z, o.b)]
  | .ldN8Lane o => [(.v, o.w.d), (.g, o.w.a), ((idxCls o.x), o.w.b), (.z, o.x.c)]
  | .ldI8Lane o => [(.v, o.w.d), (.g, o.w.a), ((idxCls o.x), o.w.b), (.z, o.x.c)]
  | .ldN16Lane o => [(.v, o.w.d), (.g, o.w.a), ((idxCls o.x), o.w.b), (.z, o.x.c)]
  | .ldI16Lane o => [(.v, o.w.d), (.g, o.w.a), ((idxCls o.x), o.w.b), (.z, o.x.c)]
  | .ldN32Lane o => [(.v, o.w.d), (.g, o.w.a), ((idxCls o.x), o.w.b), (.z, o.x.c)]
  | .ldN64Lane o => [(.v2, o.w.d), (.g, o.w.a), ((idxCls o.x), o.w.b), (.z, o.x.c)]
  | .ldN128Lane o => [(.v4, o.w.d), (.g, o.w.a), ((idxCls o.x), o.w.b), (.z, o.x.c)]
  | .stN8Lane o => [(.z, o.w.d), (.g, o.w.a), ((idxCls o.x), o.w.b), (.vg, o.x.c)]
  | .stN16Lane o => [(.z, o.w.d), (.g, o.w.a), ((idxCls o.x), o.w.b), (.vg, o.x.c)]
  | .stN32Lane o => [(.z, o.w.d), (.g, o.w.a), ((idxCls o.x), o.w.b), (.vg, o.x.c)]
  | .stN64Lane o => [(.z, o.w.d), (.g, o.w.a), ((idxCls o.x), o.w.b), (.w, o.x.c)]
  | .stN128Lane o => [(.z, o.w.d), (.g, o.w.a), ((idxCls o.x), o.w.b), (.v4, o.x.c)]
  | .atomAddLane o => [((clsIf (w64 o.x.ty) .v2 .v), o.w.d), (.g, o.w.a), ((idxCls o.x), o.w.b), ((clsIf (w64 o.x.ty) .w .vg), o.x.c)]
  | .atomFaddLane o => [((clsIf (w64 o.x.ty) .v2 .v), o.w.d), (.g, o.w.a), ((idxCls o.x), o.w.b), ((clsIf (w64 o.x.ty) .w .vg), o.x.c)]
  | .atomMinLane o => [((clsIf (w64 o.x.ty) .v2 .v), o.w.d), (.g, o.w.a), ((idxCls o.x), o.w.b), ((clsIf (w64 o.x.ty) .w .vg), o.x.c)]
  | .atomMaxLane o => [((clsIf (w64 o.x.ty) .v2 .v), o.w.d), (.g, o.w.a), ((idxCls o.x), o.w.b), ((clsIf (w64 o.x.ty) .w .vg), o.x.c)]
  | .atomAndLane o => [((clsIf (w64 o.x.ty) .v2 .v), o.w.d), (.g, o.w.a), ((idxCls o.x), o.w.b), ((clsIf (w64 o.x.ty) .w .vg), o.x.c)]
  | .atomOrLane o => [((clsIf (w64 o.x.ty) .v2 .v), o.w.d), (.g, o.w.a), ((idxCls o.x), o.w.b), ((clsIf (w64 o.x.ty) .w .vg), o.x.c)]
  | .atomXorLane o => [((clsIf (w64 o.x.ty) .v2 .v), o.w.d), (.g, o.w.a), ((idxCls o.x), o.w.b), ((clsIf (w64 o.x.ty) .w .vg), o.x.c)]
  | .atomXchgLane o => [((clsIf (w64 o.x.ty) .v2 .v), o.w.d), (.g, o.w.a), ((idxCls o.x), o.w.b), ((clsIf (w64 o.x.ty) .w .vg), o.x.c)]
  | .atomCasLane o => [((clsIf (w64 o.x.ty) .v2 .v), o.w.d), (.g, o.w.a), ((idxCls o.x), o.w.b), ((.casV (w64 o.x.ty)), o.x.c)]
  | .pref o => [(.z, o.w.d), (.g, o.w.a), ((idxCls o.x), o.w.b), (.z, o.x.c)]
  | .wide o => wideFields o
  | .movw o => [(.v, o.w.d), (.z, o.w.a), (.z, o.w.b)]
  | .ffma o => [(.v, o.w.d), (.vg, o.w.a), (.vg, o.w.b), (.vg, o.x.c)]
  | .imad o => [((clsIf (w64 o.x.ty) .v2 .v), o.w.d), ((clsIf (w64 o.x.ty) .w .vg), o.w.a), ((clsIf (w64 o.x.ty) .w .vg), o.w.b), ((clsIf (w64 o.x.ty) .w .vg), o.x.c)]
  | .isum3 o => [((clsIf (w64 o.x.ty) .v2 .v), o.w.d), ((clsIf (w64 o.x.ty) .w .vg), o.w.a), ((clsIf (w64 o.x.ty) .w .vg), o.w.b), ((clsIf (w64 o.x.ty) .w .vg), o.x.c)]
  | .bitfn o => [((clsIf (w64 o.x.ty) .v2 .v), o.w.d), ((clsIf (w64 o.x.ty) .w .vg), o.w.a), ((clsIf (w64 o.x.ty) .w .vg), o.w.b), ((clsIf (w64 o.x.ty) .w .vg), o.x.c)]
  | .winxN32 o => [(.v, o.w.d), (.vg, o.w.a), (.vg, o.w.b), (.vg, o.x.c)]
  | .winxI32 o => [(.v, o.w.d), (.vg, o.w.a), (.vg, o.w.b), (.vg, o.x.c)]
  | .idot4 o => [(.v, o.w.d), (.vg, o.w.a), (.vg, o.w.b), (.vg, o.x.c)]
  | .fdot2 o => [(.v, o.w.d), (.vg, o.w.a), (.vg, o.w.b), (.vg, o.x.c)]
  | .iclamp o => [((clsIf (w64 o.x.ty) .v2 .v), o.w.d), ((clsIf (w64 o.x.ty) .w .vg), o.w.a), ((clsIf (w64 o.x.ty) .w .vg), o.w.b), ((clsIf (w64 o.x.ty) .w .vg), o.x.c)]
  | .fclamp o => [(.v, o.w.d), (.vg, o.w.a), (.vg, o.w.b), (.vg, o.x.c)]
  | .sad o => [(.v, o.w.d), (.vg, o.w.a), (.vg, o.w.b), (.vg, o.x.c)]
  | .fscale o => [(.v, o.w.d), (.vg, o.w.a), (.vg, o.w.b), (.z, o.x.c)]
  | .imadw o => [(.v2, o.w.d), (.vg, o.w.a), (.vg, o.w.b), (.w, o.x.c)]
  | .uadd o => [(.g, o.d), (.g, o.a), (.g, o.b)]
  | .usub o => [(.g, o.d), (.g, o.a), (.g, o.b)]
  | .umul o => [(.g, o.d), (.g, o.a), (.g, o.b)]
  | .umulhI64 o => [(.g, o.d), (.g, o.a), (.g, o.b)]
  | .umulhN64 o => [(.g, o.d), (.g, o.a), (.g, o.b)]
  | .umac o => [(.g, o.d), (.g, o.a), (.g, o.b)]
  | .uminI64 o => [(.g, o.d), (.g, o.a), (.g, o.b)]
  | .uminN64 o => [(.g, o.d), (.g, o.a), (.g, o.b)]
  | .umaxI64 o => [(.g, o.d), (.g, o.a), (.g, o.b)]
  | .umaxN64 o => [(.g, o.d), (.g, o.a), (.g, o.b)]
  | .uand o => [(.g, o.d), (.g, o.a), (.g, o.b)]
  | .uor o => [(.g, o.d), (.g, o.a), (.g, o.b)]
  | .uxor o => [(.g, o.d), (.g, o.a), (.g, o.b)]
  | .unot o => [(.g, o.d), (.g, o.a), (.z, o.b)]
  | .ushl o => [(.g, o.d), (.g, o.a), (.g, o.b)]
  | .ushr o => [(.g, o.d), (.g, o.a), (.g, o.b)]
  | .usar o => [(.g, o.d), (.g, o.a), (.g, o.b)]
  | .uext o => [(.g, o.d), (.g, o.a), (.any, o.b)]
  | .uclz o => [(.g, o.d), (.g, o.a), (.z, o.b)]
  | .uffs o => [(.g, o.d), (.g, o.a), (.z, o.b)]
  | .upopc o => [(.g, o.d), (.g, o.a), (.z, o.b)]
  | .ucmp o => [(.cmpI, o.d), (.g, o.a), (.g, o.b)]
  | .usel o => [(.g, o.d), (.g, o.a), (.g, o.b)]
  | .uplop o => [(.any, o.d), (.p, o.a), (.p, o.b)]
  | .umov o => [(.g, o.d), (.g, o.a), (.z, o.b)]
  | .umovi o => [(.g, o.d)]
  | .uaddi o => [(.g, o.d)]
  | .ucat o => [(.g, o.d)]
  | .udivN64 o => [(.g, o.d), (.g, o.a), (.g, o.b)]
  | .uremN64 o => [(.g, o.d), (.g, o.a), (.g, o.b)]
  | .ldN8Uniform o => [(.g, o.w.d), (.g, o.w.a), ((idxCls o.x), o.w.b), (.z, o.x.c)]
  | .ldN16Uniform o => [(.g, o.w.d), (.g, o.w.a), ((idxCls o.x), o.w.b), (.z, o.x.c)]
  | .ldN32Uniform o => [(.g, o.w.d), (.g, o.w.a), ((idxCls o.x), o.w.b), (.z, o.x.c)]
  | .ldI32Uniform o => [(.g, o.w.d), (.g, o.w.a), ((idxCls o.x), o.w.b), (.z, o.x.c)]
  | .ldN64Uniform o => [(.g, o.w.d), (.g, o.w.a), ((idxCls o.x), o.w.b), (.z, o.x.c)]
  | .stN8Uniform o => [(.z, o.w.d), (.g, o.w.a), ((idxCls o.x), o.w.b), (.g, o.x.c)]
  | .stN16Uniform o => [(.z, o.w.d), (.g, o.w.a), ((idxCls o.x), o.w.b), (.g, o.x.c)]
  | .stN32Uniform o => [(.z, o.w.d), (.g, o.w.a), ((idxCls o.x), o.w.b), (.g, o.x.c)]
  | .stN64Uniform o => [(.z, o.w.d), (.g, o.w.a), ((idxCls o.x), o.w.b), (.g, o.x.c)]
  | .ldc o => [(.g, o.w.d), (.g, o.w.a), ((idxCls o.x), o.w.b), (.z, o.x.c)]
  | .atomAddUniform o => [(.g, o.w.d), (.g, o.w.a), ((idxCls o.x), o.w.b), (.g, o.x.c)]
  | .atomFaddUniform o => [(.g, o.w.d), (.g, o.w.a), ((idxCls o.x), o.w.b), (.g, o.x.c)]
  | .atomMinUniform o => [(.g, o.w.d), (.g, o.w.a), ((idxCls o.x), o.w.b), (.g, o.x.c)]
  | .atomMaxUniform o => [(.g, o.w.d), (.g, o.w.a), ((idxCls o.x), o.w.b), (.g, o.x.c)]
  | .atomAndUniform o => [(.g, o.w.d), (.g, o.w.a), ((idxCls o.x), o.w.b), (.g, o.x.c)]
  | .atomOrUniform o => [(.g, o.w.d), (.g, o.w.a), ((idxCls o.x), o.w.b), (.g, o.x.c)]
  | .atomXorUniform o => [(.g, o.w.d), (.g, o.w.a), ((idxCls o.x), o.w.b), (.g, o.x.c)]
  | .atomXchgUniform o => [(.g, o.w.d), (.g, o.w.a), ((idxCls o.x), o.w.b), (.g, o.x.c)]
  | .atomCasUniform o => [(.g, o.w.d), (.g, o.w.a), ((idxCls o.x), o.w.b), ((.casG (w64 o.x.ty)), o.x.c)]
  | .waitcmp o => [(.p, o.w.d), (.g, o.w.a), ((idxCls o.x), o.w.b), ((if o.x.subf.toNat / 8 == 1 then .any else .g), o.x.c)]
  | .fenceW o => [(.z, o.d), (.z, o.a), (.z, o.b)]
  | .fenceL o => [(.z, o.d), (.z, o.a), (.z, o.b)]
  | .fenceS o => [(.z, o.d), (.z, o.a), (.z, o.b)]
  | .cinv o => [(.z, o.d), (.z, o.a), (.z, o.b)]
  | .br _ => []
  | .bra _ => []
  | .brl _ => []
  | .call _ => []
  | .calll _ => []
  | .callo o => [(.gz, o.d), (.g, o.a), (.g, o.b)]
  | .bri o => [(.z, o.d), (.g, o.a), (.z, o.b)]
  | .calli o => [(.gz, o.d), (.g, o.a), (.z, o.b)]
  | .ret o => [(.z, o.d), (.gz, o.a), (.z, o.b)]
  | .regang o => [(.z, o.d), (.z, o.a), (.z, o.b)]
  | .exit o => [(.z, o.d), (.z, o.a), (.z, o.b)]
  | .hoist o => [(.g, o.w.d), (.g, o.w.a), (.gz, o.w.b), (.z, o.x.c)]
  | .hwait o => [(.p, o.d), (.g, o.a), (.z, o.b)]
  | .evict o => [(.z, o.d), (.g, o.a), (.z, o.b)]
  | .pin o => [(.p, o.d), (.g, o.a), (.z, o.b)]
  | .unpin o => [(.p, o.d), (.g, o.a), (.z, o.b)]
  | .hset o => [(.h, o.w.d), (.g2, o.w.a), (.g, o.w.b), (.z, o.x.c)]
  | .hget o => [(.g, o.d), (.h, o.a), ((.lit 3), o.b)]
  | .mmLoadb o => [(.gz, o.w.d), (.h, o.w.a), (.gz, o.w.b), (.z, o.x.c)]
  | .mmPass o => [(.gz, o.w.d), (.g, o.w.a), (.g, o.w.b), (.z, o.x.c)]
  | .mmSpass o => [(.gz, o.w.d), (.g, o.w.a), (.g, o.w.b), (.v, o.x.c)]
  | .mmStore o => [(.gz, o.w.d), (.g, o.w.a), (.g, o.w.b), (.gz, o.x.c)]
  | .mmZero o => [(.gz, o.w.d), (.g, o.w.a), (.g, o.w.b), (.z, o.x.c)]
  | .twLoad o => [(.gz, o.w.d), (.g, o.w.a), (.g, o.w.b), (.gz, o.x.c)]
  | .twStore o => [(.gz, o.w.d), (.g, o.w.a), (.g, o.w.b), (.gz, o.x.c)]
  | .twMcast o => [(.gz, o.w.d), (.g, o.w.a), (.g, o.w.b), (.g, o.x.c)]
  | .twGather o => [(.gz, o.w.d), (.g, o.w.a), (.g, o.w.b), (.gz, o.x.c)]
  | .twRed o => [(.gz, o.w.d), (.g, o.w.a), (.g, o.w.b), (.z, o.x.c)]
  | .twPermit o => [(.m, o.d)]
  | .cbatch o => [(.g, o.d), (.z, o.a), (.z, o.b)]
  | .cwait o => [(.p, o.d), (.g, o.a), (.z, o.b)]
  | .barInit o => [(.h, o.d), (.g, o.a), (.z, o.b)]
  | .barArrive o => [(.gz, o.d), (.h, o.a), (.gz, o.b)]
  | .barWait o => [(.p, o.d), (.h, o.a), (.g, o.b)]
  | .twait o => [(.p, o.d), (.m, o.a), (.g, o.b)]
  | .tread o => [(.g, o.d), (.m, o.a), ((.lit 1), o.b)]
  | .tapEnc o => [(.gz, o.w.d), (.g, o.w.a), (.z, o.w.b), (.z, o.x.c)]
  | .tapAdapt o => [(.gz, o.w.d), (.g, o.w.a), (.z, o.w.b), (.z, o.x.c)]
  | .tapNext o => [(.g, o.d), (.p, o.a), (.g, o.b)]
  | .tapRead o => [(.z, o.d), (.g, o.a), (.g, o.b)]
  | .tapResumeApply o => [(.z, o.w.d), (.g, o.w.a), (.z, o.w.b), (.z, o.x.c)]
  | .tapResumeSkip o => [(.z, o.w.d), (.g, o.w.a), (.z, o.w.b), (.z, o.x.c)]
  | .tapResumeRewritten o => [(.z, o.w.d), (.g, o.w.a), (.g, o.w.b), (.z, o.x.c)]
  | .gqIns o => [(.p, o.w.d), (.g, o.w.a), (.g, o.w.b), (.z, o.x.c)]
  | .gqPop o => [(.p, o.w.d), (.g, o.w.a), (.g, o.w.b), (.z, o.x.c)]
  | .gqAdd o => [(.p, o.w.d), (.g, o.w.a), (.g, o.w.b), (.z, o.x.c)]
  | .gqMax o => [(.p, o.w.d), (.g, o.w.a), (.g, o.w.b), (.z, o.x.c)]
  | .gqDone o => [(.p, o.w.d), (.g, o.w.a), (.z, o.w.b), (.z, o.x.c)]
  | .kvFork o => [(.z, o.w.d), (.g, o.w.a), (.g, o.w.b), (.z, o.x.c)]
  | .kvApp o => [(.g, o.w.d), (.g, o.w.a), (.g, o.w.b), (.z, o.x.c)]
  | .kvDrop o => [(.z, o.w.d), (.g, o.w.a), (.z, o.w.b), (.z, o.x.c)]
  | .kvDropFrame o => [(.z, o.w.d), (.g, o.w.a), (.g, o.w.b), (.z, o.x.c)]
  | .sread o => [((sreadCls o), o.d), (.any, o.a), (.any, o.b)]
  | .swrite o => [(.g, o.d), (.any, o.a), (.any, o.b)]
  | .trap o => [(.z, o.d)]
  | .tret o => [(.z, o.d), (.z, o.a), (.z, o.b)]
  | .elect o => [(.p, o.d), (.g, o.a), (.z, o.b)]
  | .lsel o => [(.g, o.d), (.v, o.a), (.g, o.b)]
  | .lwr o => [(.v, o.d), (.g, o.a), (.g, o.b)]
  | .launchTrig o => [(.z, o.d), (.z, o.a), (.z, o.b)]
  | .gridwait o => [(.z, o.d), (.z, o.a), (.z, o.b)]
  | .nop o => [(.z, o.d), (.z, o.a), (.any, o.b)]
  | .sleep o => [(.z, o.d), (.g, o.a), (.any, o.b)]
  | .gqRead o => [(.g2, o.d), (.g, o.a), (.any, o.b)]
  | .gqResid o => [(.g, o.d), (.p, o.a), (.any, o.b)]
  | .yield o => [(.z, o.d), (.z, o.a), (.any, o.b)]
  | .bkpt o => [(.z, o.d), (.z, o.a), (.any, o.b)]
  | .mark o => [(.z, o.d), (.g, o.a), (.any, o.b)]
  | .time o => [(.g, o.d), (.z, o.a), (.any, o.b)]
  | .dictionaryPair _ => []
  | .issueSelect => []
  | .fragmentPromotion _ => []
  | .fragmentRefill _ => []
  | .spillWaitExpiry _ => []
  | .yieldExpiry _ => []
  | .sleepExpiry _ => []
  | .wctWaitEnd _ => []
  | .detTurn _ => []
  | .detStall _ => []
  | .pageWalk _ => []
  | .faultqOverflowRewalk _ => []
  | .homeSliceWrite _ => []
  | .writeVisible _ => []
  | .homeSliceRead _ => []
  | .mxAliasWrite _ => []
  | .ownershipGrant _ => []
  | .stashWriteback _ _ => []
  | .leaseRecordDrop _ => []
  | .atomicPerform _ => []
  | .relAtomicRelease _ => []
  | .routerMerge _ _ => []
  | .mergeHoldExpiry _ => []
  | .atomicReturn _ => []
  | .monitorFallback _ => []
  | .hostWriteAck _ => []
  | .hostBar2Access _ _ _ _ => []
  | .engineSlotStart _ => []
  | .engineWalkStart _ _ => []
  | .permitEffect _ => []
  | .ringTileStart _ _ => []
  | .engineCommandComplete _ _ => []
  | .mcastCopyLand _ _ _ => []
  | .operandFetch _ => []
  | .matrixGrant _ => []
  | .arbiterPromotion _ _ => []
  | .bankLoad _ _ => []
  | .bankLoadComplete _ _ => []
  | .passComplete _ => []
  | .mmStoreComplete _ => []
  | .tapEncodeRow _ => []
  | .tapCommit _ _ => []
  | .tapAdaptRow _ => []
  | .hoistLoadComplete _ _ => []
  | .hoistLoadFault _ _ => []
  | .overlayFree _ _ => []
  | .codeAbsentService _ => []
  | .forcedEviction _ _ => []
  | .dictLoad _ _ => []
  | .groupClaim _ => []
  | .groupDrainComplete _ => []
  | .launchComplete _ => []
  | .gqUpdateApply _ _ => []
  | .faultDelivery _ => []
  | .delegatedFault _ => []
  | .imageSlotClaim _ => []
  | .groupHalt _ => []
  | .saveComplete _ => []
  | .resumePlace _ => []
  | .focusEnd _ => []
  | .uncorrectableWriteback _ => []
  | .errorRetry _ _ _ => []
  | .coreRetire _ => []
  | .sliceRetire _ => []
  | .deviceSpare _ => []
  | .droopStretch _ => []
  | .droopRelease _ => []
  | .powerLimitStretch _ => []
  | .firmwareVerify => []
  | .dieRestart _ => []
  | .taggedMessageArrive _ _ _ _ _ => []
  | .flitReplay _ _ => []
  | .frontEndFetch _ _ => []
  | .nopPacket _ _ => []
  | .launchPacket _ _ => []
  | .resumePacket _ _ => []
  | .ibPacket _ _ => []
  | .predPacket _ _ => []
  | .fencePacket _ _ => []
  | .signalPacket _ _ => []
  | .waitPacket _ _ => []
  | .armPacket _ _ => []
  | .cqDoorbell _ _ _ => []
  | .cqEnable _ _ _ => []
  | .cqRestart _ _ _ => []
  | .evqCtlWrite _ _ => []
  | .evqHeadWrite _ _ => []
  | .mxModeChange _ _ => []
  | .mxModeChangeDone _ => []
  | .l2WaysWrite _ _ => []
  | .l2LeaseWrite _ _ => []
  | .codeCantonWrite _ _ => []
  | .gqPoolOpen _ _ => []
  | .gqPoolClose _ _ => []
  | .traceEnable _ _ => []
  | .profClear _ => []
  | .profFreeze _ _ => []
  | .powerLimitWrite _ => []
  | .registerWrite _ _ _ _ => []
  | .hcCmdUnknown _ _ => []
  | .preempt _ => []
  | .retry _ => []
  | .terminate _ => []
  | .replay _ => []
  | .cancel _ => []
  | .invalidate _ => []
  | .invalidateComplete _ => []
  | .peerSet _ => []
  | .collSetup _ => []
  | .attest _ => []
  | .functionReset _ => []
  | .moduleLoad _ => []
  | .moduleBind _ => []
  | .moduleUnload _ => []
  | .moduleUnloadComplete _ => []
  | .keyEnroll _ => []
  | .fwLoad _ => []
  | .hostReadCompletion _ _ => []
  | .twRedContribution _ _ _ _ _ _ => []
  | .powerLimitRelease _ => []
  | .dieRepairReset _ => []
  | .spareDeviceCopy _ _ => []

/-- The conditions on the other fields: reserved codes, fields not used, subfunctions (R256 to R260). -/
def Instr.extra : Instr → Bool
  | .iadd _ => true
  | .isub _ => true
  | .iaddSatI32 _ => true
  | .iaddSatN32 _ => true
  | .isubSatI32 _ => true
  | .isubSatN32 _ => true
  | .imul _ => true
  | .imulhI32 _ => true
  | .imulhN32 _ => true
  | .imac _ => true
  | .iminI32 _ => true
  | .iminN32 _ => true
  | .imaxI32 _ => true
  | .imaxN32 _ => true
  | .iabs _ => true
  | .ineg _ => true
  | .and _ => true
  | .or _ => true
  | .xor _ => true
  | .not _ => true
  | .shl _ => true
  | .shr _ => true
  | .sar _ => true
  | .rot _ => true
  | .bfeN32 _ => true
  | .bfeI32 _ => true
  | .bfi _ => true
  | .brev _ => true
  | .clz _ => true
  | .ffs _ => true
  | .popc _ => true
  | .icmp _ => true
  | .fadd _ => true
  | .fsub _ => true
  | .fmul _ => true
  | .fmac _ => true
  | .fmin _ => true
  | .fmax _ => true
  | .frcp _ => true
  | .frsq _ => true
  | .fsqrt _ => true
  | .fexp2 _ => true
  | .flog2 _ => true
  | .fcmp _ => true
  | .fabs _ => true
  | .fneg _ => true
  | .fminNum _ => true
  | .fmaxNum _ => true
  | .faddBf16 _ => true
  | .fsubBf16 _ => true
  | .fmulBf16 _ => true
  | .fmacBf16 _ => true
  | .fminBf16 _ => true
  | .fmaxBf16 _ => true
  | .fabsBf16 _ => true
  | .fnegBf16 _ => true
  | .faddF16 _ => true
  | .fsubF16 _ => true
  | .fmulF16 _ => true
  | .fmacF16 _ => true
  | .fminF16 _ => true
  | .fmaxF16 _ => true
  | .fabsF16 _ => true
  | .fnegF16 _ => true
  | .cvtF32Fs o => o.x.sub == 0 && o.x.ty == 0 && o.x.imm == 0
  | .cvtFsF32 o => o.x.sub == 1 && o.x.ty == 0 && o.x.imm == 0
  | .cvtBf16Fs o => o.x.sub == 2 && o.x.ty == 0 && o.x.imm == 0
  | .cvtFsBf16 o => o.x.sub == 3 && o.x.ty == 0 && o.x.imm == 0
  | .cvtF16Fs o => o.x.sub == 4 && o.x.ty == 0 && o.x.imm == 0
  | .cvtFsF16 o => o.x.sub == 5 && o.x.ty == 0 && o.x.imm == 0
  | .cvtI32Fs o => o.x.sub == 6 && o.x.ty == 0 && o.x.imm == 0
  | .cvtFsI32 o => o.x.sub == 7 && o.x.ty == 0 && o.x.imm == 0
  | .cvtF32Bf16 o => o.x.sub == 8 && o.x.slot == 0 && o.x.rnd != 3 && o.x.ty == 0 && o.x.imm == 0
  | .cvtBf16F32 o => o.x.sub == 9 && o.x.slot == 0 && o.x.rnd != 3 && o.x.ty == 0 && o.x.imm == 0
  | .cvtF32F16 o => o.x.sub == 10 && o.x.slot == 0 && o.x.rnd != 3 && o.x.ty == 0 && o.x.imm == 0
  | .cvtF16F32 o => o.x.sub == 11 && o.x.slot == 0 && o.x.rnd != 3 && o.x.ty == 0 && o.x.imm == 0
  | .cvtF32I32 o => o.x.sub == 12 && o.x.slot == 0 && o.x.rnd != 3 && o.x.ty == 0 && o.x.imm == 0
  | .cvtI32F32 o => o.x.sub == 13 && o.x.slot == 0 && o.x.rnd != 3 && o.x.ty == 0 && o.x.imm == 0
  | .cvtF32N32 o => o.x.sub == 14 && o.x.slot == 0 && o.x.rnd != 3 && o.x.ty == 0 && o.x.imm == 0
  | .cvtN32F32 o => o.x.sub == 15 && o.x.slot == 0 && o.x.rnd != 3 && o.x.ty == 0 && o.x.imm == 0
  | .qsplit o => o.x.sub == 0 && (o.x.ty == 8 || o.x.ty == 9 || o.x.ty == 10) && o.x.imm.toNat ≤ 1 && (o.x.imm == 1 || (o.x.slot == 0 && o.x.rnd == 0 && o.x.sat == 0))
  | .vcomp _ => true
  | .spc48 _ => true
  | .bpick _ => true
  | .frnd _ => true
  | .packBf16 _ => true
  | .packF16 _ => true
  | .unpackBf16 _ => true
  | .unpackF16 _ => true
  | .i2fI32 _ => true
  | .i2fN32 _ => true
  | .f2iI32 _ => true
  | .f2iN32 _ => true
  | .vexpand _ => true
  | .qxchH o => o.x.sub == 0 && o.x.slot == 0 && o.x.rnd == 0 && o.x.sat == 0 && (o.x.ty == 2 || o.x.ty == 3) && o.x.imm == 0
  | .qxchV o => o.x.sub == 1 && o.x.slot == 0 && o.x.rnd == 0 && o.x.sat == 0 && (o.x.ty == 2 || o.x.ty == 3) && o.x.imm == 0
  | .qxchD o => o.x.sub == 2 && o.x.slot == 0 && o.x.rnd == 0 && o.x.sat == 0 && (o.x.ty == 2 || o.x.ty == 3) && o.x.imm == 0
  | .qxchBc o => o.x.sub == 3 && o.x.slot == 0 && o.x.rnd == 0 && o.x.sat == 0 && (o.x.ty == 2 || o.x.ty == 3) && o.x.imm.toNat < 4
  | .shflAt o => o.x.sub == 0 && o.x.slot == 0 && o.x.rnd == 0 && o.x.sat == 0 && (o.x.ty == 2 || o.x.ty == 3) && o.x.imm == 0
  | .shflRot o => o.x.sub == 1 && o.x.slot == 0 && o.x.rnd == 0 && o.x.sat == 0 && (o.x.ty == 2 || o.x.ty == 3) && o.x.imm == 0
  | .shflSpan o => o.x.sub == 2 && o.x.slot == 0 && o.x.rnd == 0 && o.x.sat == 0 && (o.x.ty == 2 || o.x.ty == 3) && o.x.imm == 0
  | .shflFlip o => o.x.sub == 3 && o.x.slot == 0 && o.x.rnd == 0 && o.x.sat == 0 && (o.x.ty == 2 || o.x.ty == 3) && o.x.imm == 0
  | .vreduceAdd o => o.x.sub == 0 && o.x.slot == 0 && o.x.rnd == 0 && o.x.sat == 0 && (o.x.ty == 6 || o.x.ty == 2 || o.x.ty == 7 || o.x.ty == 3) && o.x.imm == 0
  | .vreduceMin o => o.x.sub == 1 && o.x.slot == 0 && o.x.rnd == 0 && o.x.sat == 0 && (o.x.ty == 6 || o.x.ty == 2 || o.x.ty == 7 || o.x.ty == 3) && o.x.imm == 0
  | .vreduceMax o => o.x.sub == 2 && o.x.slot == 0 && o.x.rnd == 0 && o.x.sat == 0 && (o.x.ty == 6 || o.x.ty == 2 || o.x.ty == 7 || o.x.ty == 3) && o.x.imm == 0
  | .vreduceAnd o => o.x.sub == 3 && o.x.slot == 0 && o.x.rnd == 0 && o.x.sat == 0 && (o.x.ty == 6 || o.x.ty == 2 || o.x.ty == 7 || o.x.ty == 3) && o.x.imm == 0
  | .vreduceOr o => o.x.sub == 4 && o.x.slot == 0 && o.x.rnd == 0 && o.x.sat == 0 && (o.x.ty == 6 || o.x.ty == 2 || o.x.ty == 7 || o.x.ty == 3) && o.x.imm == 0
  | .vreduceXor o => o.x.sub == 5 && o.x.slot == 0 && o.x.rnd == 0 && o.x.sat == 0 && (o.x.ty == 6 || o.x.ty == 2 || o.x.ty == 7 || o.x.ty == 3) && o.x.imm == 0
  | .vreduceFadd o => o.x.sub == 6 && o.x.slot == 0 && o.x.rnd == 0 && o.x.sat == 0 && (o.x.ty == 8) && o.x.imm == 0
  | .vreduceFmin o => o.x.sub == 7 && o.x.slot == 0 && o.x.rnd == 0 && o.x.sat == 0 && (o.x.ty == 8) && o.x.imm == 0
  | .vreduceFmax o => o.x.sub == 8 && o.x.slot == 0 && o.x.rnd == 0 && o.x.sat == 0 && (o.x.ty == 8) && o.x.imm == 0
  | .vscanAdd o => o.x.sub == 0 && o.x.slot == 0 && o.x.rnd == 0 && o.x.sat == 0 && (o.x.ty == 6 || o.x.ty == 2 || o.x.ty == 7 || o.x.ty == 3) && o.x.imm.toNat ≤ 1
  | .vscanMin o => o.x.sub == 1 && o.x.slot == 0 && o.x.rnd == 0 && o.x.sat == 0 && (o.x.ty == 6 || o.x.ty == 2 || o.x.ty == 7 || o.x.ty == 3) && o.x.imm.toNat ≤ 1
  | .vscanMax o => o.x.sub == 2 && o.x.slot == 0 && o.x.rnd == 0 && o.x.sat == 0 && (o.x.ty == 6 || o.x.ty == 2 || o.x.ty == 7 || o.x.ty == 3) && o.x.imm.toNat ≤ 1
  | .vscanAnd o => o.x.sub == 3 && o.x.slot == 0 && o.x.rnd == 0 && o.x.sat == 0 && (o.x.ty == 6 || o.x.ty == 2 || o.x.ty == 7 || o.x.ty == 3) && o.x.imm.toNat ≤ 1
  | .vscanOr o => o.x.sub == 4 && o.x.slot == 0 && o.x.rnd == 0 && o.x.sat == 0 && (o.x.ty == 6 || o.x.ty == 2 || o.x.ty == 7 || o.x.ty == 3) && o.x.imm.toNat ≤ 1
  | .vscanXor o => o.x.sub == 5 && o.x.slot == 0 && o.x.rnd == 0 && o.x.sat == 0 && (o.x.ty == 6 || o.x.ty == 2 || o.x.ty == 7 || o.x.ty == 3) && o.x.imm.toNat ≤ 1
  | .vscanFadd o => o.x.sub == 6 && o.x.slot == 0 && o.x.rnd == 0 && o.x.sat == 0 && (o.x.ty == 8) && o.x.imm.toNat ≤ 1
  | .vscanFmin o => o.x.sub == 7 && o.x.slot == 0 && o.x.rnd == 0 && o.x.sat == 0 && (o.x.ty == 8) && o.x.imm.toNat ≤ 1
  | .vscanFmax o => o.x.sub == 8 && o.x.slot == 0 && o.x.rnd == 0 && o.x.sat == 0 && (o.x.ty == 8) && o.x.imm.toNat ≤ 1
  | .voteSome o => o.x.sub == 0 && o.x.slot == 0 && o.x.rnd == 0 && o.x.sat == 0 && o.x.ty == 0
  | .voteEvery o => o.x.sub == 1 && o.x.slot == 0 && o.x.rnd == 0 && o.x.sat == 0 && o.x.ty == 0 && o.x.imm == 0
  | .voteSame o => o.x.sub == 2 && o.x.slot == 0 && o.x.rnd == 0 && o.x.sat == 0 && o.x.ty == 0 && o.x.imm == 0
  | .ballot _ => true
  | .eqmask _ => true
  | .sel o => o.x.sub == 0 && o.x.slot == 0 && o.x.rnd == 0 && o.x.sat == 0 && (o.x.ty == 2 || o.x.ty == 3) && o.x.imm == 0
  | .plop o => o.x.sub == 0 && o.x.slot == 0 && o.x.rnd == 0 && o.x.sat == 0 && o.x.ty == 0
  | .mov _ => true
  | .movi _ => true
  | .pget _ => true
  | .pset _ => true
  | .ldN8Lane o => o.x.subf == 0 && o.x.ord == 0 && o.x.ty == 0 && laneMode o.x
  | .ldI8Lane o => o.x.subf == 0 && o.x.ord == 0 && o.x.ty == 0 && laneMode o.x
  | .ldN16Lane o => o.x.subf == 0 && o.x.ord == 0 && o.x.ty == 0 && laneMode o.x
  | .ldI16Lane o => o.x.subf == 0 && o.x.ord == 0 && o.x.ty == 0 && laneMode o.x
  | .ldN32Lane o => o.x.subf == 0 && o.x.ord == 0 && o.x.ty == 0 && laneMode o.x
  | .ldN64Lane o => o.x.subf == 0 && o.x.ord == 0 && o.x.ty == 0 && laneMode o.x
  | .ldN128Lane o => o.x.subf == 0 && o.x.ord == 0 && o.x.ty == 0 && laneMode o.x
  | .stN8Lane o => o.x.subf == 0 && o.x.ord == 0 && o.x.ty == 0 && laneMode o.x
  | .stN16Lane o => o.x.subf == 0 && o.x.ord == 0 && o.x.ty == 0 && laneMode o.x
  | .stN32Lane o => o.x.subf == 0 && o.x.ord == 0 && o.x.ty == 0 && laneMode o.x
  | .stN64Lane o => o.x.subf == 0 && o.x.ord == 0 && o.x.ty == 0 && laneMode o.x
  | .stN128Lane o => o.x.subf == 0 && o.x.ord == 0 && o.x.ty == 0 && laneMode o.x
  | .atomAddLane o => o.x.subf == 0 && intTy o.x.ty && laneMode o.x
  | .atomFaddLane o => o.x.subf == 1 && o.x.ty == 8 && laneMode o.x
  | .atomMinLane o => o.x.subf == 2 && intTy o.x.ty && laneMode o.x
  | .atomMaxLane o => o.x.subf == 3 && intTy o.x.ty && laneMode o.x
  | .atomAndLane o => o.x.subf == 4 && (o.x.ty == 2 || o.x.ty == 3) && laneMode o.x
  | .atomOrLane o => o.x.subf == 5 && (o.x.ty == 2 || o.x.ty == 3) && laneMode o.x
  | .atomXorLane o => o.x.subf == 6 && (o.x.ty == 2 || o.x.ty == 3) && laneMode o.x
  | .atomXchgLane o => o.x.subf == 7 && (o.x.ty == 2 || o.x.ty == 3) && laneMode o.x
  | .atomCasLane o => o.x.subf == 8 && (o.x.ty == 2 || o.x.ty == 3) && laneMode o.x
  | .pref o => o.x.subf == 0 && o.x.ord == 0 && o.x.ty == 0 && laneMode o.x
  | .wide o => wideOk o
  | .movw _ => true
  | .ffma o => o.x.sub == 0 && o.x.slot == 0 && o.x.rnd != 3 && (o.x.ty == 8) && o.x.imm == 0
  | .imad o => o.x.sub == 0 && o.x.slot == 0 && o.x.rnd == 0 && o.x.sat == 0 && (o.x.ty == 6 || o.x.ty == 2 || o.x.ty == 7 || o.x.ty == 3) && o.x.imm == 0
  | .isum3 o => o.x.sub == 0 && o.x.slot == 0 && o.x.rnd == 0 && (o.x.ty == 6 || o.x.ty == 2 || o.x.ty == 7 || o.x.ty == 3) && o.x.imm == 0
  | .bitfn o => o.x.sub == 0 && o.x.slot == 0 && o.x.rnd == 0 && o.x.sat == 0 && (o.x.ty == 2 || o.x.ty == 3)
  | .winxN32 o => o.x.sub == 0 && o.x.slot == 0 && o.x.rnd == 0 && o.x.sat == 0 && (o.x.ty == 2) && o.x.imm == 0
  | .winxI32 o => o.x.sub == 0 && o.x.slot == 0 && o.x.rnd == 0 && o.x.sat == 0 && (o.x.ty == 6) && o.x.imm == 0
  | .idot4 o => o.x.sub == 0 && o.x.slot == 0 && o.x.rnd == 0 && (o.x.ty == 4 || o.x.ty == 0) && o.x.imm == 0
  | .fdot2 o => o.x.sub == 0 && o.x.slot == 0 && o.x.rnd != 3 && (o.x.ty == 9 || o.x.ty == 10) && o.x.imm == 0
  | .iclamp o => o.x.sub == 0 && o.x.slot == 0 && o.x.rnd == 0 && o.x.sat == 0 && (o.x.ty == 0 || o.x.ty == 1 || o.x.ty == 2 || o.x.ty == 3 || o.x.ty == 4 || o.x.ty == 5 || o.x.ty == 6 || o.x.ty == 7) && o.x.imm == 0
  | .fclamp o => o.x.sub == 0 && o.x.slot == 0 && o.x.rnd == 0 && o.x.sat == 0 && (o.x.ty == 8) && o.x.imm == 0
  | .sad o => o.x.sub == 0 && o.x.slot == 0 && o.x.rnd == 0 && o.x.sat == 0 && (o.x.ty == 4 || o.x.ty == 0 || o.x.ty == 5 || o.x.ty == 1) && o.x.imm == 0
  | .fscale o => o.x.sub == 0 && o.x.slot == 0 && o.x.rnd != 3 && (o.x.ty == 8) && o.x.imm == 0
  | .imadw o => o.x.sub == 0 && o.x.slot == 0 && o.x.rnd == 0 && o.x.sat == 0 && (o.x.ty == 6 || o.x.ty == 2) && o.x.imm == 0
  | .uadd _ => true
  | .usub _ => true
  | .umul _ => true
  | .umulhI64 _ => true
  | .umulhN64 _ => true
  | .umac _ => true
  | .uminI64 _ => true
  | .uminN64 _ => true
  | .umaxI64 _ => true
  | .umaxN64 _ => true
  | .uand _ => true
  | .uor _ => true
  | .uxor _ => true
  | .unot _ => true
  | .ushl _ => true
  | .ushr _ => true
  | .usar _ => true
  | .uext o => decide (o.b.toNat < 8) && o.b.toNat % 4 != 3
  | .uclz _ => true
  | .uffs _ => true
  | .upopc _ => true
  | .ucmp _ => true
  | .usel _ => true
  | .uplop _ => true
  | .umov _ => true
  | .umovi _ => true
  | .uaddi _ => true
  | .ucat o => decide (o.imm.toNat < 65536)
  | .udivN64 _ => true
  | .uremN64 _ => true
  | .ldN8Uniform o => o.x.subf == 0 && o.x.ord == 0 && o.x.ty == 0 && uniMode o.x
  | .ldN16Uniform o => o.x.subf == 0 && o.x.ord == 0 && o.x.ty == 0 && uniMode o.x
  | .ldN32Uniform o => o.x.subf == 0 && o.x.ord == 0 && o.x.ty == 0 && uniMode o.x
  | .ldI32Uniform o => o.x.subf == 0 && o.x.ord == 0 && o.x.ty == 0 && uniMode o.x
  | .ldN64Uniform o => o.x.subf == 0 && o.x.ord == 0 && o.x.ty == 0 && uniMode o.x
  | .stN8Uniform o => o.x.subf == 0 && o.x.ord == 0 && o.x.ty == 0 && uniMode o.x
  | .stN16Uniform o => o.x.subf == 0 && o.x.ord == 0 && o.x.ty == 0 && uniMode o.x
  | .stN32Uniform o => o.x.subf == 0 && o.x.ord == 0 && o.x.ty == 0 && uniMode o.x
  | .stN64Uniform o => o.x.subf == 0 && o.x.ord == 0 && o.x.ty == 0 && uniMode o.x
  | .ldc o => o.x.subf == 0 && o.x.ord == 0 && decide (o.x.ty.toNat < 7) && o.x.mode == 2
  | .atomAddUniform o => o.x.subf == 0 && intTy o.x.ty && uniMode o.x
  | .atomFaddUniform o => o.x.subf == 1 && o.x.ty == 8 && uniMode o.x
  | .atomMinUniform o => o.x.subf == 2 && intTy o.x.ty && uniMode o.x
  | .atomMaxUniform o => o.x.subf == 3 && intTy o.x.ty && uniMode o.x
  | .atomAndUniform o => o.x.subf == 4 && (o.x.ty == 2 || o.x.ty == 3) && uniMode o.x
  | .atomOrUniform o => o.x.subf == 5 && (o.x.ty == 2 || o.x.ty == 3) && uniMode o.x
  | .atomXorUniform o => o.x.subf == 6 && (o.x.ty == 2 || o.x.ty == 3) && uniMode o.x
  | .atomXchgUniform o => o.x.subf == 7 && (o.x.ty == 2 || o.x.ty == 3) && uniMode o.x
  | .atomCasUniform o => o.x.subf == 8 && (o.x.ty == 2 || o.x.ty == 3) && uniMode o.x
  | .waitcmp o => o.x.ord == 0 && intTy o.x.ty && decide (o.x.subf.toNat % 8 < 6) && o.x.mode == 2
  | .fenceW _ => true
  | .fenceL _ => true
  | .fenceS _ => true
  | .cinv _ => true
  | .br _ => true
  | .bra _ => true
  | .brl o => o.rsvd == 0 && o.d64.toNat % 2 == 0
  | .call _ => true
  | .calll o => o.rsvd == 0 && o.d64.toNat % 2 == 0
  | .callo _ => true
  | .bri _ => true
  | .calli _ => true
  | .ret _ => true
  | .regang o => o.g == 7
  | .exit _ => true
  | .hoist o => o.x.sub == 0 && o.x.slot == 0 && o.x.rnd == 0 && o.x.sat == 0 && o.x.ty == 0 && (if o.w.b == 0 then decide (o.x.imm.toNat < 64) else o.x.imm == 0)
  | .hwait _ => true
  | .evict _ => true
  | .pin _ => true
  | .unpin _ => true
  | .hset o => o.x.sub == 0 && o.x.rnd == 0 && o.x.sat == 0 && o.x.ty == 0 && o.x.imm == 0
  | .hget _ => true
  | .mmLoadb o => o.x.slot == 0 && o.x.rnd == 0 && o.x.sat == 0 && o.x.ty == 0 && decide (o.x.imm.toNat < 4) && o.x.sub.toNat % 32 == 0 && (o.x.sub.toNat / 32 != 1)
  | .mmPass o => o.x.slot == 0 && o.x.rnd == 0 && o.x.sat == 0 && o.x.ty == 0 && o.x.sub.toNat / 4 % 2 == 0 && o.x.sub.toNat / 32 != 1
  | .mmSpass o => o.x.slot == 0 && o.x.rnd == 0 && o.x.sat == 0 && o.x.ty == 0 && o.x.sub.toNat / 4 % 4 == 0 && o.x.sub.toNat / 32 % 2 == 0
  | .mmStore o => o.x.rnd != 3 && (o.x.ty == 8 || o.x.ty == 6) && o.x.imm == 0 && o.x.sub.toNat % 16 == 0 && o.x.sub.toNat / 32 % 2 == 0
  | .mmZero o => o.x.slot == 0 && o.x.rnd == 0 && o.x.sat == 0 && o.x.ty == 0 && o.x.imm == 0 && (o.x.sub == 0 || o.x.sub == 16)
  | .twLoad o => o.x.slot == 0 && o.x.rnd == 0 && o.x.sat == 0 && o.x.ty == 0 && decide (o.x.imm.toNat < 8) && (o.x.sub.toNat / 64 == 1 || o.x.sub.toNat / 4 == 0) && o.x.sub.toNat / 2 % 2 == 0
  | .twStore o => decide (o.x.imm.toNat < 8) && (o.x.sub.toNat / 64 == 1 || o.x.sub.toNat / 4 == 0) && o.x.sub.toNat / 2 % 2 == 0 && (if o.x.sub.toNat % 2 == 1 then o.x.rnd != 3 && (o.x.ty == 8 || o.x.ty == 6) && o.x.imm == 0 else o.x.slot == 0 && o.x.rnd == 0 && o.x.sat == 0 && o.x.ty == 0)
  | .twMcast o => o.x.slot == 0 && o.x.rnd == 0 && o.x.sat == 0 && o.x.ty == 0 && decide (o.x.imm.toNat < 8) && (o.x.sub.toNat / 64 == 1 || o.x.sub.toNat / 4 == 0) && o.x.sub.toNat % 4 == 0
  | .twGather o => o.x.slot == 0 && o.x.rnd == 0 && o.x.sat == 0 && o.x.ty == 0 && decide (o.x.imm.toNat < 8) && (o.x.sub.toNat / 64 == 1 || o.x.sub.toNat / 4 == 0) && o.x.sub.toNat / 2 % 2 == 0
  | .twRed o => o.x.slot == 0 && o.x.rnd == 0 && o.x.sat == 0 && (o.x.ty == 8 || o.x.ty == 9 || o.x.ty == 6 || o.x.ty == 2) && o.x.imm.toNat / 8 % 2 == 0 && (o.x.sub.toNat / 64 == 1 || o.x.sub.toNat / 4 == 0) && o.x.sub.toNat % 4 != 3
  | .twPermit _ => true
  | .cbatch _ => true
  | .cwait _ => true
  | .barInit _ => true
  | .barArrive _ => true
  | .barWait _ => true
  | .twait _ => true
  | .tread _ => true
  | .tapEnc o => o.x.sub == 0 && o.x.slot == 0 && o.x.rnd == 0 && o.x.sat == 0 && o.x.ty == 0 && decide (o.x.imm.toNat < 8)
  | .tapAdapt o => o.x.sub == 0 && o.x.slot == 0 && o.x.rnd == 0 && o.x.sat == 0 && o.x.ty == 0 && decide (o.x.imm.toNat < 8)
  | .tapNext _ => true
  | .tapRead _ => true
  | .tapResumeApply o => o.x.sub == 0 && o.x.slot == 0 && o.x.rnd == 0 && o.x.sat == 0 && o.x.ty == 0 && o.x.imm == 0
  | .tapResumeSkip o => o.x.sub == 1 && o.x.slot == 0 && o.x.rnd == 0 && o.x.sat == 0 && o.x.ty == 0 && o.x.imm == 0
  | .tapResumeRewritten o => o.x.sub == 2 && o.x.slot == 0 && o.x.rnd == 0 && o.x.sat == 0 && o.x.ty == 0 && o.x.imm == 0
  | .gqIns o => o.x.sub == 0 && o.x.slot == 0 && o.x.rnd == 0 && o.x.sat == 0 && o.x.ty == 0 && decide (o.x.imm.toNat < 16)
  | .gqPop o => o.x.sub == 0 && o.x.slot == 0 && o.x.rnd == 0 && o.x.sat == 0 && o.x.ty == 0 && decide (o.x.imm.toNat < 16)
  | .gqAdd o => o.x.sub == 0 && o.x.slot == 0 && o.x.rnd == 0 && o.x.sat == 0 && o.x.ty == 0 && decide (o.x.imm.toNat < 16)
  | .gqMax o => o.x.sub == 0 && o.x.slot == 0 && o.x.rnd == 0 && o.x.sat == 0 && o.x.ty == 0 && decide (o.x.imm.toNat < 16)
  | .gqDone o => o.x.sub == 0 && o.x.slot == 0 && o.x.rnd == 0 && o.x.sat == 0 && o.x.ty == 0 && decide (o.x.imm.toNat < 16)
  | .kvFork o => o.x.sub == 0 && o.x.slot == 0 && o.x.rnd == 0 && o.x.sat == 0 && o.x.ty == 0 && o.x.imm == 0
  | .kvApp o => o.x.sub == 0 && o.x.slot == 0 && o.x.rnd == 0 && o.x.sat == 0 && o.x.ty == 0 && o.x.imm == 0
  | .kvDrop o => o.x.sub == 0 && o.x.slot == 0 && o.x.rnd == 0 && o.x.sat == 0 && o.x.ty == 0 && o.x.imm == 0
  | .kvDropFrame o => o.x.sub == 1 && o.x.slot == 0 && o.x.rnd == 0 && o.x.sat == 0 && o.x.ty == 0 && o.x.imm == 0
  | .sread o => sreadOk o
  | .swrite o => (sregOf o.a o.b).isSome
  | .trap _ => true
  | .tret _ => true
  | .elect _ => true
  | .lsel _ => true
  | .lwr _ => true
  | .launchTrig _ => true
  | .gridwait _ => true
  | .nop o => o.b == 0
  | .sleep o => o.b == 1
  | .gqRead o => o.b == 2
  | .gqResid o => o.b == 3
  | .yield o => o.b == 4
  | .bkpt o => o.b == 5
  | .mark o => o.b == 6
  | .time o => o.b == 7
  | .dictionaryPair _ => true
  | .issueSelect => true
  | .fragmentPromotion _ => true
  | .fragmentRefill _ => true
  | .spillWaitExpiry _ => true
  | .yieldExpiry _ => true
  | .sleepExpiry _ => true
  | .wctWaitEnd _ => true
  | .detTurn _ => true
  | .detStall _ => true
  | .pageWalk _ => true
  | .faultqOverflowRewalk _ => true
  | .homeSliceWrite _ => true
  | .writeVisible _ => true
  | .homeSliceRead _ => true
  | .mxAliasWrite _ => true
  | .ownershipGrant _ => true
  | .stashWriteback _ _ => true
  | .leaseRecordDrop _ => true
  | .atomicPerform _ => true
  | .relAtomicRelease _ => true
  | .routerMerge _ _ => true
  | .mergeHoldExpiry _ => true
  | .atomicReturn _ => true
  | .monitorFallback _ => true
  | .hostWriteAck _ => true
  | .hostBar2Access _ _ _ _ => true
  | .engineSlotStart _ => true
  | .engineWalkStart _ _ => true
  | .permitEffect _ => true
  | .ringTileStart _ _ => true
  | .engineCommandComplete _ _ => true
  | .mcastCopyLand _ _ _ => true
  | .operandFetch _ => true
  | .matrixGrant _ => true
  | .arbiterPromotion _ _ => true
  | .bankLoad _ _ => true
  | .bankLoadComplete _ _ => true
  | .passComplete _ => true
  | .mmStoreComplete _ => true
  | .tapEncodeRow _ => true
  | .tapCommit _ _ => true
  | .tapAdaptRow _ => true
  | .hoistLoadComplete _ _ => true
  | .hoistLoadFault _ _ => true
  | .overlayFree _ _ => true
  | .codeAbsentService _ => true
  | .forcedEviction _ _ => true
  | .dictLoad _ _ => true
  | .groupClaim _ => true
  | .groupDrainComplete _ => true
  | .launchComplete _ => true
  | .gqUpdateApply _ _ => true
  | .faultDelivery _ => true
  | .delegatedFault _ => true
  | .imageSlotClaim _ => true
  | .groupHalt _ => true
  | .saveComplete _ => true
  | .resumePlace _ => true
  | .focusEnd _ => true
  | .uncorrectableWriteback _ => true
  | .errorRetry _ _ _ => true
  | .coreRetire _ => true
  | .sliceRetire _ => true
  | .deviceSpare _ => true
  | .droopStretch _ => true
  | .droopRelease _ => true
  | .powerLimitStretch _ => true
  | .firmwareVerify => true
  | .dieRestart _ => true
  | .taggedMessageArrive _ _ _ _ _ => true
  | .flitReplay _ _ => true
  | .frontEndFetch _ _ => true
  | .nopPacket _ _ => true
  | .launchPacket _ _ => true
  | .resumePacket _ _ => true
  | .ibPacket _ _ => true
  | .predPacket _ _ => true
  | .fencePacket _ _ => true
  | .signalPacket _ _ => true
  | .waitPacket _ _ => true
  | .armPacket _ _ => true
  | .cqDoorbell _ _ _ => true
  | .cqEnable _ _ _ => true
  | .cqRestart _ _ _ => true
  | .evqCtlWrite _ _ => true
  | .evqHeadWrite _ _ => true
  | .mxModeChange _ _ => true
  | .mxModeChangeDone _ => true
  | .l2WaysWrite _ _ => true
  | .l2LeaseWrite _ _ => true
  | .codeCantonWrite _ _ => true
  | .gqPoolOpen _ _ => true
  | .gqPoolClose _ _ => true
  | .traceEnable _ _ => true
  | .profClear _ => true
  | .profFreeze _ _ => true
  | .powerLimitWrite _ => true
  | .registerWrite _ _ _ _ => true
  | .hcCmdUnknown _ _ => true
  | .preempt _ => true
  | .retry _ => true
  | .terminate _ => true
  | .replay _ => true
  | .cancel _ => true
  | .invalidate _ => true
  | .invalidateComplete _ => true
  | .peerSet _ => true
  | .collSetup _ => true
  | .attest _ => true
  | .functionReset _ => true
  | .moduleLoad _ => true
  | .moduleBind _ => true
  | .moduleUnload _ => true
  | .moduleUnloadComplete _ => true
  | .keyEnroll _ => true
  | .fwLoad _ => true
  | .hostReadCompletion _ _ => true
  | .twRedContribution _ _ _ _ _ _ => true
  | .powerLimitRelease _ => true
  | .dieRepairReset _ => true
  | .spareDeviceCopy _ _ => true

/-- Well formed: every field in its class and every other condition met (R260; log 25, 26). -/
def Instr.wf (i : Instr) : Bool := i.fields.all (fun f => f.1.ok f.2) && i.extra

/-- The lane registers the instruction needs: it is illegal when this exceeds REGS (R165). -/
def Instr.regsNeeded (i : Instr) : Nat := i.fields.foldl (fun n f => max n (f.1.high f.2)) 0

/-- The v and g registers the instruction names (R176). -/
def Instr.regsNamed (i : Instr) : List Nat := i.fields.flatMap (fun f => f.1.regs f.2)

end Sys2Proof
end

