-- ==== Sys2Proof/Machine/Ops.lean ====
section
/-!
DEFINITION. The named operations that every meaning uses: sparse tables, registers, lanes, retiring an instruction,
taking a fault and coming back from it.
-/

namespace Sys2Proof.Machine

/-! ### Sparse tables -/

/-- The value at a key, if one is listed. -/
def SMap.find {α : Type} : SMap α → Nat → Option α
  | [], _ => none
  | (k, v) :: t, x => if k = x then some v else SMap.find t x

/-- List a value at a key, keeping the keys strictly rising. -/
def SMap.set {α : Type} : SMap α → Nat → α → SMap α
  | [], x, v => [(x, v)]
  | (k, w) :: t, x, v =>
    if x < k then (x, v) :: (k, w) :: t
    else if k = x then (x, v) :: t
    else (k, w) :: SMap.set t x v

/-- Take a key out. -/
def SMap.del {α : Type} : SMap α → Nat → SMap α
  | [], _ => []
  | (k, w) :: t, x => if k = x then SMap.del t x else (k, w) :: SMap.del t x

/-- The value at a key, `d` where none is listed. -/
def SMap.get {α : Type} (d : α) (m : SMap α) (x : Nat) : α := (m.find x).getD d

/-- Write a value, listing nothing that equals the default. -/
def SMap.put {α : Type} [DecidableEq α] (d : α) (m : SMap α) (x : Nat) (v : α) : SMap α :=
  if v = d then m.del x else m.set x v

/-- Keys strictly rising, all at least `lo`, no value equal to the default. -/
def SMap.wfFrom {α : Type} [DecidableEq α] (d : α) : Nat → SMap α → Bool
  | _, [] => true
  | lo, (k, v) :: t => decide (lo ≤ k) && !decide (v = d) && SMap.wfFrom d (k + 1) t

/-- The canonical form of memory: keys rising, no byte listed that reads as 0 unlisted. -/
def Memory.wf (m : Memory) : Bool := SMap.wfFrom 0 0 m

/-- Write consecutive bytes. -/
def Memory.write (m : Memory) (a : Nat) : List Byte → Memory
  | [] => m
  | b :: bs => Memory.write (SMap.put 0 m a b) (a + 1) bs

/-- Change the value at a key that is listed. -/
def SMap.upd {α : Type} (m : SMap α) (x : Nat) (f : α → α) : SMap α :=
  match m.find x with
  | some v => m.set x (f v)
  | none => m

/-- Change one element of a list. -/
def listSet {α : Type} : List α → Nat → α → List α
  | [], _, _ => []
  | _ :: t, 0, v => v :: t
  | h :: t, n + 1, v => h :: listSet t n v

/-- Insert into a rising list without repeats. -/
def insertNat (x : Nat) : List Nat → List Nat
  | [] => [x]
  | y :: t => if x < y then x :: y :: t else if x = y then y :: t else y :: insertNat x t

/-! ### Bit fields and bytes -/

/-- Bits [lo+n-1:lo] of a bit vector, as a number. -/
abbrev fld {w : Nat} (x : BitVec w) (lo n : Nat) : Nat := bits x.toNat lo n

/-- Bytes, least significant first, as a number (R1). -/
def leNat : List Byte → Nat
  | [] => 0
  | b :: t => b.toNat + 256 * leNat t

/-- A number as n bytes, least significant first (R1). -/
def toLE : Nat → Nat → List Byte
  | 0, _ => []
  | n + 1, x => BitVec.ofNat 8 x :: toLE n (x / 256)

/-- Sign-extend the low n bits of x to 64 bits. -/
def sext (n x : Nat) : Reg :=
  let y := x % 2 ^ n
  if y < 2 ^ (n - 1) then BitVec.ofNat 64 y else BitVec.ofNat 64 (y + 2 ^ 64 - 2 ^ n)

/-- The signed value of the low n bits of x. -/
def sval (n x : Nat) : Int :=
  let y := x % 2 ^ n
  if y < 2 ^ (n - 1) then (y : Int) else (y : Int) - 2 ^ n

/-- An integer modulo 2^n. -/
def wrap (n : Nat) (x : Int) : Nat := (x % (2 ^ n : Int)).toNat

/-! ### Devices' tables -/

def State.core (s : State) (c : Nat) : Core := (s.cores.find c).getD Core.reset
def State.setCore (s : State) (c : Nat) (x : Core) : State := { s with cores := s.cores.set c x }
def State.updCore (s : State) (c : Nat) (f : Core → Core) : State := s.setCore c (f (s.core c))
def State.fn (s : State) (f : Nat) : Func := (s.funcs.find f).getD (Func.reset f)
def State.setFn (s : State) (f : Nat) (x : Func) : State := { s with funcs := s.funcs.set f x }
def State.updFn (s : State) (f : Nat) (u : Func → Func) : State := s.setFn f (u (s.fn f))
def State.die (s : State) (d : Nat) : Die := (s.dies.find d).getD (Die.reset d)
def State.updDie (s : State) (d : Nat) (u : Die → Die) : State := { s with dies := s.dies.set d (u (s.die d)) }
def State.pair (s : State) (p : Nat) : Pair := (s.pairs.find p).getD Pair.reset
def State.setPair (s : State) (p : Nat) (x : Pair) : State := { s with pairs := s.pairs.set p x }
def State.pool (s : State) (k : Nat) : Pool := (s.pools.find k).getD Pool.reset
def State.setPool (s : State) (k : Nat) (x : Pool) : State := { s with pools := s.pools.set k x }
def State.slice (s : State) (k : Nat) : Slice := (s.slices.find k).getD (Slice.reset k)
def State.setSlice (s : State) (k : Nat) (x : Slice) : State := { s with slices := s.slices.set k x }
def State.mxe (s : State) (e : Nat) : MxEntry := (s.mx.find e).getD MxEntry.reset
def State.setMx (s : State) (e : Nat) (x : MxEntry) : State := { s with mx := s.mx.set e x }
def State.modl (s : State) (k : Nat) : Module := (s.modules.find k).getD Module.free
def State.setModl (s : State) (k : Nat) (x : Module) : State := { s with modules := s.modules.set k x }
def State.lineRec (s : State) (l : Nat) : Option LineRec := s.lines.find l
def State.setLine (s : State) (l : Nat) (x : LineRec) : State := { s with lines := s.lines.set l x }
def State.updGroup (s : State) (gid : Nat) (f : Group → Group) : State := { s with groups := s.groups.upd gid f }
def State.updLaunch (s : State) (l : Nat) (f : Launch → Launch) : State := { s with launches := s.launches.upd l f }

/-- The core of a group (groups are keyed core × 32 + place). -/
def coreOf (gid : Nat) : Nat := gid / Config.groupsPerCore

/-- A core's clk count: a stretched pair's clock has skipped some (R423). -/
def State.clkOf (s : State) (core : Nat) : Nat := s.clk - (s.pair (core / 2)).lag

/-- The compute die of a logical core (R11). -/
def dieOf (core : Nat) : Nat := core / 24

/-- The place that has no core: the IO die, and what the front end, the agents and the host do there (log 99). -/
def ioPlace : Nat := 100

/-- The die of a place: a core, or 96 + d for die d. -/
def dieAt (tr : Nat) : Nat := if tr < 96 then dieOf tr else tr - 96

/-! ### The issuing fragment -/

/-- A fragment with its gang, group and launch: what an instruction of a lane or of the uniform pipe reads and
writes (R174). -/
structure Ctx where
  who : Who
  lau : Launch
  grp : Group
  gang : Gang
  frag : Frag
  deriving DecidableEq, Repr

/-- The gang's fragment of a number. -/
def Gang.frag (g : Gang) (id : Nat) : Option Frag := g.frags.find? (fun f => f.id == id)

/-- Put a fragment back under its number. -/
def Gang.setFrag (g : Gang) (f : Frag) : Gang :=
  { g with frags := g.frags.map (fun x => if x.id == f.id then f else x) }

/-- The fragment that a name stands for, if it lives. -/
def State.ctxOf (s : State) (w : Who) : Option Ctx :=
  match s.groups.find w.gid with
  | none => none
  | some grp =>
    match s.launches.find grp.launch, grp.gangs[w.gang]? with
    | some lau, some gang => (gang.frag w.frag).map (fun f => { who := w, lau := lau, grp := grp, gang := gang, frag := f })
    | _, _ => none

/-- The fragment that issues. -/
def State.ctx (s : State) : Option Ctx := s.cur.bind s.ctxOf

/-- The gang with the fragment put back. -/
def Ctx.gang' (c : Ctx) : Gang := c.gang.setFrag c.frag

/-- The group with the gang and the fragment put back. -/
def Ctx.grp' (c : Ctx) : Group := { c.grp with gangs := listSet c.grp.gangs c.who.gang c.gang' }

/-- Store a fragment, its gang and its group back. -/
def State.put (s : State) (c : Ctx) : State := { s with groups := s.groups.set c.who.gid c.grp' }

/-- A meaning that needs the issuing fragment. -/
def State.onCtx (s : State) (f : Ctx → State) : Host.Outcome State Fault Refusal :=
  match s.ctx with
  | none => .fault .noFragment
  | some c => .next (f c)

/-- The core of the fragment. -/
def Ctx.core (c : Ctx) : Nat := coreOf c.who.gid

/-- Gang width W (R164). -/
def Ctx.width (c : Ctx) : Nat := c.lau.rcd.width

/-- Accumulator rows of the fragment's group; a tap handler group has none (R201). -/
def Ctx.accRows (c : Ctx) : Nat := if c.grp.handlerOf then 0 else c.lau.rcd.accRows

/-- A helper lane lies at or beyond the gang's lane count (R175); 64 stands for a uniform access. -/
def Ctx.helper (c : Ctx) (l : Nat) : Bool := decide (c.gang.lanes ≤ l) && l != 64

/-- Lane l is set in its quad's current mask. -/
def Gang.masked (g : Gang) (l : Nat) : Bool :=
  match g.quads[l / 4]? with
  | some q => q.present && q.mask.getLsbD (l % 4)
  | none => false

/-- The lanes of the fragment's quads, in rising order. -/
def Ctx.lanes (c : Ctx) : List Nat := c.frag.quads.flatMap (fun q => [4 * q, 4 * q + 1, 4 * q + 2, 4 * q + 3])

/-- A lane predicate of a lane; p7 reads true (R245). -/
def Gang.pred (g : Gang) (p l : Nat) : Bool :=
  if p = 7 then true else (g.p[p]?.getD 0).getLsbD l

/-- Write a lane predicate; a write to p7 is discarded (R245). -/
def Gang.setPred (g : Gang) (p l : Nat) (b : Bool) : Gang :=
  if p = 7 then g
  else
    let m := g.p[p]?.getD 0
    let bit : BitVec 64 := BitVec.ofNat 64 (2 ^ l)
    { g with p := g.p.setIfInBounds p (if b then m ||| bit else m &&& ~~~bit) }

/-- active(F) under a guard (R6, R167): a guard of 7 is unguarded. -/
def Ctx.active (c : Ctx) (g : BitVec 3) : List Nat :=
  c.lanes.filter (fun l => c.gang.masked l && c.gang.pred g.toNat l)

/-- A uniform predicate; q7 reads true (R245). -/
def Gang.qpred (g : Gang) (q : Nat) : Bool := if q = 7 then true else g.q[q]?.getD false

/-- Write a uniform predicate; a write to q7 is discarded (R245). -/
def Gang.setQ (g : Gang) (q : Nat) (b : Bool) : Gang :=
  if q = 7 then g else { g with q := g.q.setIfInBounds q b }

/-- A uniform register by its field value, 96 to 127 (R245). -/
def Gang.rdG (g : Gang) (f : Nat) : Reg := g.g[f - 96]?.getD 0

/-- Write a uniform register by its field value. -/
def Gang.wrG (g : Gang) (f : Nat) (x : Reg) : Gang := { g with g := g.g.setIfInBounds (f - 96) x }

/-- A lane register. -/
def Gang.rdV (g : Gang) (r l : Nat) : Word := SMap.get 0 g.v (r * 64 + l)

/-- Write a lane register. -/
def Gang.wrV (g : Gang) (r l : Nat) (x : Word) : Gang := { g with v := SMap.put 0 g.v (r * 64 + l) x }

/-- A 32-bit source of a lane: a v register, or the low half of a g register (R261). -/
def Gang.src32 (g : Gang) (f l : Nat) : Word :=
  if f < 96 then g.rdV f l else (g.rdG f).setWidth 32

/-- A 64-bit source of a lane: a v pair, or a g register whole (R262). -/
def Gang.src64 (g : Gang) (f l : Nat) : Reg :=
  if f < 96 then BitVec.ofNat 64 ((g.rdV f l).toNat + (g.rdV (f + 1) l).toNat * 2 ^ 32) else g.rdG f

/-- Write a v pair. -/
def Gang.wrV2 (g : Gang) (r l : Nat) (x : Reg) : Gang :=
  (g.wrV r l (x.setWidth 32)).wrV (r + 1) l (BitVec.ofNat 32 (x.toNat / 2 ^ 32))

/-! ### Retiring -/

/-- Each quad of the fragment counts one instruction (R100, R206). -/
def Gang.tick (g : Gang) (qs : List Nat) : Gang :=
  { g with quads := Vector.ofFn (fun i : Fin 16 =>
      if qs.contains i.val then { g.quads[i] with dix := g.quads[i].dix + 1, lclk := g.quads[i].lclk + 1 } else g.quads[i]) }

/-- The address of the instruction that follows in sequence: after the dictionary code in hand, or `len` words on. -/
def Ctx.nextPc (c : Ctx) (len : Nat) : Reg :=
  match c.frag.code with
  | some (_, nx) => nx
  | none => c.frag.pc + BitVec.ofNat 64 (4 * len)

/-- The address of the word that holds the instruction (R346). -/
def Ctx.wordPc (c : Ctx) : Reg := BitVec.ofNat 64 (c.frag.pc.toNat / 4 * 4)

/-- Count the instruction and note its address; the dictionary code and the grant are used up. -/
def Ctx.tick (c : Ctx) : Ctx :=
  { c with
    gang := c.gang.tick c.frag.quads
    frag := { c.frag with ret := some c.frag.pc, code := none, grant := none, frozen := none, state := .eligible } }

/-- Retire and go to an address. -/
def Ctx.goto (c : Ctx) (pc : Reg) : Ctx := { c.tick with frag := { c.tick.frag with pc := pc } }

/-- Retire and go on in sequence. -/
def Ctx.retire (c : Ctx) (len : Nat) : Ctx := c.goto (c.nextPc len)

/-- What the instruction reads in uniform registers and predicates: the values it froze when it issued first, else the
gang's (R174). -/
def Ctx.src (c : Ctx) : Gang :=
  match c.frag.frozen with
  | some z => { c.gang with g := z.g, q := z.q }
  | none => c.gang

/-- Wait, to issue again later: nothing else changes. -/
def Ctx.stall (c : Ctx) (w : Wait) : Ctx := { c with frag := { c.frag with state := .stalled w, code := none } }

/-- An instruction that has issued keeps its operands while it waits (R174). -/
def Ctx.freeze (c : Ctx) : Ctx := { c with frag := { c.frag with frozen := some { g := c.src.g, q := c.src.q } } }

/-- Stall in an instruction that has issued: it goes on with the operands it read. -/
def Ctx.linger (c : Ctx) (w : Wait) : Ctx := c.freeze.stall w

/-- Sleep in a wait instruction, to go on when woken with the operands it read. -/
def Ctx.sleep (c : Ctx) (w : Wait) : Ctx :=
  { c.freeze with frag := { c.freeze.frag with state := .sleeping w, code := none } }

/-- A deterministic operation that would sleep (R207): the quad of its key goes on by 256, and it executes again. -/
def Ctx.detRetry (c : Ctx) : Ctx :=
  let q := c.frag.quads.head?.getD 0
  { c with
    gang := { c.gang with quads := Vector.ofFn (fun i : Fin 16 =>
      if i.val = q then { c.gang.quads[i] with dix := c.gang.quads[i].dix + 256, lclk := c.gang.quads[i].lclk + 256 }
      else c.gang.quads[i]) }
    frag := { c.frag with state := .eligible, code := none, grant := none, frozen := none } }

/-- OR flags into %fsticky (R94). -/
def Ctx.flags (c : Ctx) (f : BitVec 4) : Ctx := { c with gang := { c.gang with fsticky := c.gang.fsticky ||| f } }

/-! ### Faults (R215 to R223) -/

/-- The reason code (R215). -/
def Reason.code : Reason → Nat
  | .notPresent => 0x01 | .permission => 0x02 | .badEntry => 0x03 | .nonCanonical => 0x04 | .paUnbacked => 0x05
  | .mxAliasAtomic => 0x06
  | .cow => 0x08 | .poolEmpty => 0x09 | .listFull => 0x0A | .badList => 0x0B | .refcountOverflow => 0x0C
  | .refcountUnderflow => 0x0D
  | .codeAbsent => 0x10 | .moduleRevoked => 0x11 | .noCode => 0x12 | .badOverlay => 0x13 | .storeFull => 0x14
  | .pinLimit => 0x15 | .pinOverflow => 0x16 | .pinUnderflow => 0x17
  | .illegalInstruction => 0x18 | .misaligned => 0x19 | .maskStackOverflow => 0x1A | .regangMismatch => 0x1B
  | .badStashMap => 0x20 | .badWalk => 0x21 | .permitOverflow => 0x22 | .badMcast => 0x23 | .badTcbind => 0x24
  | .badSreg => 0x25 | .badFormatSlot => 0x26 | .badDupMap => 0x27 | .matrixConfig => 0x28
  | .sparseMetadata => 0x29 | .tapConfig => 0x2A | .pennantLimit => 0x2B | .badPennant => 0x2C | .nanOperand => 0x2D
  | .gqState => 0x30 | .gqNan => 0x31 | .gqRange => 0x32 | .gqPool => 0x33
  | .barrierOverflow => 0x38 | .badSlot => 0x39 | .badRule => 0x3A | .nanFeature => 0x3B | .rewriteLimit => 0x3C
  | .unhandled => 0x3D | .badAdapter => 0x3E | .mcastDrop => 0x3F
  | .trap => 0x40 | .debug => 0x41 | .uncorrectable => 0x42 | .detStall => 0x43 | .badDict => 0x44 | .badImage => 0x45

/-- What a fault shows besides its reason. -/
structure Detail where
  addr : Reg := 0
  lanes : BitVec 64 := 0
  d0 : Reg := 0
  d1 : Reg := 0
  d2 : Reg := 0

/-- TAKING A FAULT (R216, R220): the fragment goes FAULTED at the instruction; nothing else changes. The agent's or
the handler's part follows in FAULT_DELIVERY or DELEGATED_FAULT (log 23). -/
def Ctx.fault (c : Ctx) (now : Nat) (r : Reason) (d : Detail := {}) : Ctx :=
  { c with frag := { c.frag with
      state := .faulted { reason := r, addr := d.addr, lanes := d.lanes, pc := c.frag.pc, tick := now,
                          d0 := d.d0, d1 := d.d1, d2 := d.d2 } none
      code := none, grant := none, frozen := none } }

/-- A fault goes to the handler overlay (R215, R223): COW or POOL_EMPTY, a COW_ENTRY, not in handler mode. -/
def Ctx.delegable (c : Ctx) (r : Reason) : Bool :=
  (r == .cow || r == .poolEmpty) && c.lau.rcd.cowEntry != 0 && !c.frag.handler

/-- RETURN FROM A FAULT (R161, R220): the fragment issues again from its checkpoint. -/
def Frag.resume (f : Frag) (checkpoint : Reg) : Frag :=
  { f with state := .eligible, pc := checkpoint, code := none, grant := none, frozen := none }

/-- A mask of lanes. -/
def laneMask (ls : List Nat) : BitVec 64 := ls.foldl (fun m l => m ||| BitVec.ofNat 64 (2 ^ l)) 0

/-- An instruction's outcome in its fragment: it retires with a new context, or it faults. -/
inductive Res where
  | ok (c : Ctx)
  | bad (r : Reason) (d : Detail)

/-- Run a lane-set instruction of `len` words: its effect on the fragment, then it retires; or the fault. -/
def State.run (s : State) (len : Nat) (f : Ctx → Res) : Host.Outcome State Fault Refusal :=
  s.onCtx (fun c =>
    match f c with
    | .ok c' => s.put (c'.retire len)
    | .bad r d => s.put (c.fault s.now r d))

/-- Run a uniform-set instruction: a false guard only retires (R342). -/
def State.runU (s : State) (g : BitVec 3) (len : Nat) (f : Ctx → Res) : Host.Outcome State Fault Refusal :=
  s.run len (fun c => if c.gang.qpred g.toNat then f c else .ok c)

/-- Write a value to one register in each lane, all sources read before (R5). -/
def Ctx.each (c : Ctx) (ls : List Nat) (d : Nat) (f : Nat → Word) : Ctx :=
  { c with gang := (ls.map (fun l => (l, f l))).foldl (fun g x => g.wrV d x.1 x.2) c.gang }

/-- Write a 64-bit value to a pair in each lane. -/
def Ctx.each2 (c : Ctx) (ls : List Nat) (d : Nat) (f : Nat → Reg) : Ctx :=
  { c with gang := (ls.map (fun l => (l, f l))).foldl (fun g x => g.wrV2 d x.1 x.2) c.gang }

/-- Write a predicate in each lane. -/
def Ctx.eachP (c : Ctx) (ls : List Nat) (d : Nat) (f : Nat → Bool) : Ctx :=
  { c with gang := (ls.map (fun l => (l, f l))).foldl (fun g x => g.setPred d x.1 x.2) c.gang }

/-- The flags of the lanes that are no helper lanes (R175, R261). -/
def Ctx.eachFlags (c : Ctx) (ls : List Nat) (f : Nat → BitVec 4) : BitVec 4 :=
  ls.foldl (fun a l => if c.helper l then a else a ||| f l) 0

end Sys2Proof.Machine
end

