-- ==== Sys2Proof/Machine/Hash.lean ====
section
/-!
DEFINITION. SHAKE256 (FIPS 202) and the verification of XMSS signatures (RFC 8391, parameter set XMSS-SHAKE256_20_256
of NIST SP 800-208), as R403 names them.
-/

namespace Sys2Proof.Machine

/-! ### SHAKE256 -/

/-- The 24 round constants of Keccak-f[1600]. -/
def keccakRc : List Nat :=
  [0x0000000000000001, 0x0000000000008082, 0x800000000000808A, 0x8000000080008000, 0x000000000000808B, 0x0000000080000001,
   0x8000000080008081, 0x8000000000008009, 0x000000000000008A, 0x0000000000000088, 0x0000000080008009, 0x000000008000000A] ++
  [0x000000008000808B, 0x800000000000008B, 0x8000000000008089, 0x8000000000008003, 0x8000000000008002, 0x8000000000000080,
   0x000000000000800A, 0x800000008000000A, 0x8000000080008081, 0x8000000000008080, 0x0000000080000001, 0x8000000080008008]

/-- The lanes in the order that rho and pi move them, each with its rotation. -/
def keccakMoves : List (Nat × Nat) :=
  [(10, 1), (7, 3), (11, 6), (17, 10), (18, 15), (3, 21), (5, 28), (16, 36), (8, 45), (21, 55), (24, 2), (4, 14)] ++
  [(15, 27), (23, 41), (19, 56), (13, 8), (12, 25), (2, 43), (20, 62), (14, 18), (22, 39), (9, 61), (6, 20), (1, 44)]

/-- A lane of the 25. -/
def lane64 (st : List Reg) (i : Nat) : Reg := st[i]?.getD 0

/-- One round. -/
def keccakRound (st : List Reg) (rc : Nat) : List Reg :=
  let bc := (List.range 5).map (fun i => lane64 st i ^^^ lane64 st (i + 5) ^^^ lane64 st (i + 10) ^^^ lane64 st (i + 15) ^^^ lane64 st (i + 20))
  let th := (List.range 25).map (fun j =>
    lane64 st j ^^^ lane64 bc ((j + 4) % 5) ^^^ (lane64 bc ((j + 1) % 5)).rotateLeft 1)
  let rp := (keccakMoves.foldl (fun (a : List Reg × Reg) m => (listSet a.1 m.1 (a.2.rotateLeft m.2), lane64 a.1 m.1)) (th, lane64 th 1)).1
  let ch := (List.range 25).map (fun j =>
    let r := j / 5 * 5
    lane64 rp j ^^^ (~~~(lane64 rp (r + (j + 1) % 5)) &&& lane64 rp (r + (j + 2) % 5)))
  listSet ch 0 (lane64 ch 0 ^^^ BitVec.ofNat 64 rc)

def keccakF (st : List Reg) : List Reg := keccakRc.foldl keccakRound st

/-- Absorb blocks of 136 bytes. -/
def absorb : Nat → List Reg → List Byte → List Reg
  | 0, st, _ => st
  | n + 1, st, m =>
    if m.isEmpty then st
    else
      let b := m.take 136
      let x := (List.range 25).map (fun i => lane64 st i ^^^ BitVec.ofNat 64 (leNat ((b.drop (8 * i)).take 8)))
      absorb n (keccakF x) (m.drop 136)

/-- The padding of SHAKE256 for a message of n bytes. -/
def shakePad (n : Nat) : List Byte :=
  let k := 136 - n % 136
  if k = 1 then [0x9F] else 0x1F :: (List.replicate (k - 2) 0 ++ [0x80])

/-- SHAKE256 with 256 bits of output (log 97). -/
def shake256 (m : List Byte) : List Byte :=
  let p := m ++ shakePad m.length
  ((absorb (p.length / 136) (List.replicate 25 0) p).take 4).flatMap (fun r => toLE 8 r.toNat)

/-! ### XMSS (RFC 8391) -/

/-- n bytes, most significant first. -/
def toBE (n x : Nat) : List Byte := (toLE n x).reverse
def beNat (bs : List Byte) : Nat := leNat bs.reverse

/-- F, H, H_msg and PRF of SP 800-208: the kind k stands first as 32 bytes. -/
def xmssHash (k : Nat) (key m : List Byte) : List Byte := shake256 (toBE 32 k ++ key ++ m)

/-- A hash address: words 3 to 7 of ADRS; layer and tree are 0 in a single tree. -/
def adrs (type w4 w5 w6 mask : Nat) : List Byte := (List.replicate 12 0) ++ [type, w4, w5, w6, mask].flatMap (toBE 4)

def xorBytes (a b : List Byte) : List Byte := List.zipWith (fun x y => x ^^^ y) a b

/-- chain: n steps of the WOTS+ function from step i. -/
def wotsChain (seed : List Byte) (leaf c : Nat) : Nat → Nat → List Byte → List Byte
  | 0, _, x => x
  | n + 1, i, x =>
    let key := xmssHash 3 seed (adrs 0 leaf c i 0)
    let bm := xmssHash 3 seed (adrs 0 leaf c i 1)
    wotsChain seed leaf c n (i + 1) (xmssHash 0 key (xorBytes x bm))

/-- RAND_HASH of two nodes; `ad` gives the address for each mask. -/
def randHash (seed : List Byte) (ad : Nat → List Byte) (l r : List Byte) : List Byte :=
  let key := xmssHash 3 seed (ad 0)
  xmssHash 1 key (xorBytes l (xmssHash 3 seed (ad 1)) ++ xorBytes r (xmssHash 3 seed (ad 2)))

/-- Base-16 digits of bytes, high half first. -/
def digits16 (bs : List Byte) : List Nat := bs.flatMap (fun b => [b.toNat / 16, b.toNat % 16])

/-- The 67 digits of a 32-byte digest with its checksum. -/
def wotsDigits (m : List Byte) : List Nat :=
  let d := digits16 m
  d ++ (digits16 (toBE 2 (d.foldl (fun n x => n + (15 - x)) 0 * 16))).take 3

/-- Split into lists of n bytes. -/
def splitBytes (n : Nat) : Nat → List Byte → List (List Byte)
  | 0, _ => []
  | k + 1, l => l.take n :: splitBytes n k (l.drop n)

/-- One level of an L-tree. -/
def ltreeLevel (seed : List Byte) (leaf h : Nat) : Nat → List (List Byte) → List (List Byte)
  | i, a :: b :: t => randHash seed (adrs 1 leaf h i) a b :: ltreeLevel seed leaf h (i + 1) t
  | _, l => l

/-- An L-tree's root. -/
def ltree (seed : List Byte) (leaf : Nat) : Nat → Nat → List (List Byte) → List Byte
  | 0, _, l => l.head?.getD []
  | n + 1, h, l => if l.length ≤ 1 then l.head?.getD [] else ltree seed leaf n (h + 1) (ltreeLevel seed leaf h 0 l)

/-- The root from a leaf and its authentication path. -/
def authRoot (seed : List Byte) : Nat → Nat → List Byte → List (List Byte) → List Byte
  | _, _, x, [] => x
  | h, idx, x, a :: t =>
    let ad := adrs 2 0 h (idx / 2)
    authRoot seed (h + 1) (idx / 2) (if idx % 2 = 0 then randHash seed ad x a else randHash seed ad a x) t

/-- The size of a signature and of a public key, and the OID (R403). -/
def xmssSigLen : Nat := 2820
def xmssKeyLen : Nat := 68
def xmssOid : Nat := 0x12

/-- XMSS_verify. -/
def xmssVerify (pk msg sig : List Byte) : Bool :=
  let root := (pk.drop 4).take 32
  let seed := (pk.drop 36).take 32
  let idx := beNat (sig.take 4)
  let r := (sig.drop 4).take 32
  let m := xmssHash 2 (r ++ root ++ toBE 32 idx) msg
  let ots := splitBytes 32 67 (sig.drop 36)
  let auth := splitBytes 32 20 (sig.drop (36 + 67 * 32))
  let keys := (((wotsDigits m).zip ots).zipIdx).map (fun x => wotsChain seed idx x.2 (15 - x.1.1) x.1.1 x.1.2)
  pk.length == xmssKeyLen && sig.length == xmssSigLen && beNat (pk.take 4) == xmssOid && decide (idx < 2 ^ 20) &&
  authRoot seed 0 idx (ltree seed idx 7 0 keys) auth == root

end Sys2Proof.Machine
end

