-- ==== Sys2Proof/Decode.lean ====
section
/-!
DEFINITION. The decoder, total on any bytes, and after it the encoder (R242 to R252, R254 to R260).
`noncomputable` stands before the definitions that build a value of Instr: Lean's compiled code has no tag for a
constructor numbered above 244. The kernel evaluates them all.
-/

namespace Sys2Proof

/-- Why a word is no instruction (R260). -/
inductive Reject where
  | opcode   -- an unassigned opcode of its set
  | sub      -- an unassigned SUB, SUBF or B value
  | field    -- a field outside its class, a reserved code or an unused field that is not 0
  | short    -- fewer bytes than the instruction's length
  deriving DecidableEq, Repr

/-- The formats (R243, R244, R247, R249 to R251). -/
inductive Fmt where
  | lr | li | ui | ub | ul | lx | lxi | lm | pair
  deriving DecidableEq, Repr

/-- The length of a format in words (R242). -/
def Fmt.words : Fmt → Nat
  | .lr | .li | .ui | .ub | .pair => 1
  | .lx | .lxi | .lm => 2
  | .ul => 3

/-- The format of an opcode: the key is set × 128 + opcode (R254, R255). `none` for an unassigned value. -/
def fmtOf (key : Nat) : Option Fmt :=
  if 0 ≤ key ∧ key ≤ 63 then some .lr else
  if 64 ≤ key ∧ key ≤ 65 then some .lx else
  if 66 ≤ key ∧ key ≤ 78 then some .lr else
  if 80 ≤ key ∧ key ≤ 84 then some .lx else
  if 85 ≤ key ∧ key ≤ 86 then some .lr else
  if 87 ≤ key ∧ key ≤ 88 then some .lx else
  if 89 ≤ key ∧ key ≤ 89 then some .lr else
  if 90 ≤ key ∧ key ≤ 90 then some .li else
  if 91 ≤ key ∧ key ≤ 92 then some .lr else
  if 96 ≤ key ∧ key ≤ 109 then some .lm else
  if 112 ≤ key ∧ key ≤ 112 then some .lx else
  if 113 ≤ key ∧ key ≤ 113 then some .lxi else
  if 114 ≤ key ∧ key ≤ 126 then some .lx else
  if 128 ≤ key ∧ key ≤ 152 then some .lr else
  if 153 ≤ key ∧ key ≤ 155 then some .ui else
  if 156 ≤ key ∧ key ≤ 157 then some .lr else
  if 160 ≤ key ∧ key ≤ 171 then some .lm else
  if 172 ≤ key ∧ key ≤ 175 then some .lr else
  if 176 ≤ key ∧ key ≤ 177 then some .ub else
  if 178 ≤ key ∧ key ≤ 178 then some .ul else
  if 179 ≤ key ∧ key ≤ 179 then some .ub else
  if 180 ≤ key ∧ key ≤ 180 then some .ul else
  if 181 ≤ key ∧ key ≤ 186 then some .lr else
  if 187 ≤ key ∧ key ≤ 187 then some .lx else
  if 188 ≤ key ∧ key ≤ 191 then some .lr else
  if 192 ≤ key ∧ key ≤ 192 then some .lx else
  if 193 ≤ key ∧ key ≤ 193 then some .lr else
  if 194 ≤ key ∧ key ≤ 198 then some .lx else
  if 208 ≤ key ∧ key ≤ 212 then some .lx else
  if 213 ≤ key ∧ key ≤ 213 then some .ui else
  if 214 ≤ key ∧ key ≤ 220 then some .lr else
  if 224 ≤ key ∧ key ≤ 225 then some .lx else
  if 226 ≤ key ∧ key ≤ 227 then some .lr else
  if 228 ≤ key ∧ key ≤ 228 then some .lx else
  if 232 ≤ key ∧ key ≤ 239 then some .lx else
  if 240 ≤ key ∧ key ≤ 241 then some .lr else
  if 242 ≤ key ∧ key ≤ 242 then some .ui else
  if 243 ≤ key ∧ key ≤ 249 then some .lr else
  if 252 ≤ key ∧ key ≤ 255 then some .pair else none

/-- The first word's fields in the L-R and U-R layout (R243). -/
def lrFields (w : Word) : LR :=
  { g := BitVec.ofNat 3 (w.toNat / 2 ^ 21), d := BitVec.ofNat 7 (w.toNat / 2 ^ 14),
    a := BitVec.ofNat 7 (w.toNat / 2 ^ 7), b := BitVec.ofNat 7 w.toNat }

/-- L-I (R244). -/
def liFields (w : Word) : LI :=
  { d := BitVec.ofNat 7 (w.toNat / 2 ^ 17), a := BitVec.ofNat 7 (w.toNat / 2 ^ 10), imm := BitVec.ofNat 10 w.toNat }

/-- U-I (R244). -/
def uiFields (w : Word) : UI :=
  { d := BitVec.ofNat 7 (w.toNat / 2 ^ 17), imm := BitVec.ofNat 17 w.toNat }

/-- U-B (R250). -/
def ubFields (w : Word) : UB :=
  { g := BitVec.ofNat 3 (w.toNat / 2 ^ 21), disp := BitVec.ofNat 21 w.toNat }

/-- U-L (R251): the first extension word holds the low half of D64. -/
def ulFields (w x y : Word) : UL :=
  { g := BitVec.ofNat 3 (w.toNat / 2 ^ 21), rsvd := BitVec.ofNat 21 w.toNat,
    d64 := BitVec.ofNat 64 (y.toNat * 2 ^ 32 + x.toNat) }

/-- XA (R247). -/
def xaFields (w : Word) : XA :=
  { c := BitVec.ofNat 7 (w.toNat / 2 ^ 25), slot := BitVec.ofNat 3 (w.toNat / 2 ^ 22),
    rnd := BitVec.ofNat 2 (w.toNat / 2 ^ 20), sat := BitVec.ofNat 1 (w.toNat / 2 ^ 19),
    sub := BitVec.ofNat 7 (w.toNat / 2 ^ 12), ty := BitVec.ofNat 4 (w.toNat / 2 ^ 8),
    imm := BitVec.ofNat 8 w.toNat }

/-- XM (R249). -/
def xmFields (w : Word) : XM :=
  { c := BitVec.ofNat 7 (w.toNat / 2 ^ 25), subf := BitVec.ofNat 4 (w.toNat / 2 ^ 21),
    ord := BitVec.ofNat 2 (w.toNat / 2 ^ 19), ty := BitVec.ofNat 4 (w.toNat / 2 ^ 15),
    mode := BitVec.ofNat 2 (w.toNat / 2 ^ 13), addr := BitVec.ofNat 13 w.toNat }

/-- A dictionary pair's fields (R195). -/
def pairFields (w : Word) : Pair :=
  { hi := BitVec.ofNat 10 (w.toNat / 2 ^ 16), lo := BitVec.ofNat 16 w.toNat }

/-- The instruction of an opcode key with LR fields (R254 to R259). -/
noncomputable def lrInstr (key : Nat) (o : LR) : Option Instr :=
  match key with
  | 0 => some (.iadd o)
  | 1 => some (.isub o)
  | 2 => some (.iaddSatI32 o)
  | 3 => some (.iaddSatN32 o)
  | 4 => some (.isubSatI32 o)
  | 5 => some (.isubSatN32 o)
  | 6 => some (.imul o)
  | 7 => some (.imulhI32 o)
  | 8 => some (.imulhN32 o)
  | 9 => some (.imac o)
  | 10 => some (.iminI32 o)
  | 11 => some (.iminN32 o)
  | 12 => some (.imaxI32 o)
  | 13 => some (.imaxN32 o)
  | 14 => some (.iabs o)
  | 15 => some (.ineg o)
  | 16 => some (.and o)
  | 17 => some (.or o)
  | 18 => some (.xor o)
  | 19 => some (.not o)
  | 20 => some (.shl o)
  | 21 => some (.shr o)
  | 22 => some (.sar o)
  | 23 => some (.rot o)
  | 24 => some (.bfeN32 o)
  | 25 => some (.bfeI32 o)
  | 26 => some (.bfi o)
  | 27 => some (.brev o)
  | 28 => some (.clz o)
  | 29 => some (.ffs o)
  | 30 => some (.popc o)
  | 31 => some (.icmp o)
  | 32 => some (.fadd o)
  | 33 => some (.fsub o)
  | 34 => some (.fmul o)
  | 35 => some (.fmac o)
  | 36 => some (.fmin o)
  | 37 => some (.fmax o)
  | 38 => some (.frcp o)
  | 39 => some (.frsq o)
  | 40 => some (.fsqrt o)
  | 41 => some (.fexp2 o)
  | 42 => some (.flog2 o)
  | 43 => some (.fcmp o)
  | 44 => some (.fabs o)
  | 45 => some (.fneg o)
  | 46 => some (.fminNum o)
  | 47 => some (.fmaxNum o)
  | 48 => some (.faddBf16 o)
  | 49 => some (.fsubBf16 o)
  | 50 => some (.fmulBf16 o)
  | 51 => some (.fmacBf16 o)
  | 52 => some (.fminBf16 o)
  | 53 => some (.fmaxBf16 o)
  | 54 => some (.fabsBf16 o)
  | 55 => some (.fnegBf16 o)
  | 56 => some (.faddF16 o)
  | 57 => some (.fsubF16 o)
  | 58 => some (.fmulF16 o)
  | 59 => some (.fmacF16 o)
  | 60 => some (.fminF16 o)
  | 61 => some (.fmaxF16 o)
  | 62 => some (.fabsF16 o)
  | 63 => some (.fnegF16 o)
  | 66 => some (.vcomp o)
  | 67 => some (.spc48 o)
  | 68 => some (.bpick o)
  | 69 => some (.frnd o)
  | 70 => some (.packBf16 o)
  | 71 => some (.packF16 o)
  | 72 => some (.unpackBf16 o)
  | 73 => some (.unpackF16 o)
  | 74 => some (.i2fI32 o)
  | 75 => some (.i2fN32 o)
  | 76 => some (.f2iI32 o)
  | 77 => some (.f2iN32 o)
  | 78 => some (.vexpand o)
  | 85 => some (.ballot o)
  | 86 => some (.eqmask o)
  | 89 => some (.mov o)
  | 91 => some (.pget o)
  | 92 => some (.pset o)
  | 128 => some (.uadd o)
  | 129 => some (.usub o)
  | 130 => some (.umul o)
  | 131 => some (.umulhI64 o)
  | 132 => some (.umulhN64 o)
  | 133 => some (.umac o)
  | 134 => some (.uminI64 o)
  | 135 => some (.uminN64 o)
  | 136 => some (.umaxI64 o)
  | 137 => some (.umaxN64 o)
  | 138 => some (.uand o)
  | 139 => some (.uor o)
  | 140 => some (.uxor o)
  | 141 => some (.unot o)
  | 142 => some (.ushl o)
  | 143 => some (.ushr o)
  | 144 => some (.usar o)
  | 145 => some (.uext o)
  | 146 => some (.uclz o)
  | 147 => some (.uffs o)
  | 148 => some (.upopc o)
  | 149 => some (.ucmp o)
  | 150 => some (.usel o)
  | 151 => some (.uplop o)
  | 152 => some (.umov o)
  | 156 => some (.udivN64 o)
  | 157 => some (.uremN64 o)
  | 172 => some (.fenceW o)
  | 173 => some (.fenceL o)
  | 174 => some (.fenceS o)
  | 175 => some (.cinv o)
  | 181 => some (.callo o)
  | 182 => some (.bri o)
  | 183 => some (.calli o)
  | 184 => some (.ret o)
  | 185 => some (.regang o)
  | 186 => some (.exit o)
  | 188 => some (.hwait o)
  | 189 => some (.evict o)
  | 190 => some (.pin o)
  | 191 => some (.unpin o)
  | 193 => some (.hget o)
  | 214 => some (.cbatch o)
  | 215 => some (.cwait o)
  | 216 => some (.barInit o)
  | 217 => some (.barArrive o)
  | 218 => some (.barWait o)
  | 219 => some (.twait o)
  | 220 => some (.tread o)
  | 226 => some (.tapNext o)
  | 227 => some (.tapRead o)
  | 240 => some (.sread o)
  | 241 => some (.swrite o)
  | 243 => some (.tret o)
  | 244 => some (.elect o)
  | 245 => some (.lsel o)
  | 246 => some (.lwr o)
  | 247 => some (.launchTrig o)
  | 248 => some (.gridwait o)
  | 249 =>
    match o.b.toNat with
    | 0 => some (.nop o)
    | 1 => some (.sleep o)
    | 2 => some (.gqRead o)
    | 3 => some (.gqResid o)
    | 4 => some (.yield o)
    | 5 => some (.bkpt o)
    | 6 => some (.mark o)
    | 7 => some (.time o)
    | _ => none
  | _ => none

/-- The instruction of an opcode key with LI fields (R254 to R259). -/
def liInstr (key : Nat) (o : LI) : Option Instr :=
  match key with
  | 90 => some (.movi o)
  | _ => none

/-- The instruction of an opcode key with UI fields (R254 to R259). -/
noncomputable def uiInstr (key : Nat) (o : UI) : Option Instr :=
  match key with
  | 153 => some (.umovi o)
  | 154 => some (.uaddi o)
  | 155 => some (.ucat o)
  | 213 => some (.twPermit o)
  | 242 => some (.trap o)
  | _ => none

/-- The instruction of an opcode key with UB fields (R254 to R259). -/
def ubInstr (key : Nat) (o : UB) : Option Instr :=
  match key with
  | 176 => some (.br o)
  | 177 => some (.bra o)
  | 179 => some (.call o)
  | _ => none

/-- The instruction of an opcode key with UL fields (R254 to R259). -/
def ulInstr (key : Nat) (o : UL) : Option Instr :=
  match key with
  | 178 => some (.brl o)
  | 180 => some (.calll o)
  | _ => none

/-- The instruction of an opcode key with LX fields (R254 to R259). -/
noncomputable def lxInstr (key : Nat) (o : LX) : Option Instr :=
  match key with
  | 64 =>
    match o.x.sub.toNat with
    | 0 => some (.cvtF32Fs o)
    | 1 => some (.cvtFsF32 o)
    | 2 => some (.cvtBf16Fs o)
    | 3 => some (.cvtFsBf16 o)
    | 4 => some (.cvtF16Fs o)
    | 5 => some (.cvtFsF16 o)
    | 6 => some (.cvtI32Fs o)
    | 7 => some (.cvtFsI32 o)
    | 8 => some (.cvtF32Bf16 o)
    | 9 => some (.cvtBf16F32 o)
    | 10 => some (.cvtF32F16 o)
    | 11 => some (.cvtF16F32 o)
    | 12 => some (.cvtF32I32 o)
    | 13 => some (.cvtI32F32 o)
    | 14 => some (.cvtF32N32 o)
    | 15 => some (.cvtN32F32 o)
    | _ => none
  | 65 => some (.qsplit o)
  | 80 =>
    match o.x.sub.toNat with
    | 0 => some (.qxchH o)
    | 1 => some (.qxchV o)
    | 2 => some (.qxchD o)
    | 3 => some (.qxchBc o)
    | _ => none
  | 81 =>
    match o.x.sub.toNat with
    | 0 => some (.shflAt o)
    | 1 => some (.shflRot o)
    | 2 => some (.shflSpan o)
    | 3 => some (.shflFlip o)
    | _ => none
  | 82 =>
    match o.x.sub.toNat with
    | 0 => some (.vreduceAdd o)
    | 1 => some (.vreduceMin o)
    | 2 => some (.vreduceMax o)
    | 3 => some (.vreduceAnd o)
    | 4 => some (.vreduceOr o)
    | 5 => some (.vreduceXor o)
    | 6 => some (.vreduceFadd o)
    | 7 => some (.vreduceFmin o)
    | 8 => some (.vreduceFmax o)
    | _ => none
  | 83 =>
    match o.x.sub.toNat with
    | 0 => some (.vscanAdd o)
    | 1 => some (.vscanMin o)
    | 2 => some (.vscanMax o)
    | 3 => some (.vscanAnd o)
    | 4 => some (.vscanOr o)
    | 5 => some (.vscanXor o)
    | 6 => some (.vscanFadd o)
    | 7 => some (.vscanFmin o)
    | 8 => some (.vscanFmax o)
    | _ => none
  | 84 =>
    match o.x.sub.toNat with
    | 0 => some (.voteSome o)
    | 1 => some (.voteEvery o)
    | 2 => some (.voteSame o)
    | _ => none
  | 87 => some (.sel o)
  | 88 => some (.plop o)
  | 112 => some (.wide o)
  | 114 => some (.ffma o)
  | 115 => some (.imad o)
  | 116 => some (.isum3 o)
  | 117 => some (.bitfn o)
  | 118 => some (.winxN32 o)
  | 119 => some (.winxI32 o)
  | 120 => some (.idot4 o)
  | 121 => some (.fdot2 o)
  | 122 => some (.iclamp o)
  | 123 => some (.fclamp o)
  | 124 => some (.sad o)
  | 125 => some (.fscale o)
  | 126 => some (.imadw o)
  | 187 => some (.hoist o)
  | 192 => some (.hset o)
  | 194 => some (.mmLoadb o)
  | 195 => some (.mmPass o)
  | 196 => some (.mmSpass o)
  | 197 => some (.mmStore o)
  | 198 => some (.mmZero o)
  | 208 => some (.twLoad o)
  | 209 => some (.twStore o)
  | 210 => some (.twMcast o)
  | 211 => some (.twGather o)
  | 212 => some (.twRed o)
  | 224 => some (.tapEnc o)
  | 225 => some (.tapAdapt o)
  | 228 =>
    match o.x.sub.toNat with
    | 0 => some (.tapResumeApply o)
    | 1 => some (.tapResumeSkip o)
    | 2 => some (.tapResumeRewritten o)
    | _ => none
  | 232 => some (.gqIns o)
  | 233 => some (.gqPop o)
  | 234 => some (.gqAdd o)
  | 235 => some (.gqMax o)
  | 236 => some (.gqDone o)
  | 237 => some (.kvFork o)
  | 238 => some (.kvApp o)
  | 239 =>
    match o.x.sub.toNat with
    | 0 => some (.kvDrop o)
    | 1 => some (.kvDropFrame o)
    | _ => none
  | _ => none

/-- The instruction of an opcode key with LXI fields (R254 to R259). -/
def lxiInstr (key : Nat) (o : LXI) : Option Instr :=
  match key with
  | 113 => some (.movw o)
  | _ => none

/-- The instruction of an opcode key with LM fields (R254 to R259). -/
def lmInstr (key : Nat) (o : LM) : Option Instr :=
  match key with
  | 96 => some (.ldN8Lane o)
  | 97 => some (.ldI8Lane o)
  | 98 => some (.ldN16Lane o)
  | 99 => some (.ldI16Lane o)
  | 100 => some (.ldN32Lane o)
  | 101 => some (.ldN64Lane o)
  | 102 => some (.ldN128Lane o)
  | 103 => some (.stN8Lane o)
  | 104 => some (.stN16Lane o)
  | 105 => some (.stN32Lane o)
  | 106 => some (.stN64Lane o)
  | 107 => some (.stN128Lane o)
  | 108 =>
    match o.x.subf.toNat with
    | 0 => some (.atomAddLane o)
    | 1 => some (.atomFaddLane o)
    | 2 => some (.atomMinLane o)
    | 3 => some (.atomMaxLane o)
    | 4 => some (.atomAndLane o)
    | 5 => some (.atomOrLane o)
    | 6 => some (.atomXorLane o)
    | 7 => some (.atomXchgLane o)
    | 8 => some (.atomCasLane o)
    | _ => none
  | 109 => some (.pref o)
  | 160 => some (.ldN8Uniform o)
  | 161 => some (.ldN16Uniform o)
  | 162 => some (.ldN32Uniform o)
  | 163 => some (.ldI32Uniform o)
  | 164 => some (.ldN64Uniform o)
  | 165 => some (.stN8Uniform o)
  | 166 => some (.stN16Uniform o)
  | 167 => some (.stN32Uniform o)
  | 168 => some (.stN64Uniform o)
  | 169 => some (.ldc o)
  | 170 =>
    match o.x.subf.toNat with
    | 0 => some (.atomAddUniform o)
    | 1 => some (.atomFaddUniform o)
    | 2 => some (.atomMinUniform o)
    | 3 => some (.atomMaxUniform o)
    | 4 => some (.atomAndUniform o)
    | 5 => some (.atomOrUniform o)
    | 6 => some (.atomXorUniform o)
    | 7 => some (.atomXchgUniform o)
    | 8 => some (.atomCasUniform o)
    | _ => none
  | 171 => some (.waitcmp o)
  | _ => none

/-- The instruction that three words in a row begin with, before its fields are checked, and its length. -/
noncomputable def rawInstr (w x y : Word) : Except Reject (Instr × Nat) :=
  let key := w.toNat / 2 ^ 24
  match fmtOf key with
  | none => .error .opcode
  | some f =>
    let i := match f with
      | .lr => lrInstr key (lrFields w)
      | .li => liInstr key (liFields w)
      | .ui => uiInstr key (uiFields w)
      | .ub => ubInstr key (ubFields w)
      | .ul => ulInstr key (ulFields w x y)
      | .lx => lxInstr key { w := lrFields w, x := xaFields x }
      | .lxi => lxiInstr key { w := lrFields w, xi := x }
      | .lm => lmInstr key { w := lrFields w, x := xmFields x }
      | .pair => some (.dictionaryPair (pairFields w))
    match i with
    | none => .error .sub
    | some i => .ok (i, f.words)

/-- Decode three words in a row: the instruction and its length in words, or why there is none (R252, R260). -/
noncomputable def decodeWords (w x y : Word) : Except Reject (Instr × Nat) :=
  match rawInstr w x y with
  | .error e => .error e
  | .ok (i, n) => if i.wf then .ok (i, n) else .error .field

/-- The length in words of the instruction a word begins, 1 where it begins none (R242, R252). -/
def wordLen (w : Word) : Nat :=
  match fmtOf (w.toNat / 2 ^ 24) with
  | none => 1
  | some f => f.words

/-- A little-endian word from the head of a byte list, missing bytes read as 0 (R1, R242). -/
def leWord : List Byte → Word
  | a :: b :: c :: d :: _ =>
    BitVec.ofNat 32 (a.toNat + b.toNat * 2 ^ 8 + c.toNat * 2 ^ 16 + d.toNat * 2 ^ 24)
  | _ => 0

/-- Decode bytes: the instruction and the bytes after it, or why there is none. -/
noncomputable def decode (bs : List Byte) : Except Reject (Instr × List Byte) :=
  match decodeWords (leWord bs) (leWord (bs.drop 4)) (leWord (bs.drop 8)) with
  | .error e => .error e
  | .ok (i, n) => if bs.length < 4 * n then .error .short else .ok (i, bs.drop (4 * n))

/-- The first n little-endian bytes of a number. -/
def leBytes : Nat → Nat → List Byte
  | 0, _ => []
  | n + 1, x => BitVec.ofNat 8 x :: leBytes n (x / 256)

/-- What the decoder reads from an instruction whose table bits are w (opcode_table.json's numbering): the bits
above nbits are 0, up to the longest instruction, three words. -/
noncomputable def decodeTableWord (nbits w : Nat) : Option Instr :=
  match decode (leBytes 12 (w % 2 ^ nbits)) with
  | .ok (i, _) => some i
  | .error _ => none

/-- The word of the L-R and U-R layout (R243). -/
def encLR (key : Nat) (o : LR) : Word :=
  BitVec.ofNat 32 (key * 2 ^ 24 + o.g.toNat * 2 ^ 21 + o.d.toNat * 2 ^ 14 + o.a.toNat * 2 ^ 7 + o.b.toNat)

/-- The word of L-I (R244). -/
def encLI (key : Nat) (o : LI) : Word :=
  BitVec.ofNat 32 (key * 2 ^ 24 + o.d.toNat * 2 ^ 17 + o.a.toNat * 2 ^ 10 + o.imm.toNat)

/-- The word of U-I (R244). -/
def encUI (key : Nat) (o : UI) : Word :=
  BitVec.ofNat 32 (key * 2 ^ 24 + o.d.toNat * 2 ^ 17 + o.imm.toNat)

/-- The word of U-B (R250). -/
def encUB (key : Nat) (o : UB) : Word :=
  BitVec.ofNat 32 (key * 2 ^ 24 + o.g.toNat * 2 ^ 21 + o.disp.toNat)

/-- The three words of U-L (R251). -/
def encUL (key : Nat) (o : UL) : List Word :=
  [BitVec.ofNat 32 (key * 2 ^ 24 + o.g.toNat * 2 ^ 21 + o.rsvd.toNat),
   BitVec.ofNat 32 o.d64.toNat, BitVec.ofNat 32 (o.d64.toNat / 2 ^ 32)]

/-- XA (R247). -/
def encXA (x : XA) : Word :=
  BitVec.ofNat 32 (x.c.toNat * 2 ^ 25 + x.slot.toNat * 2 ^ 22 + x.rnd.toNat * 2 ^ 20 + x.sat.toNat * 2 ^ 19 +
    x.sub.toNat * 2 ^ 12 + x.ty.toNat * 2 ^ 8 + x.imm.toNat)

/-- XM (R249). -/
def encXM (x : XM) : Word :=
  BitVec.ofNat 32 (x.c.toNat * 2 ^ 25 + x.subf.toNat * 2 ^ 21 + x.ord.toNat * 2 ^ 19 + x.ty.toNat * 2 ^ 15 +
    x.mode.toNat * 2 ^ 13 + x.addr.toNat)

/-- The words of an L-X or U-X instruction. -/
def encLX (key : Nat) (o : LX) : List Word := [encLR key o.w, encXA o.x]

/-- The words of an L-M or U-M instruction. -/
def encLM (key : Nat) (o : LM) : List Word := [encLR key o.w, encXM o.x]

/-- The words of MOVW (R247). -/
def encLXI (key : Nat) (o : LXI) : List Word := [encLR key o.w, o.xi]

/-- The word of a dictionary pair (R195). -/
def encPair (o : Pair) : Word :=
  BitVec.ofNat 32 (63 * 2 ^ 26 + o.hi.toNat * 2 ^ 16 + o.lo.toNat)

/-- The words of an instruction, from the same tables; a step of a unit has none. -/
def encode : Instr → List Word
  | .iadd o => [encLR 0 o]
  | .isub o => [encLR 1 o]
  | .iaddSatI32 o => [encLR 2 o]
  | .iaddSatN32 o => [encLR 3 o]
  | .isubSatI32 o => [encLR 4 o]
  | .isubSatN32 o => [encLR 5 o]
  | .imul o => [encLR 6 o]
  | .imulhI32 o => [encLR 7 o]
  | .imulhN32 o => [encLR 8 o]
  | .imac o => [encLR 9 o]
  | .iminI32 o => [encLR 10 o]
  | .iminN32 o => [encLR 11 o]
  | .imaxI32 o => [encLR 12 o]
  | .imaxN32 o => [encLR 13 o]
  | .iabs o => [encLR 14 o]
  | .ineg o => [encLR 15 o]
  | .and o => [encLR 16 o]
  | .or o => [encLR 17 o]
  | .xor o => [encLR 18 o]
  | .not o => [encLR 19 o]
  | .shl o => [encLR 20 o]
  | .shr o => [encLR 21 o]
  | .sar o => [encLR 22 o]
  | .rot o => [encLR 23 o]
  | .bfeN32 o => [encLR 24 o]
  | .bfeI32 o => [encLR 25 o]
  | .bfi o => [encLR 26 o]
  | .brev o => [encLR 27 o]
  | .clz o => [encLR 28 o]
  | .ffs o => [encLR 29 o]
  | .popc o => [encLR 30 o]
  | .icmp o => [encLR 31 o]
  | .fadd o => [encLR 32 o]
  | .fsub o => [encLR 33 o]
  | .fmul o => [encLR 34 o]
  | .fmac o => [encLR 35 o]
  | .fmin o => [encLR 36 o]
  | .fmax o => [encLR 37 o]
  | .frcp o => [encLR 38 o]
  | .frsq o => [encLR 39 o]
  | .fsqrt o => [encLR 40 o]
  | .fexp2 o => [encLR 41 o]
  | .flog2 o => [encLR 42 o]
  | .fcmp o => [encLR 43 o]
  | .fabs o => [encLR 44 o]
  | .fneg o => [encLR 45 o]
  | .fminNum o => [encLR 46 o]
  | .fmaxNum o => [encLR 47 o]
  | .faddBf16 o => [encLR 48 o]
  | .fsubBf16 o => [encLR 49 o]
  | .fmulBf16 o => [encLR 50 o]
  | .fmacBf16 o => [encLR 51 o]
  | .fminBf16 o => [encLR 52 o]
  | .fmaxBf16 o => [encLR 53 o]
  | .fabsBf16 o => [encLR 54 o]
  | .fnegBf16 o => [encLR 55 o]
  | .faddF16 o => [encLR 56 o]
  | .fsubF16 o => [encLR 57 o]
  | .fmulF16 o => [encLR 58 o]
  | .fmacF16 o => [encLR 59 o]
  | .fminF16 o => [encLR 60 o]
  | .fmaxF16 o => [encLR 61 o]
  | .fabsF16 o => [encLR 62 o]
  | .fnegF16 o => [encLR 63 o]
  | .cvtF32Fs o => encLX 64 o
  | .cvtFsF32 o => encLX 64 o
  | .cvtBf16Fs o => encLX 64 o
  | .cvtFsBf16 o => encLX 64 o
  | .cvtF16Fs o => encLX 64 o
  | .cvtFsF16 o => encLX 64 o
  | .cvtI32Fs o => encLX 64 o
  | .cvtFsI32 o => encLX 64 o
  | .cvtF32Bf16 o => encLX 64 o
  | .cvtBf16F32 o => encLX 64 o
  | .cvtF32F16 o => encLX 64 o
  | .cvtF16F32 o => encLX 64 o
  | .cvtF32I32 o => encLX 64 o
  | .cvtI32F32 o => encLX 64 o
  | .cvtF32N32 o => encLX 64 o
  | .cvtN32F32 o => encLX 64 o
  | .qsplit o => encLX 65 o
  | .vcomp o => [encLR 66 o]
  | .spc48 o => [encLR 67 o]
  | .bpick o => [encLR 68 o]
  | .frnd o => [encLR 69 o]
  | .packBf16 o => [encLR 70 o]
  | .packF16 o => [encLR 71 o]
  | .unpackBf16 o => [encLR 72 o]
  | .unpackF16 o => [encLR 73 o]
  | .i2fI32 o => [encLR 74 o]
  | .i2fN32 o => [encLR 75 o]
  | .f2iI32 o => [encLR 76 o]
  | .f2iN32 o => [encLR 77 o]
  | .vexpand o => [encLR 78 o]
  | .qxchH o => encLX 80 o
  | .qxchV o => encLX 80 o
  | .qxchD o => encLX 80 o
  | .qxchBc o => encLX 80 o
  | .shflAt o => encLX 81 o
  | .shflRot o => encLX 81 o
  | .shflSpan o => encLX 81 o
  | .shflFlip o => encLX 81 o
  | .vreduceAdd o => encLX 82 o
  | .vreduceMin o => encLX 82 o
  | .vreduceMax o => encLX 82 o
  | .vreduceAnd o => encLX 82 o
  | .vreduceOr o => encLX 82 o
  | .vreduceXor o => encLX 82 o
  | .vreduceFadd o => encLX 82 o
  | .vreduceFmin o => encLX 82 o
  | .vreduceFmax o => encLX 82 o
  | .vscanAdd o => encLX 83 o
  | .vscanMin o => encLX 83 o
  | .vscanMax o => encLX 83 o
  | .vscanAnd o => encLX 83 o
  | .vscanOr o => encLX 83 o
  | .vscanXor o => encLX 83 o
  | .vscanFadd o => encLX 83 o
  | .vscanFmin o => encLX 83 o
  | .vscanFmax o => encLX 83 o
  | .voteSome o => encLX 84 o
  | .voteEvery o => encLX 84 o
  | .voteSame o => encLX 84 o
  | .ballot o => [encLR 85 o]
  | .eqmask o => [encLR 86 o]
  | .sel o => encLX 87 o
  | .plop o => encLX 88 o
  | .mov o => [encLR 89 o]
  | .movi o => [encLI 90 o]
  | .pget o => [encLR 91 o]
  | .pset o => [encLR 92 o]
  | .ldN8Lane o => encLM 96 o
  | .ldI8Lane o => encLM 97 o
  | .ldN16Lane o => encLM 98 o
  | .ldI16Lane o => encLM 99 o
  | .ldN32Lane o => encLM 100 o
  | .ldN64Lane o => encLM 101 o
  | .ldN128Lane o => encLM 102 o
  | .stN8Lane o => encLM 103 o
  | .stN16Lane o => encLM 104 o
  | .stN32Lane o => encLM 105 o
  | .stN64Lane o => encLM 106 o
  | .stN128Lane o => encLM 107 o
  | .atomAddLane o => encLM 108 o
  | .atomFaddLane o => encLM 108 o
  | .atomMinLane o => encLM 108 o
  | .atomMaxLane o => encLM 108 o
  | .atomAndLane o => encLM 108 o
  | .atomOrLane o => encLM 108 o
  | .atomXorLane o => encLM 108 o
  | .atomXchgLane o => encLM 108 o
  | .atomCasLane o => encLM 108 o
  | .pref o => encLM 109 o
  | .wide o => encLX 112 o
  | .movw o => encLXI 113 o
  | .ffma o => encLX 114 o
  | .imad o => encLX 115 o
  | .isum3 o => encLX 116 o
  | .bitfn o => encLX 117 o
  | .winxN32 o => encLX 118 o
  | .winxI32 o => encLX 119 o
  | .idot4 o => encLX 120 o
  | .fdot2 o => encLX 121 o
  | .iclamp o => encLX 122 o
  | .fclamp o => encLX 123 o
  | .sad o => encLX 124 o
  | .fscale o => encLX 125 o
  | .imadw o => encLX 126 o
  | .uadd o => [encLR 128 o]
  | .usub o => [encLR 129 o]
  | .umul o => [encLR 130 o]
  | .umulhI64 o => [encLR 131 o]
  | .umulhN64 o => [encLR 132 o]
  | .umac o => [encLR 133 o]
  | .uminI64 o => [encLR 134 o]
  | .uminN64 o => [encLR 135 o]
  | .umaxI64 o => [encLR 136 o]
  | .umaxN64 o => [encLR 137 o]
  | .uand o => [encLR 138 o]
  | .uor o => [encLR 139 o]
  | .uxor o => [encLR 140 o]
  | .unot o => [encLR 141 o]
  | .ushl o => [encLR 142 o]
  | .ushr o => [encLR 143 o]
  | .usar o => [encLR 144 o]
  | .uext o => [encLR 145 o]
  | .uclz o => [encLR 146 o]
  | .uffs o => [encLR 147 o]
  | .upopc o => [encLR 148 o]
  | .ucmp o => [encLR 149 o]
  | .usel o => [encLR 150 o]
  | .uplop o => [encLR 151 o]
  | .umov o => [encLR 152 o]
  | .umovi o => [encUI 153 o]
  | .uaddi o => [encUI 154 o]
  | .ucat o => [encUI 155 o]
  | .udivN64 o => [encLR 156 o]
  | .uremN64 o => [encLR 157 o]
  | .ldN8Uniform o => encLM 160 o
  | .ldN16Uniform o => encLM 161 o
  | .ldN32Uniform o => encLM 162 o
  | .ldI32Uniform o => encLM 163 o
  | .ldN64Uniform o => encLM 164 o
  | .stN8Uniform o => encLM 165 o
  | .stN16Uniform o => encLM 166 o
  | .stN32Uniform o => encLM 167 o
  | .stN64Uniform o => encLM 168 o
  | .ldc o => encLM 169 o
  | .atomAddUniform o => encLM 170 o
  | .atomFaddUniform o => encLM 170 o
  | .atomMinUniform o => encLM 170 o
  | .atomMaxUniform o => encLM 170 o
  | .atomAndUniform o => encLM 170 o
  | .atomOrUniform o => encLM 170 o
  | .atomXorUniform o => encLM 170 o
  | .atomXchgUniform o => encLM 170 o
  | .atomCasUniform o => encLM 170 o
  | .waitcmp o => encLM 171 o
  | .fenceW o => [encLR 172 o]
  | .fenceL o => [encLR 173 o]
  | .fenceS o => [encLR 174 o]
  | .cinv o => [encLR 175 o]
  | .br o => [encUB 176 o]
  | .bra o => [encUB 177 o]
  | .brl o => encUL 178 o
  | .call o => [encUB 179 o]
  | .calll o => encUL 180 o
  | .callo o => [encLR 181 o]
  | .bri o => [encLR 182 o]
  | .calli o => [encLR 183 o]
  | .ret o => [encLR 184 o]
  | .regang o => [encLR 185 o]
  | .exit o => [encLR 186 o]
  | .hoist o => encLX 187 o
  | .hwait o => [encLR 188 o]
  | .evict o => [encLR 189 o]
  | .pin o => [encLR 190 o]
  | .unpin o => [encLR 191 o]
  | .hset o => encLX 192 o
  | .hget o => [encLR 193 o]
  | .mmLoadb o => encLX 194 o
  | .mmPass o => encLX 195 o
  | .mmSpass o => encLX 196 o
  | .mmStore o => encLX 197 o
  | .mmZero o => encLX 198 o
  | .twLoad o => encLX 208 o
  | .twStore o => encLX 209 o
  | .twMcast o => encLX 210 o
  | .twGather o => encLX 211 o
  | .twRed o => encLX 212 o
  | .twPermit o => [encUI 213 o]
  | .cbatch o => [encLR 214 o]
  | .cwait o => [encLR 215 o]
  | .barInit o => [encLR 216 o]
  | .barArrive o => [encLR 217 o]
  | .barWait o => [encLR 218 o]
  | .twait o => [encLR 219 o]
  | .tread o => [encLR 220 o]
  | .tapEnc o => encLX 224 o
  | .tapAdapt o => encLX 225 o
  | .tapNext o => [encLR 226 o]
  | .tapRead o => [encLR 227 o]
  | .tapResumeApply o => encLX 228 o
  | .tapResumeSkip o => encLX 228 o
  | .tapResumeRewritten o => encLX 228 o
  | .gqIns o => encLX 232 o
  | .gqPop o => encLX 233 o
  | .gqAdd o => encLX 234 o
  | .gqMax o => encLX 235 o
  | .gqDone o => encLX 236 o
  | .kvFork o => encLX 237 o
  | .kvApp o => encLX 238 o
  | .kvDrop o => encLX 239 o
  | .kvDropFrame o => encLX 239 o
  | .sread o => [encLR 240 o]
  | .swrite o => [encLR 241 o]
  | .trap o => [encUI 242 o]
  | .tret o => [encLR 243 o]
  | .elect o => [encLR 244 o]
  | .lsel o => [encLR 245 o]
  | .lwr o => [encLR 246 o]
  | .launchTrig o => [encLR 247 o]
  | .gridwait o => [encLR 248 o]
  | .nop o => [encLR 249 o]
  | .sleep o => [encLR 249 o]
  | .gqRead o => [encLR 249 o]
  | .gqResid o => [encLR 249 o]
  | .yield o => [encLR 249 o]
  | .bkpt o => [encLR 249 o]
  | .mark o => [encLR 249 o]
  | .time o => [encLR 249 o]
  | .dictionaryPair o => [encPair o]
  | .issueSelect => []
  | .fragmentPromotion _ => []
  | .fragmentRefill _ => []
  | .spillWaitExpiry _ => []
  | .yieldExpiry _ => []
  | .sleepExpiry _ => []
  | .wctWaitEnd _ => []
  | .detTurn _ => []
  | .detStall _ => []
  | .pageWalk _ => []
  | .faultqOverflowRewalk _ => []
  | .homeSliceWrite _ => []
  | .writeVisible _ => []
  | .homeSliceRead _ => []
  | .mxAliasWrite _ => []
  | .ownershipGrant _ => []
  | .stashWriteback _ _ => []
  | .leaseRecordDrop _ => []
  | .atomicPerform _ => []
  | .relAtomicRelease _ => []
  | .routerMerge _ _ => []
  | .mergeHoldExpiry _ => []
  | .atomicReturn _ => []
  | .monitorFallback _ => []
  | .hostWriteAck _ => []
  | .hostBar2Access _ _ _ _ => []
  | .engineSlotStart _ => []
  | .engineWalkStart _ _ => []
  | .permitEffect _ => []
  | .ringTileStart _ _ => []
  | .engineCommandComplete _ _ => []
  | .mcastCopyLand _ _ _ => []
  | .operandFetch _ => []
  | .matrixGrant _ => []
  | .arbiterPromotion _ _ => []
  | .bankLoad _ _ => []
  | .bankLoadComplete _ _ => []
  | .passComplete _ => []
  | .mmStoreComplete _ => []
  | .tapEncodeRow _ => []
  | .tapCommit _ _ => []
  | .tapAdaptRow _ => []
  | .hoistLoadComplete _ _ => []
  | .hoistLoadFault _ _ => []
  | .overlayFree _ _ => []
  | .codeAbsentService _ => []
  | .forcedEviction _ _ => []
  | .dictLoad _ _ => []
  | .groupClaim _ => []
  | .groupDrainComplete _ => []
  | .launchComplete _ => []
  | .gqUpdateApply _ _ => []
  | .faultDelivery _ => []
  | .delegatedFault _ => []
  | .imageSlotClaim _ => []
  | .groupHalt _ => []
  | .saveComplete _ => []
  | .resumePlace _ => []
  | .focusEnd _ => []
  | .uncorrectableWriteback _ => []
  | .errorRetry _ _ _ => []
  | .coreRetire _ => []
  | .sliceRetire _ => []
  | .deviceSpare _ => []
  | .droopStretch _ => []
  | .droopRelease _ => []
  | .powerLimitStretch _ => []
  | .firmwareVerify => []
  | .dieRestart _ => []
  | .taggedMessageArrive _ _ _ _ _ => []
  | .flitReplay _ _ => []
  | .frontEndFetch _ _ => []
  | .nopPacket _ _ => []
  | .launchPacket _ _ => []
  | .resumePacket _ _ => []
  | .ibPacket _ _ => []
  | .predPacket _ _ => []
  | .fencePacket _ _ => []
  | .signalPacket _ _ => []
  | .waitPacket _ _ => []
  | .armPacket _ _ => []
  | .cqDoorbell _ _ _ => []
  | .cqEnable _ _ _ => []
  | .cqRestart _ _ _ => []
  | .evqCtlWrite _ _ => []
  | .evqHeadWrite _ _ => []
  | .mxModeChange _ _ => []
  | .mxModeChangeDone _ => []
  | .l2WaysWrite _ _ => []
  | .l2LeaseWrite _ _ => []
  | .codeCantonWrite _ _ => []
  | .gqPoolOpen _ _ => []
  | .gqPoolClose _ _ => []
  | .traceEnable _ _ => []
  | .profClear _ => []
  | .profFreeze _ _ => []
  | .powerLimitWrite _ => []
  | .registerWrite _ _ _ _ => []
  | .hcCmdUnknown _ _ => []
  | .preempt _ => []
  | .retry _ => []
  | .terminate _ => []
  | .replay _ => []
  | .cancel _ => []
  | .invalidate _ => []
  | .invalidateComplete _ => []
  | .peerSet _ => []
  | .collSetup _ => []
  | .attest _ => []
  | .functionReset _ => []
  | .moduleLoad _ => []
  | .moduleBind _ => []
  | .moduleUnload _ => []
  | .moduleUnloadComplete _ => []
  | .keyEnroll _ => []
  | .fwLoad _ => []
  | .hostReadCompletion _ _ => []
  | .twRedContribution _ _ _ _ _ _ => []
  | .powerLimitRelease _ => []
  | .dieRepairReset _ => []
  | .spareDeviceCopy _ _ => []

end Sys2Proof
end

