-- ==== Sys2Proof/Machine/Flags.lean ====
section
/-!
DEFINITION. The four sticky flags (R93) and the flag computations that the lane instructions share.
-/

namespace Sys2Proof.Machine

/-- The fields of %fsticky (R93). -/
abbrev Flags := BitVec 4

def Flags.invalid : Flags := 1
def Flags.overflow : Flags := 2
def Flags.underflow : Flags := 4
def Flags.saturated : Flags := 8

/-- A flag when a condition holds. -/
def Flags.when (b : Bool) (f : Flags) : Flags := if b then f else 0

/-- An integer clamped to a range; a clamp sets SATURATED (R264, R268). -/
def clampInt (lo hi x : Int) : Int × Flags :=
  if x < lo then (lo, Flags.saturated) else if hi < x then (hi, Flags.saturated) else (x, 0)

/-- The least and the greatest value of a w-bit type (R262). -/
def intLo (signed : Bool) (w : Nat) : Int := if signed then -(2 ^ (w - 1) : Int) else 0
def intHi (signed : Bool) (w : Nat) : Int := if signed then (2 ^ (w - 1) : Int) - 1 else (2 ^ w : Int) - 1

/-- A w-bit element read as its type says (R262). -/
def ext (signed : Bool) (w x : Nat) : Int := if signed then sval w x else ((x % 2 ^ w : Nat) : Int)

/-- Write results to one register in each lane and OR their flags, helper lanes' apart, into %fsticky
(R94, R175, R261). -/
def Ctx.eachF (c : Ctx) (ls : List Nat) (d : Nat) (f : Nat → Word × Flags) : Ctx :=
  (c.each ls d (fun l => (f l).1)).flags (c.eachFlags ls (fun l => (f l).2))

/-- The same for a 64-bit result in a pair. -/
def Ctx.each2F (c : Ctx) (ls : List Nat) (d : Nat) (f : Nat → Reg × Flags) : Ctx :=
  (c.each2 ls d (fun l => (f l).1)).flags (c.eachFlags ls (fun l => (f l).2))

/-- The same for a predicate. -/
def Ctx.eachPF (c : Ctx) (ls : List Nat) (d : Nat) (f : Nat → Bool × Flags) : Ctx :=
  (c.eachP ls d (fun l => (f l).1)).flags (c.eachFlags ls (fun l => (f l).2))

end Sys2Proof.Machine
end

