-- ==== Sys2Proof/Machine/Num.lean ====
section
/-!
DEFINITION. Number formats, exact values, rounding and conversion (R84 to R98).
-/

namespace Sys2Proof.Machine

/-- An exact value (R89): a NaN with its sign, its fraction field left-aligned in 23 bits and whether it signals;
an infinity; or (-1)^neg × m × 2^e. -/
inductive Val where
  | nan (neg : Bool) (pay : Nat) (snan : Bool)
  | inf (neg : Bool)
  | fin (neg : Bool) (m : Nat) (e : Int)
  deriving DecidableEq, Repr

/-- The canonical quiet NaN. -/
def Val.qnan : Val := .nan false 0 false

def Val.zero : Val := .fin false 0 0

def Val.isNan : Val → Bool
  | .nan _ _ _ => true
  | _ => false

def Val.signals : Val → Bool
  | .nan _ _ s => s
  | _ => false

/-- An integer as an exact value. -/
def Val.ofInt (x : Int) : Val := .fin (decide (x < 0)) x.natAbs 0

/-- Kinds of binary formats (R84): with infinities and NaN, E4M3 with its one NaN pattern, without either. -/
inductive BinKind where
  | ieee | e4m3 | finite
  deriving DecidableEq, Repr

/-- A binary format (R84). -/
structure Bin where
  eb : Nat
  mb : Nat
  bias : Nat
  kind : BinKind
  deriving DecidableEq, Repr

/-- Formats that values are rounded into: binary, L6, and integers of w bits. -/
inductive NumFmt where
  | bin (b : Bin)
  | l6
  | int (signed : Bool) (w : Nat)
  deriving DecidableEq, Repr

def fp32B : Bin := { eb := 8, mb := 23, bias := 127, kind := .ieee }
def bf16B : Bin := { eb := 8, mb := 7, bias := 127, kind := .ieee }
def fp16B : Bin := { eb := 5, mb := 10, bias := 15, kind := .ieee }
abbrev fp32 : NumFmt := .bin fp32B
abbrev bf16 : NumFmt := .bin bf16B
abbrev fp16 : NumFmt := .bin fp16B
abbrev i32 : NumFmt := .int true 32
abbrev n32 : NumFmt := .int false 32

/-- The element format of an FMT code (R84); codes 11 to 15 are reserved and refused where a slot is checked. -/
def fmtNum (code : Nat) : NumFmt :=
  match code with
  | 0 => fp32
  | 1 => bf16
  | 2 => fp16
  | 3 => .bin { eb := 4, mb := 3, bias := 7, kind := .e4m3 }
  | 4 => .bin { eb := 5, mb := 2, bias := 15, kind := .ieee }
  | 5 => .bin { eb := 2, mb := 3, bias := 1, kind := .finite }
  | 6 => .bin { eb := 3, mb := 2, bias := 3, kind := .finite }
  | 7 => .bin { eb := 2, mb := 1, bias := 1, kind := .finite }
  | 8 => .l6
  | 9 => .int true 8
  | _ => .int true 4

def Bin.width (b : Bin) : Nat := 1 + b.eb + b.mb

/-- Bits of an element (R84). -/
def NumFmt.width : NumFmt → Nat
  | .bin b => b.width
  | .l6 => 6
  | .int _ w => w

/-- The magnitude bits of the largest finite value (R84). -/
def Bin.maxCode (b : Bin) : Nat :=
  match b.kind with
  | .ieee => (2 ^ b.eb - 1) * 2 ^ b.mb - 1
  | .e4m3 => 0x7E
  | .finite => 2 ^ (b.eb + b.mb) - 1

/-- The sign bit of a format. -/
def Bin.sign (b : Bin) (neg : Bool) : Nat := if neg then 2 ^ (b.eb + b.mb) else 0

/-- T of R87. -/
def l6T (k : Nat) : Nat :=
  match k % 4 with
  | 0 => 0x10000
  | 1 => 0x1306F
  | 2 => 0x16A0A
  | _ => 0x1AE8A

/-- Q(c) × 2^20 for a code c > 0, continued past 31 (R87, R89); 0 for c = 0. -/
def l6Q (c : Nat) : Nat := if c = 0 then 0 else l6T c * 2 ^ (c / 4)

/-- The exact value of an element (R84, R87; log 20). -/
def decodeNum (f : NumFmt) (x : Nat) : Val :=
  match f with
  | .int s w => Val.ofInt (ext s w x)
  | .l6 =>
    let c := x % 32
    let neg := x / 32 % 2 == 1
    if c = 0 then (if neg then Val.qnan else Val.zero) else .fin neg (l6Q c) (-20)
  | .bin b =>
    let m := x % 2 ^ b.mb
    let e := x / 2 ^ b.mb % 2 ^ b.eb
    let neg := x / 2 ^ (b.eb + b.mb) % 2 == 1
    if b.kind = .ieee ∧ e = 2 ^ b.eb - 1 then
      if m = 0 then .inf neg else .nan neg (m * 2 ^ (23 - b.mb)) (m < 2 ^ (b.mb - 1))
    else if b.kind = .e4m3 ∧ e = 15 ∧ m = 7 then .nan neg 0 false
    else if e = 0 then .fin neg m (1 - (b.bias : Int) - b.mb)
    else .fin neg (2 ^ b.mb + m) ((e : Int) - b.bias - b.mb)

/-! ### Rounding (R89) -/

/-- Rounding modes: 0 RNE, 1 RTZ, 2 SR (R89); `r` are SR's 16 random bits. -/
structure Rnd where
  mode : Nat
  sat : Bool
  r : Nat
  deriving DecidableEq, Repr

/-- RNE without saturation. -/
def Rnd.rne : Rnd := { mode := 0, sat := false, r := 0 }

/-- lo or lo + 1 of R89, for a quotient lo with the remainder rem / den beyond it. -/
def roundStep (k : Rnd) (lo rem den : Nat) : Nat :=
  if rem = 0 then lo
  else if k.mode = 1 then lo
  else if k.mode = 2 then (if 65536 ≤ rem * 65536 / den + k.r then lo + 1 else lo)
  else if den < 2 * rem then lo + 1
  else if 2 * rem = den then lo + lo % 2
  else lo

/-- floor(log2 (p / q)) for positive p and q. -/
def ilog2 (p q : Nat) : Int :=
  let d : Int := (Nat.log2 p : Int) - Nat.log2 q
  if p * 2 ^ (-d).toNat < q * 2 ^ d.toNat then d - 1 else d

/-- p / q as (numerator, denominator) in units of 2^e. -/
def unitsOf (p q : Nat) (e : Int) : Nat × Nat := (p * 2 ^ (-e).toNat, q * 2 ^ e.toNat)

/-- Round the magnitude p / q > 0 into a binary format (R89, R90). -/
def roundBin (b : Bin) (k : Rnd) (neg : Bool) (p q : Nat) : Nat × Flags :=
  let emin : Int := 1 - (b.bias : Int)
  let etop : Int := (2 ^ b.eb - (if b.kind = .ieee then 2 else 1) : Int) - b.bias
  let ex := min (max (ilog2 p q) emin) etop
  let u := unitsOf p q (ex - b.mb)
  let n := roundStep k (u.1 / u.2) (u.1 % u.2) u.2
  let code := (ex - emin).toNat * 2 ^ b.mb + n
  if b.maxCode < code then
    if k.mode = 1 then (b.sign neg + b.maxCode, 0)
    else if k.sat ∨ b.kind = .finite then (b.sign neg + b.maxCode, Flags.overflow ||| Flags.saturated)
    else (b.sign neg + b.maxCode + 1, Flags.overflow)
  else (b.sign neg + code, Flags.when (n == 0) Flags.underflow)

/-- The greatest code c of at most n with Q(c) ≤ p / q (R87). -/
def l6Floor (p q : Nat) : Nat → Nat
  | 0 => 0
  | n + 1 => if l6Q (n + 1) * q ≤ p * 2 ^ 20 then n + 1 else l6Floor p q n

/-- Round the magnitude p / q > 0 into L6 (R87, R89, R90). -/
def roundL6 (k : Rnd) (neg : Bool) (p q : Nat) : Nat × Flags :=
  let s := if neg then 32 else 0
  let lo := l6Floor p q 32
  let n := if lo = 32 then 32 else roundStep k lo (p * 2 ^ 20 - l6Q lo * q) ((l6Q (lo + 1) - l6Q lo) * q)
  if 31 < n then (s + 31, if k.mode = 1 then 0 else Flags.overflow ||| Flags.saturated)
  else if n = 0 then (0, Flags.underflow)
  else (s + n, 0)

/-- Round the magnitude p / q > 0 into an integer format (R89, R90). -/
def roundInt (signed : Bool) (w : Nat) (k : Rnd) (neg : Bool) (p q : Nat) : Nat × Flags :=
  let n := roundStep k (p / q) (p % q) q
  let v : Int := if neg then -(n : Int) else n
  let c := clampInt (intLo signed w) (intHi signed w) v
  (wrap w c.1,
    if c.2 = 0 then Flags.when (n == 0) Flags.underflow
    else if k.mode = 1 then Flags.saturated else Flags.overflow ||| Flags.saturated)

/-- round(x, fmt) for the magnitude p / q > 0 (R89). -/
def roundNum (f : NumFmt) (k : Rnd) (neg : Bool) (p q : Nat) : Nat × Flags :=
  match f with
  | .bin b => roundBin b k neg p q
  | .l6 => roundL6 k neg p q
  | .int s w => roundInt s w k neg p q

/-- Zero keeps its sign in the formats that have −0 (R89). -/
def zeroNum (f : NumFmt) (neg : Bool) : Nat :=
  match f with
  | .bin b => b.sign neg
  | _ => 0

/-- An infinity brought into a format (R90's last column); where it is clamped, SATURATED (log 15). -/
def infNum (f : NumFmt) (sat : Bool) (neg : Bool) : Nat × Flags :=
  match f with
  | .bin b =>
    if b.kind = .ieee ∧ !sat then (b.sign neg + b.maxCode + 1, 0)
    else (b.sign neg + b.maxCode, Flags.saturated)
  | .l6 => ((if neg then 32 else 0) + 31, Flags.saturated)
  | .int s w => (wrap w (if neg then intLo s w else intHi s w), Flags.saturated)

/-- A NaN brought into a format, unblocked (R91). -/
def nanNum (f : NumFmt) (neg : Bool) (pay : Nat) (snan : Bool) : Nat × Flags :=
  match f with
  | .bin b =>
    let fl := Flags.when snan Flags.invalid
    match b.kind with
    | .ieee =>
      if b.mb = 2 then (b.sign neg + 0x7E, fl)
      else
        let m := pay / 2 ^ (23 - b.mb)
        let h := 2 ^ (b.mb - 1)
        (b.sign neg + (2 ^ b.eb - 1) * 2 ^ b.mb + (if m < h then m + h else m), fl)
    | .e4m3 => (b.sign neg + 0x7F, fl)
    | .finite => (0, Flags.invalid)
  | .l6 => (0x20, Flags.when snan Flags.invalid)
  | .int _ _ => (0, Flags.invalid)

/-- Convert an exact value divided by a positive or negative scale (−1)^sn × sm × 2^se into a format (R97). -/
def encodeDiv (f : NumFmt) (k : Rnd) (x : Val) (sn : Bool) (sm : Nat) (se : Int) : Nat × Flags :=
  match x with
  | .nan n p s => nanNum f n p s
  | .inf n => infNum f k.sat (n != sn)
  | .fin n m e =>
    if m = 0 then (zeroNum f (n != sn), 0)
    else
      let d := e - se
      roundNum f k (n != sn) (m * 2 ^ d.toNat) (sm * 2 ^ (-d).toNat)

/-- Convert an exact value into a format (R89 to R91). -/
def encodeNum (f : NumFmt) (k : Rnd) (x : Val) : Nat × Flags := encodeDiv f k x false 1 0

/-! ### Exact arithmetic -/

/-- The signed integer m × 2^(e − e0). -/
def Val.at (neg : Bool) (m : Nat) (e e0 : Int) : Int :=
  let v : Int := m * 2 ^ (e - e0).toNat
  if neg then -v else v

/-- Exact sum; `none` for ∞ − ∞ (R92). Both arguments are no NaN. -/
def Val.add : Val → Val → Option Val
  | .inf a, .inf b => if a = b then some (.inf a) else none
  | .inf a, _ => some (.inf a)
  | _, .inf b => some (.inf b)
  | .fin a m e, .fin b n f =>
    if m = 0 ∧ n = 0 then some (.fin (a && b) 0 0)
    else
      let e0 := min e f
      let v := Val.at a m e e0 + Val.at b n f e0
      some (.fin (decide (v < 0)) v.natAbs e0)
  | _, _ => none

/-- Exact product; `none` for 0 × ∞ (R92). -/
def Val.mul : Val → Val → Option Val
  | .inf a, .inf b => some (.inf (a != b))
  | .inf a, .fin b n _ => if n = 0 then none else some (.inf (a != b))
  | .fin a m _, .inf b => if m = 0 then none else some (.inf (a != b))
  | .fin a m e, .fin b n f => some (.fin (a != b) (m * n) (e + f))
  | _, _ => none

def Val.neg : Val → Val
  | .nan a p s => .nan (!a) p s
  | .inf a => .inf (!a)
  | .fin a m e => .fin (!a) m e

/-- −1, 0 or 1 as x is below, at or above y; `zs` puts −0 below +0 (R270). -/
def Val.cmp (zs : Bool) (x y : Val) : Int :=
  let sgn : Bool → Int := fun b => if b then -1 else 1
  match x, y with
  | .inf a, .inf b => if a = b then 0 else sgn a
  | .inf a, _ => sgn a
  | _, .inf b => -(sgn b)
  | .fin a m e, .fin b n f =>
    if m = 0 ∧ n = 0 then (if zs ∧ a ≠ b then sgn a else 0)
    else
      let e0 := min e f
      let v := Val.at a m e e0 - Val.at b n f e0
      if v < 0 then -1 else if v = 0 then 0 else 1
  | _, _ => 0

/-! ### Roots, powers and logarithms

Irrational results are formed as a truncation of more than a hundred significant bits with one bit below it set,
which rounds as the exact value does (log 16). -/

/-- floor(√n) for n < 4^k. -/
def isqrt : Nat → Nat → Nat
  | 0, _ => 0
  | k + 1, n =>
    let s := 2 * isqrt k (n / 4)
    if (s + 1) * (s + 1) ≤ n then s + 1 else s

/-- √(m × 2^e), m > 0. -/
def sqrtVal (m : Nat) (e : Int) : Val :=
  let odd := e % 2 = 1
  let m' := (if odd then 2 * m else m) * 2 ^ 160
  let e' := (if odd then e - 1 else e) / 2 - 80
  let s := isqrt 128 m'
  .fin false (2 * s + (if s * s = m' then 0 else 1)) (e' - 1)

/-- 1/√(m × 2^e), m > 0. -/
def rsqrtVal (m : Nat) (e : Int) : Val :=
  let odd := e % 2 = 1
  let m' := if odd then 2 * m else m
  let e' := (if odd then e - 1 else e) / 2
  let q := 2 ^ 240 / m'
  let s := isqrt 128 q
  .fin false (2 * s + (if s * s = q ∧ 2 ^ 240 % m' = 0 then 0 else 1)) (-120 - e' - 1)

/-- ln 2 × 2^320, truncated. -/
def ln2Fix : Nat := 0xb17217f7d1cf79abc9e3b39803f2f6af40f343267298b62d8a0d175b8baafa2be7b876206debac98

/-- The sum of t^k / k!, in units of 2^-320, over the terms from `k` on. -/
def expSeries : Nat → Nat → Nat → Nat → Nat
  | 0, _, _, _ => 0
  | n + 1, k, t, term => term + expSeries n (k + 1) t (term * t / 2 ^ 320 / (k + 1))

/-- 2^x of a finite x (R271); an exponent beyond ±1200 stands for every greater one. -/
def exp2Val (neg : Bool) (m : Nat) (e : Int) : Val :=
  if 0 ≤ e then
    let v : Int := if neg then -(m * 2 ^ (min e 12).toNat : Int) else (m * 2 ^ (min e 12).toNat : Int)
    .fin false 1 (max (min v 1200) (-1200))
  else
    let d : Nat := 2 ^ (-e).toNat
    let v : Int := if neg then -(m : Int) else m
    let n := v / (d : Int)
    let f := (v % (d : Int)).toNat
    if f = 0 then .fin false 1 (max (min n 1200) (-1200))
    else if 1200 < n then .fin false 1 1200
    else if n < -1200 then .fin false 1 (-1200)
    else .fin false (2 * (expSeries 90 0 (f * ln2Fix / d) (2 ^ 320) / 2 ^ 80) + 1) (n - 241)

/-- Bits of the fraction of log2 y for y in [1, 2), y in units of 2^-440, appended to `acc`. -/
def log2Bits : Nat → Nat → Nat → Nat
  | 0, _, acc => acc
  | n + 1, y, acc =>
    let z := y * y / 2 ^ 440
    if 2 ^ 441 ≤ z then log2Bits n (z / 2) (2 * acc + 1) else log2Bits n z (2 * acc)

/-- log2 (m × 2^e), m > 0 (R271). -/
def log2Val (m : Nat) (e : Int) : Val :=
  let t := Nat.log2 m
  if m = 2 ^ t then Val.ofInt (e + t)
  else
    let v : Int := 2 * ((e + t) * 2 ^ 200 + log2Bits 200 (m * 2 ^ 440 / 2 ^ t) 0) + 1
    .fin (decide (v < 0)) v.natAbs (-201)

/-! ### Lane arithmetic (R92, R269 to R273) -/

/-- The first NaN in source order, quieted, and INVALID if any source signals (R91, R92). -/
def nanOf (f : NumFmt) (xs : List Val) : Option (Nat × Flags) :=
  match xs.find? Val.isNan with
  | some (.nan n p _) => some ((nanNum f n p false).1, Flags.when (xs.any Val.signals) Flags.invalid)
  | _ => none

/-- The canonical NaN with INVALID (R92). -/
def invalidNum (f : NumFmt) : Nat × Flags := ((nanNum f false 0 false).1, Flags.invalid)

/-- Round an arithmetic result: an exactly infinite one stays infinite and sets no flag (R90). -/
def arithOut (f : NumFmt) (k : Rnd) : Option Val → Nat × Flags
  | none => invalidNum f
  | some (.inf n) => infNum f false n
  | some x => encodeNum f k x

def addNum (f : NumFmt) (k : Rnd) (x y : Val) : Nat × Flags :=
  (nanOf f [x, y]).getD (arithOut f k (x.add y))

/-- a − b: a NaN operand keeps its own sign (R92). -/
def subNum (f : NumFmt) (k : Rnd) (x y : Val) : Nat × Flags :=
  (nanOf f [x, y]).getD (arithOut f k (x.add y.neg))

def mulNum (f : NumFmt) (k : Rnd) (x y : Val) : Nat × Flags :=
  (nanOf f [x, y]).getD (arithOut f k (x.mul y))

/-- a × b + c, rounded once; NaN order a, b, c (R269, R273). -/
def fmaNum (f : NumFmt) (k : Rnd) (x y z : Val) : Nat × Flags :=
  (nanOf f [x, y, z]).getD (arithOut f k ((x.mul y).bind (fun p => p.add z)))

/-- The FP32 addition with RNE that R57, R103 and R285 name. -/
def fadd32 (a b : Nat) : Nat × Flags := addNum fp32 Rnd.rne (decodeNum fp32 a) (decodeNum fp32 b)

/-- FMIN and FMAX and their .NUM forms (R270), on element bits. -/
def minmaxNum (f : NumFmt) (mx num : Bool) (a b : Nat) : Nat × Flags :=
  let x := decodeNum f a
  let y := decodeNum f b
  let fl := Flags.when (x.signals || y.signals) Flags.invalid
  let pick := if mx then (if 0 ≤ x.cmp true y then a else b) else (if x.cmp true y ≤ 0 then a else b)
  if num then
    if x.isNan && y.isNan then (((nanOf f [x]).getD (0, 0)).1, fl)
    else if x.isNan then (b, fl)
    else if y.isNan then (a, fl)
    else (pick, fl)
  else
    match nanOf f [x, y] with
    | some r => r
    | none => (pick, fl)

/-- FRCP, FRSQ, FSQRT, FEXP2, FLOG2 and FRND. -/
inductive Unary where
  | rcp | rsq | sqrt | exp2 | log2 | rnd
  deriving DecidableEq, Repr

/-- FRND (R276): no flag but INVALID. -/
def frndNum (f : NumFmt) (k : Rnd) (a : Nat) (neg : Bool) (m : Nat) (e : Int) : Nat :=
  if m = 0 ∨ 0 ≤ e then a
  else
    let d := 2 ^ (-e).toNat
    let n := roundStep k (m / d) (m % d) d
    (encodeNum f Rnd.rne (.fin neg n 0)).1

/-- The unary functions (R271, R276), with R271's table for the values it gives exactly. -/
def unaryNum (u : Unary) (f : NumFmt) (k : Rnd) (a : Nat) : Nat × Flags :=
  let x := decodeNum f a
  let exact : Val → Nat × Flags := fun v => ((arithOut f Rnd.rne (some v)).1, 0)
  (nanOf f [x]).getD
    (match u, x with
    | .rnd, .fin n m e => (frndNum f k a n m e, 0)
    | .rnd, _ => (a, 0)
    | .rcp, .inf n => exact (.fin n 0 0)
    | .rcp, .fin n m e =>
      if m = 0 then exact (.inf n) else roundNum f k n (2 ^ (-e).toNat) (m * 2 ^ e.toNat)
    | .rsq, .inf n => if n then invalidNum f else exact Val.zero
    | .rsq, .fin n m e =>
      if m = 0 then exact (.inf n) else if n then invalidNum f else arithOut f k (some (rsqrtVal m e))
    | .sqrt, .inf n => if n then invalidNum f else exact (.inf false)
    | .sqrt, .fin n m e =>
      if m = 0 then exact (.fin n 0 0) else if n then invalidNum f else arithOut f k (some (sqrtVal m e))
    | .exp2, .inf n => if n then exact Val.zero else exact (.inf false)
    | .exp2, .fin n m e => if m = 0 then exact (.fin false 1 0) else arithOut f k (some (exp2Val n m e))
    | .log2, .inf n => if n then invalidNum f else exact (.inf false)
    | .log2, .fin n m e =>
      if m = 0 then exact (.inf true) else if n then invalidNum f else arithOut f k (some (log2Val m e))
    | _, _ => invalidNum f)

/-- FSCALE (R273): a × 2^n; exponents beyond ±1400 stand for every greater one. -/
def scaleNum (k : Rnd) (a : Nat) (n : Int) : Nat × Flags :=
  let x := decodeNum fp32 a
  (nanOf fp32 [x]).getD
    (match x with
    | .fin s m e => encodeNum fp32 k (.fin s m (max (min (e + n) 1400) (-1400)))
    | _ => (a, 0))

/-- FDOT2 (R273): a0 × b0 + a1 × b1 + c, formed exactly and rounded once to F32. -/
def fdot2Num (f : NumFmt) (k : Rnd) (a b c : Nat) : Nat × Flags :=
  let a0 := decodeNum f (a % 65536)
  let a1 := decodeNum f (a / 65536)
  let b0 := decodeNum f (b % 65536)
  let b1 := decodeNum f (b / 65536)
  let z := decodeNum fp32 c
  (nanOf fp32 [a0, a1, b0, b1, z]).getD
    (arithOut fp32 k
      ((a0.mul b0).bind (fun p => (a1.mul b1).bind (fun q => (p.add q).bind (fun s => s.add z)))))

/-- The relations of R246 on a comparison's outcome: c < 0, c = 0, c > 0. -/
def relHolds (rel : Nat) (c : Int) : Bool :=
  match rel % 8 with
  | 0 => c == 0
  | 1 => c != 0
  | 2 => decide (c < 0)
  | 3 => decide (c ≤ 0)
  | 4 => decide (0 < c)
  | 5 => decide (0 ≤ c)
  | 6 => false
  | _ => true

/-- FCMP (R272). -/
def fcmpNum (rel a b : Nat) : Bool × Flags :=
  let x := decodeNum fp32 a
  let y := decodeNum fp32 b
  let fl := Flags.when (x.signals || y.signals) Flags.invalid
  if x.isNan || y.isNan then (rel % 8 == 1 || rel % 8 == 6, fl) else (relHolds rel (x.cmp false y), fl)

/-! ### Stochastic bits (R98) -/

/-- The 16 random bits of one element (R98). -/
def srBits (seed dix : Reg) (lane elem : Nat) : Nat :=
  let z0 : Reg := seed ^^^ (dix * 0x8F3A6C1D52E9B7A5)
  let z1 := z0 ^^^ (BitVec.ofNat 64 (lane % 65536) <<< 48) ^^^ BitVec.ofNat 64 (elem % 2 ^ 32)
  let z2 := z1 ^^^ (z1 >>> 31)
  let z3 := z2 * 0xC2B61E973D4F0A6B
  let z4 := z3 ^^^ (z3 >>> 29)
  let z5 := z4 * 0x94E705B3A8C16F2D
  let z6 := z5 ^^^ (z5 >>> 32)
  fld z6 0 16

/-! ### Format slots (R95 to R97) -/

def FmtSlot.fmt (f : FmtSlot) : Nat := fld f.w0 0 4
def FmtSlot.block (f : FmtSlot) : Nat := fld f.w0 8 2
def FmtSlot.scaleFmt (f : FmtSlot) : Nat := fld f.w0 10 2
def FmtSlot.scaleSrc (f : FmtSlot) : Nat := fld f.w0 12 2
def FmtSlot.round (f : FmtSlot) : Nat := fld f.w0 14 2
def FmtSlot.sat (f : FmtSlot) : Bool := fld f.w0 16 1 == 1
def FmtSlot.nan (f : FmtSlot) : Nat := fld f.w0 17 2
def FmtSlot.tensorScale (f : FmtSlot) : Nat := fld f.w0 32 32
def FmtSlot.num (f : FmtSlot) : NumFmt := fmtNum f.fmt
/-- Bits of one element. -/
def FmtSlot.bits (f : FmtSlot) : Nat := f.num.width
/-- Elements of one block (R95). -/
def FmtSlot.blockLen (f : FmtSlot) : Nat := if f.block = 1 then 16 else 32

/-- The slot passes R96. -/
def FmtSlot.ok (f : FmtSlot) : Bool :=
  fld f.w0 19 13 == 0 && fld f.w0 4 4 == 0 && decide (f.nan < 3) && decide (f.round < 3)
  && decide (f.scaleSrc < 3) && decide (f.scaleFmt < 2) && decide (f.block < 3) && decide (f.fmt < 11)
  && !(f.block != 0 && decide (f.fmt < 3))
  && !(f.block != 0 && !(f.scaleSrc == 2 && f.scaleFmt == 1))
  && !(f.block == 0 && f.scaleSrc == 2)
  && !(f.scaleSrc == 1 && f.scaleFmt == 1 && f.tensorScale % 256 == 255)
  && !(f.scaleSrc == 1 && f.scaleFmt == 0 &&
        (match decodeNum fp32 f.tensorScale with
         | .fin _ m _ => m == 0
         | _ => true))
  && fld f.scaleBase 57 7 == 0 && fld f.dupBase 57 7 == 0 && fld f.dupBase 0 6 == 0

/-- The scale of an element (R86, R97): sign, significand and exponent; `none` for the E8M0 code 0xFF. `code` is
the block's scale byte. -/
def FmtSlot.scale (f : FmtSlot) (code : Nat) : Option (Bool × Nat × Int) :=
  match f.scaleSrc with
  | 0 => some (false, 1, 0)
  | 1 =>
    if f.scaleFmt = 1 then some (false, 1, (f.tensorScale % 256 : Nat) - 127)
    else
      match decodeNum fp32 f.tensorScale with
      | .fin n m e => some (n, m, e)
      | _ => none
  | _ => if code % 256 = 255 then none else some (false, 1, (code % 256 : Nat) - 127)

/-- The exact value of an element read through a slot, the NaN policy apart (R97). -/
def FmtSlot.read (f : FmtSlot) (code x : Nat) : Val :=
  match decodeNum f.num x, f.scale code with
  | _, none => Val.qnan
  | .fin a m e, some (n, sm, se) => .fin (a != n) (m * sm) (e + se)
  | .inf a, some (n, _, _) => .inf (a != n)
  | v, _ => v

/-- NAN ZERO reads a NaN as +0 and sets INVALID (R97). -/
def FmtSlot.policy (f : FmtSlot) (x : Val) : Val × Flags :=
  if x.isNan && f.nan == 1 then (Val.zero, Flags.invalid) else (x, 0)

/-- Write a value through a slot (R97): divided by the scale and rounded; a block scale of 0xFF gives NaN, which
follows the NaN policy (R275); a blocked element saturates (log 67). -/
def FmtSlot.write (f : FmtSlot) (k : Rnd) (code : Nat) (x : Val) : Nat × Flags :=
  let k' : Rnd := { k with sat := k.sat || f.sat || f.block != 0 }
  let go : Val → Nat × Flags := fun v =>
    let p := f.policy v
    match f.scale code with
    | some (n, m, e) => let r := encodeDiv f.num k' p.1 n m e; (r.1, r.2 ||| p.2)
    | none => let r := encodeNum f.num k' p.1; (r.1, r.2 ||| p.2)
  match f.scale code with
  | none => let r := go Val.qnan; (r.1, r.2 ||| Flags.when x.signals Flags.invalid)
  | some _ => go x

/-- emax of R97. -/
def emaxOf (fmt : Nat) : Int :=
  match fmt with
  | 3 => 8
  | 4 => 15
  | 5 => 2
  | 6 => 4
  | 7 => 2
  | 8 => 3
  | 9 => 6
  | _ => 2

/-- floor(log2 M) of the largest finite magnitude M among values, `none` when it is 0. -/
def maxLog2 : List Val → Option Int
  | [] => none
  | .fin _ m e :: t =>
    if m = 0 then maxLog2 t
    else
      let l := (Nat.log2 m : Int) + e
      match maxLog2 t with
      | some k => some (max l k)
      | none => some l
  | _ :: t => maxLog2 t

/-- The block scale of R22 and R97: 0xFF with a NaN in the block. -/
def blockCode (fmt : Nat) (xs : List Val) : Nat :=
  if xs.any Val.isNan then 255
  else
    match maxLog2 xs with
    | none => 127
    | some l => (max (min (l - emaxOf fmt + 127) 254) 0).toNat

/-- The halves of R101: RTZ(x / 2) in x's format, and x less that. -/
def splitHalves (f : NumFmt) (a : Nat) : Nat × Nat :=
  match decodeNum f a with
  | .fin n m e =>
    if m = 0 then (a, a)
    else
      let lo := (encodeNum f { mode := 1, sat := false, r := 0 } (.fin n m (e - 1))).1
      let hi := ((Val.fin n m e).add (decodeNum f lo).neg).getD Val.zero
      (lo, (encodeNum f Rnd.rne hi).1)
  | _ => (a, a)

/-- The flags of forming the halves (log 21): UNDERFLOW where the lower one of a nonzero value rounds to zero (R89), and
INVALID where a signalling NaN is read (R91). -/
def splitFlags (f : NumFmt) (a : Nat) : Flags :=
  match decodeNum f a with
  | .fin n m e => if m = 0 then 0 else (encodeNum f { mode := 1, sat := false, r := 0 } (.fin n m (e - 1))).2
  | v => Flags.when v.signals Flags.invalid

end Sys2Proof.Machine
end

