-- ==== Sys2Proof/Machine/Operands.lean ====
section
/-!
DEFINITION. Operand forms of the lane instructions: elements of each width (R262), rounding fields and random bits
(R247, R99), format slots (R95, R96).
-/

namespace Sys2Proof.Machine

/-- What an integer cell reads for one element (R262, R264): its width, whether its type is signed, a, b, the old d,
and B whole. -/
structure El where
  w : Nat
  signed : Bool
  a : Nat
  b : Nat
  d : Nat
  ball : Nat

/-- A cell's result element and flags. -/
abbrev Cell := El → Nat × Flags

/-- Element k of width w of a register. -/
def elem (w k x : Nat) : Nat := bits x (w * k) w

/-- n packed elements of width w, element 0 lowest (R262). -/
def packEls (w : Nat) (f : Nat → Nat × Flags) : Nat → Nat × Flags
  | 0 => (0, 0)
  | n + 1 =>
    let lo := packEls w f n
    let x := f n
    (lo.1 + x.1 % 2 ^ w * 2 ^ (w * n), lo.2 ||| x.2)

/-- An integer cell over elements of width w (R262, R264): packed for 8 and 16, a register for 32, a pair for 64. -/
def Ctx.intOp (c : Ctx) (o : LR) (w : Nat) (signed : Bool) (f : Cell) : Ctx :=
  let ls := c.active o.g
  let d := o.d.toNat
  let a := o.a.toNat
  let b := o.b.toNat
  if w = 64 then
    c.each2F ls d (fun l =>
      let y := (c.gang.src64 b l).toNat
      let r := f { w := 64, signed := signed, a := (c.gang.src64 a l).toNat, b := y,
                   d := (c.gang.src64 d l).toNat, ball := y }
      (BitVec.ofNat 64 r.1, r.2))
  else
    c.eachF ls d (fun l =>
      let x := (c.gang.src32 a l).toNat
      let y := (c.gang.src32 b l).toNat
      let z := (c.gang.rdV d l).toNat
      let r := packEls w (fun k => f { w := w, signed := signed, a := elem w k x, b := elem w k y,
                                       d := elem w k z, ball := y }) (32 / w)
      (BitVec.ofNat 32 r.1, r.2))

/-- Element width of a TYPE code (R248, R262). -/
def tyWidth (ty : Nat) : Nat :=
  match ty with
  | 0 | 4 | 12 => 8
  | 1 | 5 | 13 | 9 | 10 => 16
  | 3 | 7 => 64
  | 11 => 128
  | _ => 32

/-- .I types (R248). -/
def tySigned (ty : Nat) : Bool := ty == 4 || ty == 5 || ty == 6 || ty == 7

/-- The %dix that a lane's instruction reads (R100). -/
def Ctx.dixOf (c : Ctx) (l : Nat) : Reg :=
  match c.gang.quads[l / 4]? with
  | some q => q.dix
  | none => 0

/-- The rounding of element `e` of lane l (R247, R98, R99). -/
def Ctx.rndAt (c : Ctx) (mode : Nat) (sat : Bool) (seed : Reg) (l e : Nat) : Rnd :=
  { mode := mode, sat := sat, r := if mode = 2 then srBits seed (c.dixOf l) l e else 0 }

/-- A float cell: format, rounding, a, b and the old d to a result and flags. -/
abbrev FCell := NumFmt → Rnd → Nat → Nat → Nat → Nat × Flags

/-- A float cell over an FP32 register or two packed halves (R262, R269). -/
def Ctx.fltOp (c : Ctx) (o : LR) (f : NumFmt) (mode : Nat) (sat : Bool) (fn : FCell) : Ctx :=
  let w := f.width
  c.eachF (c.active o.g) o.d.toNat (fun l =>
    let x := (c.gang.src32 o.a.toNat l).toNat
    let y := (c.gang.src32 o.b.toNat l).toNat
    let z := (c.gang.rdV o.d.toNat l).toNat
    let r := packEls w (fun k => fn f (c.rndAt mode sat 0 l k) (elem w k x) (elem w k y) (elem w k z)) (32 / w)
    (BitVec.ofNat 32 r.1, r.2))

/-- A format slot of the group (R95). -/
def Ctx.slot (c : Ctx) (i : BitVec 3) : FmtSlot := c.grp.slots[i.toNat]

/-- The lanes that a fault of the whole instruction names (R216): the active lanes but for helpers. -/
def Ctx.faultLanes (c : Ctx) (g : BitVec 3) : BitVec 64 := laneMask ((c.active g).filter (fun l => !c.helper l))

/-- The contributors of a cross-lane instruction (R282). -/
def Ctx.contrib (c : Ctx) (g : BitVec 3) : List Nat := (c.active g).filter (fun l => !c.helper l)

/-- A lane's source as 32 or 64 bits (R262). -/
def Ctx.srcW (c : Ctx) (wide : Bool) (f l : Nat) : Nat :=
  if wide then (c.gang.src64 f l).toNat else (c.gang.src32 f l).toNat

/-- Write a 32- or 64-bit result in each lane. -/
def Ctx.eachW (c : Ctx) (wide : Bool) (ls : List Nat) (d : Nat) (f : Nat → Nat) : Ctx :=
  if wide then c.each2 ls d (fun l => BitVec.ofNat 64 (f l)) else c.each ls d (fun l => BitVec.ofNat 32 (f l))

end Sys2Proof.Machine
end

