-- ==== Sys2Proof/Machine/Mem.lean ====
section
/-!
DEFINITION. Memory as the home slices keep it: what is visible now, MX storage, translation, leases and write
completion times, events to the host, and a unit's own accesses.
-/

namespace Sys2Proof.Machine

/-! ### Values (R49, R301) -/

/-- The region of a physical address (R17). -/
def regionOf (pa : Nat) : Nat := pa / 2 ^ 44

/-- The line of a physical address (R38). -/
def lineOf (pa : Nat) : Nat := pa / 64

/-- Bytes of a TYPE. -/
def tyBytes (ty : Nat) : Nat := tyWidth ty / 8

/-- The new value of an atomic (R301): the old value, the operand, and CAS's compare value. -/
def atomNew (op ty old v cmp : Nat) : Nat :=
  let w := tyWidth ty
  let sg := tySigned ty
  match op with
  | 0 => (old + v) % 2 ^ w
  | 1 => (fadd32 old v).1
  | 2 => if ext sg w v < ext sg w old then v else old
  | 3 => if ext sg w old < ext sg w v then v else old
  | 4 => old &&& v
  | 5 => old ||| v
  | 6 => old ^^^ v
  | 7 => v
  | _ => if old = cmp then v else old

/-- n bytes of a memory from an address. -/
def Memory.bytes (m : Memory) (pa : Nat) : Nat → List Byte
  | 0 => []
  | n + 1 => SMap.get 0 m pa :: Memory.bytes m (pa + 1) n

/-- Perform a write on a memory: its bytes, or the atomic it stands for. -/
def Pending.apply (p : Pending) (m : Memory) : Memory :=
  match p.rmw with
  | none => m.write p.pa p.data
  | some r =>
    let n := tyBytes r.ty
    let old := leNat (m.bytes p.pa n)
    m.write p.pa (toLE n (atomNew r.op r.ty old (r.opnd.toNat % 2 ^ (8 * n)) (r.cmp.toNat % 2 ^ (8 * n))))

/-- A write changes a line: bytes of it, or the alias view of the block it rewrites (R23). -/
def Pending.onLine (p : Pending) (line : Nat) : Bool :=
  (decide (lineOf p.pa ≤ line) && decide (line * 64 < p.pa + max 1 p.data.length)) || p.view == some line

/-- What is visible at NOW(): the writes whose T has come (R49). -/
def State.vis (s : State) : Memory :=
  s.pending.foldl (fun m p => if p.t ≤ s.now then p.apply m else m) s.mem

/-- The end of every line's serial order: with every write that holds a T (R49). -/
def State.last (s : State) : Memory := s.pending.foldl (fun m p => p.apply m) s.mem

/-! ### MX storage (R19 to R24) -/

/-- Bytes of elements per block (R20). -/
def MxEntry.elBytes (e : MxEntry) : Nat := if e.fmt = 0 then 32 else 24
/-- The element format's FMT code of R84. -/
def MxEntry.code (e : MxEntry) : Nat := if e.fmt = 0 then 3 else if e.fmt = 1 then 5 else 6
/-- MODE as it reads: a format above 2 disables the entry (R19). -/
def MxEntry.modeOf (e : MxEntry) : Nat := if e.fmt ≤ 2 then e.mode else 0
def MxEntry.inView (e : MxEntry) (off : Nat) : Bool := decide (e.view ≤ off) && decide (off < e.view + e.len * 65536)
def MxEntry.inPacked (e : MxEntry) (pa : Nat) : Bool :=
  decide (e.packed ≤ pa) && decide (pa < e.packed + e.elBytes * e.len * 1024)
def MxEntry.inScale (e : MxEntry) (pa : Nat) : Bool := decide (e.scale ≤ pa) && decide (pa < e.scale + e.len * 1024)

/-- The entry that governs an alias offset: the lowest-numbered enabled one that covers it (R20). -/
def State.mxAt (s : State) (off : Nat) : Option MxEntry :=
  (s.mx.find? (fun e => e.2.modeOf != 0 && e.2.inView off)).map Prod.snd

/-- A line holds bytes of either view of an entry. -/
def MxEntry.onLine (e : MxEntry) (line : Nat) : Bool :=
  let meets : Nat → Nat → Bool := fun a n => decide (a < line * 64 + 64) && decide (line * 64 < a + n)
  if regionOf (line * 64) = 1 then e.inView (line * 64 % 2 ^ 44)
  else meets e.packed (e.elBytes * e.len * 1024) || meets e.scale (e.len * 1024)

/-- An access to either view of a region whose mode changes is held (R24). -/
def State.mxHeld (s : State) (line : Nat) : Bool := s.mx.any (fun e => e.2.busy && e.2.onLine line)

/-- A mode change is done (R24): L2 holds no line of either view, and BUSY clears. -/
def State.mxDone (s : State) (k : Nat) : State :=
  let e := s.mxe k
  { s.setMx k { e with busy := false } with
    l2 := s.l2.map (fun x => (x.1, { x.2 with ways := x.2.ways.map (fun w => w.filter (fun y => !e.onLine y.line)) })) }

/-- A unit's access waits out the mode changes of its line. -/
def State.mxSettle (s : State) (line : Nat) : State :=
  (s.mx.filter (fun e => e.2.busy && e.2.onLine line)).foldl (fun s e => s.mxDone e.1) s

/-- Element i of a block in a memory: its bits, and the block's scale byte. -/
def MxEntry.el (e : MxEntry) (m : Memory) (b i : Nat) : Nat :=
  bits (leNat (m.bytes (e.packed + e.elBytes * b) e.elBytes)) ((fmtNum e.code).width * i) (fmtNum e.code).width
def MxEntry.sc (e : MxEntry) (m : Memory) (b : Nat) : Nat := (SMap.get 0 m (e.scale + b)).toNat

/-- The exact value of an element (R21, R22). -/
def MxEntry.val (e : MxEntry) (m : Memory) (b i : Nat) : Val :=
  let c := e.sc m b
  match decodeNum (fmtNum e.code) (e.el m b i) with
  | .fin n x k => if c = 255 then Val.qnan else .fin n x (k + (c : Int) - 127)
  | v => if c = 255 then Val.qnan else v

/-- The BF16 image of an element (R21). -/
def MxEntry.image (e : MxEntry) (m : Memory) (b i : Nat) : Nat := (encodeNum bf16 Rnd.rne (e.val m b i)).1

/-- Sum of element codes of width w, element 0 lowest. -/
def packCodes (w : Nat) : List Nat → Nat
  | [] => 0
  | x :: t => x % 2 ^ w + 2 ^ w * packCodes w t

/-- The block's new element bytes and scale after bytes of its line are written (R22): `put k` is the new byte k. -/
def MxEntry.rewrite (e : MxEntry) (m : Memory) (b : Nat) (put : Nat → Option Byte) : List Byte × Byte :=
  let vals := (List.range 32).map (fun i =>
    match put (2 * i), put (2 * i + 1) with
    | none, none => e.val m b i
    | lo, hi =>
      let img := e.image m b i
      let l := match lo with | some x => x.toNat | none => img % 256
      let h := match hi with | some x => x.toNat | none => img / 256
      decodeNum bf16 (l + 256 * h))
  let code := blockCode e.code vals
  let k : Rnd := { mode := 0, sat := true, r := 0 }
  let els := vals.map (fun v => if code = 255 then 0 else (encodeDiv (fmtNum e.code) k v false 1 ((code : Int) - 127)).1)
  (toLE e.elBytes (packCodes (fmtNum e.code).width els), BitVec.ofNat 8 code)

/-- A byte at a physical address of region 0x0, or of the alias region (R21). -/
def State.byteIn (s : State) (m : Memory) (pa : Nat) : Byte :=
  if regionOf pa = 1 then
    match s.mxAt (pa % 2 ^ 44) with
    | some e =>
      let o := pa % 2 ^ 44 - e.view
      let img := e.image m (o / 64) (o % 64 / 2)
      BitVec.ofNat 8 (if o % 2 = 0 then img else img / 256)
    | none => 0
  else SMap.get 0 m pa

/-- n bytes from a physical address. -/
def State.bytesIn (s : State) (m : Memory) (pa : Nat) : Nat → List Byte
  | 0 => []
  | n + 1 => s.byteIn m pa :: s.bytesIn m (pa + 1) n

/-- The visible value of n bytes, little-endian. -/
def State.readVis (s : State) (pa n : Nat) : Nat := leNat (s.bytesIn s.vis pa n)

/-! ### Translation (R25 to R31) -/

/-- How an address fails once translated (R17, R23, R24). Packed bytes that any entry in ALIAS mode covers fail, also
where a lower-numbered PACKED entry governs them (log 101). -/
def State.paFault (s : State) (pa : Nat) (acc : Access) : Option Reason :=
  match regionOf pa with
  | 0 =>
    if 2 ^ 38 ≤ pa then some .paUnbacked
    else if s.mx.any (fun e => e.2.modeOf == 1 && (e.2.inPacked pa || e.2.inScale pa)) then some .paUnbacked
    else none
  | 1 =>
    match s.mxAt (pa % 2 ^ 44) with
    | some e => if e.modeOf = 1 then (if acc = .atomic then some .mxAliasAtomic else none) else some .paUnbacked
    | none => some .paUnbacked
  | 4 => none
  | _ => some .paUnbacked

/-- A leaf grants an access (R29). -/
def accOk (acc : Access) (r w x : Bool) : Bool :=
  match acc with
  | .read | .frontEnd => r
  | .write => w
  | .atomic => r && w
  | .execute => x

/-- The KINDS bit (R31). -/
def Access.kind : Access → Nat
  | .read => 0
  | .write => 1
  | .atomic => 2
  | .execute => 3
  | .frontEnd => 4

/-- What a walk ends in: the page's address with R, W and X, or a fault. -/
inductive Leaf where
  | page (pa : Nat) (r w x : Bool)
  | bad (r : Reason)

/-- What an entry of a table says: the next table, a leaf, or a fault. -/
inductive TableStep where
  | table (pa : Nat)
  | leaf (pa : Nat) (r w x : Bool)
  | bad (r : Reason)

/-- The levels of a walk, as (lowest index bit, index bits) (R26). -/
def walkPlan : List (Nat × Nat) := [(39, 18), (30, 9), (21, 9), (16, 5)]

/-- The lowest address bit that a cached entry of a level translates: 4 is a leaf, k is the table of level k. -/
def spanOf (lvl : Nat) : Nat := (walkPlan[lvl - 1]?.map Prod.fst).getD 0

/-- One level of a walk: the entry of the table at `tbl` (R26, R27). A TYPE of 0 is NOT_PRESENT whatever the other bits
are (log 17). -/
def State.walkStep (s : State) (m : Memory) (va lo n lvl tbl : Nat) : TableStep :=
  let a := tbl + 8 * bits va lo n
  if regionOf a ≠ 0 ∨ (s.paFault a .read).isSome then .bad .paUnbacked
  else
    let e := leNat (m.bytes a 8)
    let pfn := bits e 16 32 * 65536
    let x := bits e 59 1 == 1
    let w := bits e 58 1 == 1
    let r := bits e 57 1 == 1
    if bits e 0 2 = 0 then .bad .notPresent
    else if bits e 60 4 ≠ 0 ∨ bits e 48 9 ≠ 0 ∨ bits e 2 14 ≠ 0 ∨ bits e 0 2 = 3 then .bad .badEntry
    else if bits e 0 2 = 2 then
      if lvl = 0 ∨ (w && !r) ∨ pfn % 2 ^ lo ≠ 0 then .bad .badEntry
      else .leaf (pfn + va % 2 ^ lo / 65536 * 65536) r w x
    else if lvl = 3 ∨ x ∨ w ∨ r then .bad .badEntry
    else .table pfn

/-- The levels that a walk has left, from the table at `tbl`; `lvl` is the level's number. -/
def State.walkLevels (s : State) (m : Memory) (va : Nat) : List (Nat × Nat) → Nat → Nat → Leaf
  | [], _, _ => .bad .badEntry
  | (lo, n) :: t, lvl, tbl =>
    match s.walkStep m va lo n lvl tbl with
    | .table pa => s.walkLevels m va t (lvl + 1) pa
    | .leaf pa r w x => .page pa r w x
    | .bad r => .bad r

/-- The tables that a walk goes through, each with its level. -/
def State.walkTrail (s : State) (m : Memory) (va : Nat) : List (Nat × Nat) → Nat → Nat → List (Nat × Nat)
  | [], _, _ => []
  | (lo, n) :: t, lvl, tbl =>
    match s.walkStep m va lo n lvl tbl with
    | .table pa => (lvl + 1, pa) :: s.walkTrail m va t (lvl + 1) pa
    | _ => []

/-- A cached entry of a level for an address. -/
def Tlb.hit (t : Tlb) (cache lvl func aspace va : Nat) : Bool :=
  t.cache == cache && t.lvl == lvl && t.func == func && t.aspace == aspace && t.page == va / 2 ^ spanOf lvl

/-- Where a walk at a place begins (R28): the deepest table that the die's shared cache holds, else the ROOT. An address
space without a ROOT has none (log 6). -/
def State.walkStart (s : State) (tr func aspace va : Nat) : Option (Nat × Nat) :=
  match [3, 2, 1].findSome? (fun k => s.tlb.find? (fun t => t.hit (192 + dieAt tr) k func aspace va)) with
  | some t => some (t.lvl, t.pa)
  | none => ((s.fn func).roots.find aspace).map (fun root => (0, root))

/-- The walk of an address at a place (R26). -/
def State.walk (s : State) (tr func aspace va : Nat) : Leaf :=
  match s.walkStart tr func aspace va with
  | none => .bad .notPresent
  | some (lvl, tbl) => s.walkLevels s.vis va (walkPlan.drop lvl) lvl tbl

/-- A translation: a physical address, a miss, or a fault. -/
inductive Xl where
  | ok (pa : Nat)
  | miss
  | bad (r : Reason)
  deriving DecidableEq, Repr

/-- The checks after translation. -/
def State.xlPa (s : State) (pa : Nat) (acc : Access) : Xl :=
  match s.paFault pa acc with
  | some r => .bad r
  | none => .ok pa

/-- The caches that a place looks in (R28): a core's micro-TLB, its TLB, and its die's shared cache. -/
def cachesOf (tr : Nat) : List Nat := if tr < 96 then [2 * tr, 2 * tr + 1, 192 + dieOf tr] else [192 + dieAt tr]

/-- The leaf that a place's caches hold. -/
def State.cachedLeaf (s : State) (tr func aspace va : Nat) : Option Tlb :=
  (cachesOf tr).findSome? (fun k => s.tlb.find? (fun t => t.hit k 4 func aspace va))

/-- Translate at a place through its caches; a cached leaf that does not grant the access is walked again (R28,
log 4). -/
def State.xl (s : State) (tr func aspace va : Nat) (acc : Access) : Xl :=
  if 2 ^ 57 ≤ va then .bad .nonCanonical
  else
    match s.cachedLeaf tr func aspace va with
    | some t => if accOk acc t.r t.w t.x then s.xlPa (t.pa + va % 65536) acc else .miss
    | none => .miss

/-- Translate, walking at once on a miss: what a unit does on a program's behalf. -/
def State.xlNow (s : State) (tr func aspace va : Nat) (acc : Access) : Xl :=
  match s.xl tr func aspace va acc with
  | .miss =>
    match s.walk tr func aspace va with
    | .bad r => .bad r
    | .page pa r w x => if accOk acc r w x then s.xlPa (pa + va % 65536) acc else .bad .permission
  | x => x

/-- Sets and ways of a cache (R28; log 99). -/
def tlbSets (cache : Nat) : Nat := if 192 ≤ cache then 1024 else if cache % 2 = 1 then 128 else 1
def tlbWays (cache : Nat) : Nat := if 192 ≤ cache then 16 else if cache % 2 = 1 then 8 else 64

/-- Two entries of one set of a cache. -/
def Tlb.sameSet (t u : Tlb) : Bool := t.cache == u.cache && t.page % tlbSets t.cache == u.page % tlbSets u.cache

/-- Put an entry into its cache; a full set drops its oldest (log 99). -/
def State.tlbAdd (s : State) (t : Tlb) : State :=
  let kept := s.tlb.filter (fun y => !y.hit t.cache t.lvl t.func t.aspace (t.page * 2 ^ spanOf t.lvl))
  let kept := if tlbWays t.cache ≤ (kept.filter t.sameSet).length then kept.eraseP t.sameSet else kept
  { s with tlb := kept ++ [t] }

/-- What a walk at a place found goes into the die's shared cache, and its leaf into the caches named too (R28). -/
def State.cacheWalk (s : State) (tr func aspace va : Nat) (also : List Nat) : State :=
  let e : Nat → Nat → Nat → Bool → Bool → Bool → Tlb := fun cache lvl pa r w x =>
    { cache := cache, lvl := lvl, func := func, aspace := aspace, page := va / 2 ^ spanOf lvl, pa := pa, r := r, w := w, x := x }
  let die := 192 + dieAt tr
  let trail := match s.walkStart tr func aspace va with
    | some (lvl, tbl) => s.walkTrail s.vis va (walkPlan.drop lvl) lvl tbl
    | none => []
  let s1 := trail.foldl (fun s t => s.tlbAdd (e die t.1 t.2 false false false)) s
  match s.walk tr func aspace va with
  | .page pa r w x => (die :: also).foldl (fun s k => s.tlbAdd (e k 4 pa r w x)) s1
  | .bad _ => s1

/-- Replayable faults (R31). -/
def Reason.replayable (r : Reason) : Bool := r == .notPresent || r == .permission

/-! ### Leases and write completion times (R44 to R51) -/

/-- The home slice of a line (R38). -/
def State.homeOf (s : State) (line : Nat) : Nat :=
  let f : Nat → Nat := fun k => bits line (6 * k) 6
  (s.slice (f 0 ^^^ f 1 ^^^ f 2 ^^^ f 3 ^^^ f 4 ^^^ f 5 ^^^ f 6)).remap

/-- A line's record; without one, LEASE_HORIZON stands for L_MAX (R48). -/
def State.recOf (s : State) (line : Nat) : LineRec :=
  (s.lineRec line).getD { lmax := (s.slice (s.homeOf line)).horizon, tlast := 0, owner := none }

/-- Fold a T into a gang's %wct (R49). -/
def State.foldWct (s : State) (gid gang t : Nat) : State :=
  s.updGroup gid (fun g => { g with gangs := g.gangs.mapIdx (fun i x => if i = gang then { x with wct := max x.wct t } else x) })

/-- Note a T among a launch's writes, for its completion (R159). -/
def State.noteT (s : State) (lau : Option Nat) (t : Nat) : State :=
  match lau with
  | some l => s.updLaunch l (fun x => { x with latest := max x.latest t })
  | none => s

/-- The launch of a group. -/
def State.launchOf (s : State) (gid : Nat) : Option Nat := (s.groups.find gid).map Group.launch

/-- The function of a group. -/
def State.funcOf (s : State) (gid : Nat) : Nat := (((s.launchOf gid).bind s.launches.find).map Launch.func).getD 0

/-- Assign T to a write that arrives at a line now with a release marker (R49). -/
def State.assignT (s : State) (line marker : Nat) : State × Nat :=
  let r := s.recOf line
  let t := max (max s.now r.lmax) (max r.tlast marker)
  (s.setLine line { r with tlast := t }, t)

/-- Put a write that holds its T at the end of the serial order. -/
def State.pend (s : State) (p : Pending) : State := { s with pending := s.pending ++ [p] }

/-- A fresh request number. -/
def State.fresh (s : State) : State × Nat := ({ s with nextId := s.nextId + 1 }, s.nextId)

/-- Runs of consecutive bytes in a rising list of (offset, byte). -/
def runsOf : List (Nat × Byte) → List (Nat × List Byte)
  | [] => []
  | (o, b) :: t =>
    match runsOf t with
    | (p, bs) :: r => if o + 1 = p then (o, b :: bs) :: r else (o, [b]) :: (p, bs) :: r
    | [] => [(o, [b])]

/-- The dirty bytes of a window line go to the home slice with one T, folded into the %wct of every gang of the
group (R44, R45, R49; log 61). -/
def State.writeback (s : State) (gid k : Nat) : State :=
  match s.groups.find gid with
  | none => s
  | some g =>
    match g.lines.find k with
    | none => s
    | some l =>
      if l.dirty.isEmpty then s
      else
        let a := s.assignT (lineOf l.pa) 0
        let s1 := (runsOf l.dirty).foldl (fun s r =>
          let f := s.fresh
          f.1.pend { id := f.2, ins := 0, func := s.funcOf gid, view := none, pa := l.pa + r.1, data := r.2, rmw := none
                     t := a.2, gangs := [] }) a.1
        let s2 := s1.updGroup gid (fun g =>
          { g with lines := g.lines.upd k (fun l => { l with dirty := [] })
                   gangs := g.gangs.map (fun x => { x with wct := max x.wct a.2 }) })
        s2.noteT (some g.launch) a.2

/-- Drop a window line, and its ownership. -/
def State.dropLine (s : State) (gid k : Nat) : State :=
  match (s.groups.find gid).bind (fun g => g.lines.find k) with
  | none => s
  | some l =>
    let s1 := s.updGroup gid (fun g => { g with lines := g.lines.del k })
    if l.own then s1.setLine (lineOf l.pa) { s1.recOf (lineOf l.pa) with owner := none } else s1

/-- Write back every dirty line of a group's windows (R45). -/
def State.writebackAll (s : State) (gid : Nat) : State :=
  match s.groups.find gid with
  | none => s
  | some g => (g.lines.map Prod.fst).foldl (fun s k => s.writeback gid k) s

/-- Write back and drop every window line of a group (R45). -/
def State.dropLines (s : State) (gid : Nat) : State :=
  match s.groups.find gid with
  | none => s
  | some g => (g.lines.map Prod.fst).foldl (fun s k => (s.writeback gid k).dropLine gid k) s

/-- Recall a line from the group that holds it EXCLUSIVE (R51; log 80). -/
def State.recall (s : State) (line : Nat) : State :=
  match (s.recOf line).owner with
  | none => s
  | some gid =>
    match s.groups.find gid with
    | none => s.setLine line { s.recOf line with owner := none }
    | some g =>
      let ks := (g.lines.filter (fun l => lineOf l.2.pa == line && l.2.own)).map Prod.fst
      let s1 := ks.foldl (fun s k => (s.writeback gid k).dropLine gid k) s
      s1.setLine line { s1.recOf line with owner := none }

/-- A request to a line waits behind one that holds the line: a marked atomic (R54), a grant of ownership on its way
(R44), or a mode change of its region (R24). -/
def State.lineHeld (s : State) (line : Nat) : Bool :=
  s.mxHeld line ||
  s.reqs.any (fun r =>
    (match r.stage, r.kind with
     | .heldRel, _ => true
     | .timed _, .own _ _ => true
     | _, _ => false)
    && r.parts.any (fun p => lineOf p.pa == line))

/-- Grant a lease on a line read now by a function (R50): its end, 0 when there is none. -/
def State.lease (s : State) (line func : Nat) : State × Nat :=
  if regionOf (line * 64) = 4 then (s, 0)
  else
    let e0 := s.now + (s.fn func).lease
    let e := s.pending.foldl (fun e p => if p.onLine line && decide (s.now < p.t) then min e p.t else e) e0
    if e ≤ s.now then (s, 0)
    else
      let r := s.recOf line
      (s.setLine line { r with lmax := max r.lmax e }, e)

/-! ### L2 (R38 to R41) -/

/-- The first ways of a span that a mask allows. -/
def waysIn (mask : BitVec 16) (lo n : Nat) : Bool := (List.range n).any (fun i => mask.getLsbD (lo + i))

/-- The allowed way that a pseudo-LRU tree points at (R41; log 7): `k` levels left, node n, from way `lo` on. -/
def plruFind (mask plru : BitVec 16) : Nat → Nat → Nat → Nat
  | 0, _, lo => lo
  | k + 1, n, lo =>
    let up := if waysIn mask lo (2 ^ k) && waysIn mask (lo + 2 ^ k) (2 ^ k) then plru.getLsbD n else waysIn mask (lo + 2 ^ k) (2 ^ k)
    plruFind mask plru k (2 * n + (if up then 1 else 0)) (lo + if up then 2 ^ k else 0)

/-- A use of a way: every node on its path points away from it. -/
def plruUse (way : Nat) : Nat → Nat → BitVec 16 → BitVec 16
  | 0, _, p => p
  | k + 1, n, p =>
    let up := way / 2 ^ k % 2
    let bit : BitVec 16 := BitVec.ofNat 16 (2 ^ n)
    plruUse way k (2 * n + up) (if up = 0 then p ||| bit else p &&& ~~~bit)

/-- The way that holds a line. -/
def L2Set.wayOf (x : L2Set) (line : Nat) : Option Nat :=
  (List.range 16).find? (fun i => (x.ways[i]?.join.map L2Way.line) == some line)

/-- The set of a line: of its slice's 2048, by the line's address above the slice bits (R38; log 7). -/
def State.l2Key (s : State) (line : Nat) : Nat := s.homeOf line * 2048 + line / 64 % 2048
def State.l2Set (s : State) (line : Nat) : L2Set := SMap.get L2Set.empty s.l2 (s.l2Key line)

/-- The ways that a fill of a class may take (R41): ordinary, code, adapter. -/
def State.l2Ways (s : State) (func cls : Nat) : BitVec 16 :=
  let f := s.fn func
  if cls = 1 then f.code else if cls = 2 then f.adapt else f.alloc &&& ~~~f.code &&& ~~~f.adapt

/-- A set uses the way of a line it holds, else takes a free way of those allowed, else replaces one; without an allowed
way it is unchanged (R41). -/
def L2Set.fill (x : L2Set) (line : Nat) (mask : BitVec 16) : L2Set :=
  match x.wayOf line with
  | some i => { x with plru := plruUse i 4 1 x.plru }
  | none =>
    if mask = 0 then x
    else
      let i := ((List.range 16).find? (fun i => mask.getLsbD i && x.ways[i]?.join.isNone)).getD (plruFind mask x.plru 4 1 0)
      { ways := x.ways.setIfInBounds i (some { line := line, older := none }), plru := plruUse i 4 1 x.plru }

/-- A line is looked up and filled (R41); lines of host memory are never held (R39). -/
def State.fillL2 (s : State) (line func cls : Nat) : State :=
  if regionOf (line * 64) = 4 then s
  else { s with l2 := s.l2.set (s.l2Key line) ((s.l2Set line).fill line (s.l2Ways func cls)) }

/-- A write makes the way of its line dirty: it keeps what device memory holds until then. -/
def L2Set.dirty (x : L2Set) (line : Nat) (old : List Byte) : L2Set :=
  { x with ways := x.ways.map (fun w => w.map (fun y => if y.line == line && y.older.isNone then { y with older := some old } else y)) }

/-- A write that is performed enters L2 (R41): a plain line dirty, an alias line as the converted copy (R23). `m` is
memory before it. -/
def State.writeL2 (s : State) (m : Memory) (p : Pending) : State :=
  match p.view with
  | some v => s.fillL2 v p.func 0
  | none =>
    let line := lineOf p.pa
    let s1 := s.fillL2 line p.func 0
    { s1 with l2 := s1.l2.set (s1.l2Key line) ((s1.l2Set line).dirty line (m.bytes (line * 64) 64)) }

/-- Drop a line from a core's read buffer (R52). -/
def State.dropRbuf (s : State) (core line : Nat) : State :=
  s.updCore core (fun c => { c with rbuf := c.rbuf.filter (fun x => x.1 % 2 ^ 42 != line) })

/-- A read-buffer entry's tag: function, address space and line (R43). -/
def rbufTag (func aspace line : Nat) : Nat := (func * 16 + aspace) * 2 ^ 42 + line

/-- Keep the last n elements. -/
def keepLast {α : Type} (n : Nat) (l : List α) : List α := l.drop (l.length - n)

/-! ### Requests that hold a line -/

def State.dropReq (s : State) (id : Nat) : State := { s with reqs := s.reqs.filter (fun r => r.id != id) }
def State.setReq (s : State) (r : Req) : State := { s with reqs := s.reqs.map (fun x => if x.id == r.id then r else x) }

/-- The line of a request. -/
def Req.line (r : Req) : Nat := ((r.parts.head?.map (fun p => lineOf p.pa)).getD 0)
def Req.region (r : Req) : Nat := regionOf (r.line * 64)

/-- What a gang's commands and reservations of a core carry of its %wct rises with the T of an earlier write (R66). -/
def Core.carry (k : Core) (w : Who) (ins t : Nat) : Core :=
  let mine : Who → Nat → Bool := fun x n => x.gid == w.gid && x.gang == w.gang && decide (ins < n)
  { k with
    queue := k.queue.map (fun c => if mine c.who c.ins then { c with wct := max c.wct t } else c)
    rsvs := k.rsvs.map (fun r => if mine r.who r.ins then { r with wct := max r.wct t } else r) }

/-- Fold a T into the %wct of every requester and what it carries, and note it for their launches. -/
def State.foldParts (s : State) (r : Req) (t : Nat) : State :=
  r.parts.foldl (fun s p =>
    match p.who with
    | some w =>
      ((s.foldWct w.gid w.gang t).noteT (s.launchOf w.gid) t).updCore (coreOf w.gid) (fun k => k.carry w p.ins t)
    | none => s) s

/-- The gangs that a request's write belongs to (R50). -/
def Req.gangKeys (r : Req) : List (Nat × Nat) := (r.parts.filterMap (fun p => p.who.map (fun w => (w.gid, w.gang)))).eraseDups

/-- The writes of a request's bytes at a T. -/
def State.pendParts (s : State) (r : Req) (t : Nat) : State :=
  r.parts.foldl (fun s p =>
    s.pend { id := r.id, ins := r.ins, func := r.func, view := none, pa := p.pa, data := p.data, rmw := none, t := t
             gangs := r.gangKeys }) s

/-- An atomic that takes its place at the home slice gets its T (R49, R53). -/
def State.timeAtomic (s : State) (r : Req) (op ty : Nat) : State :=
  let s1 := s.recall r.line
  let a := s1.assignT r.line r.marker
  let p := r.parts.head?
  let s2 := a.1.pend { id := r.id, ins := r.ins, func := r.func, view := none, pa := (p.map ReqPart.pa).getD 0
                       data := List.replicate (tyBytes ty) 0
                       rmw := some { op := op, ty := ty, opnd := r.total, cmp := (p.map ReqPart.cmp).getD 0 }
                       t := a.2, gangs := r.gangKeys }
  (s2.foldParts r a.2).setReq { r with stage := .timed a.2 }

/-- What holds a line goes before a unit's access that arrives now (R44, R54): a marked atomic takes its T, which its
marker bounds; a grant of ownership is recalled once its store is written at its T. -/
def State.settleReq (s : State) (r : Req) : State :=
  match r.kind, r.stage with
  | .atomic op ty _ _, .heldRel => s.timeAtomic r op ty
  | .own _ _, .timed t => ((s.pendParts r t).foldParts r t).dropReq r.id
  | _, _ => s

/-- A unit's access arrives at a line: what holds the line goes first (R24, R54), and an EXCLUSIVE holder gives it up
(R51). -/
def State.arrive (s : State) (line : Nat) : State :=
  let s1 := (s.reqs.filter (fun r => r.parts.any (fun p => lineOf p.pa == line))).foldl State.settleReq s
  (s1.mxSettle line).recall line

/-! ### A unit's accesses: they arrive at the home slices at once -/

/-- Bytes split at line boundaries: the part of the first line, and the rest. -/
def splitLine (pa : Nat) (data : List Byte) : List Byte × List Byte :=
  (data.take (64 - pa % 64), data.drop (64 - pa % 64))

/-- Who writes: the function, the instruction's number and the gangs (R41, R50). -/
structure Writer where
  func : Nat
  ins : Nat := 0
  gangs : List (Nat × Nat) := []

/-- A write of bytes of an alias line at its home slice (R22, R23): the block is rewritten at T. `put k` is the line's
new byte k. -/
def State.aliasWrite (s : State) (x : Writer) (line : Nat) (put : Nat → Option Byte) (marker : Nat) : State × Nat :=
  match s.mxAt (line * 64 % 2 ^ 44) with
  | none => (s, s.now)
  | some e =>
    let b := (line * 64 % 2 ^ 44 - e.view) / 64
    let r := e.rewrite s.last b put
    let a := s.assignT line marker
    let f := a.1.fresh
    let p : Pending := { id := f.2, ins := x.ins, func := x.func, view := some line, pa := e.packed + e.elBytes * b, data := r.1
                         rmw := none, t := a.2, gangs := x.gangs }
    ((f.1.pend p).pend { p with pa := e.scale + b, data := [r.2] }, a.2)

/-- A write of bytes within one line at its home slice (R49): T. -/
def State.writeLine (s : State) (x : Writer) (pa : Nat) (data : List Byte) (marker : Nat) : State × Nat :=
  let s0 := s.arrive (lineOf pa)
  if regionOf pa = 1 then
    s0.aliasWrite x (lineOf pa) (fun k => if pa % 64 ≤ k then data[k - pa % 64]? else none) marker
  else
    let a := s0.assignT (lineOf pa) marker
    let f := a.1.fresh
    (f.1.pend { id := f.2, ins := x.ins, func := x.func, view := none, pa := pa, data := data, rmw := none, t := a.2
                gangs := x.gangs }, a.2)

/-- A request of a unit to host memory, which the host acknowledges (R39, R385): its number. -/
def State.hostStore (s : State) (func pa : Nat) (data : List Byte) : State × Nat :=
  let f := s.fresh
  let part : ReqPart := { who := none, pc := 0, ins := 0, lane := 64, dst := 0, va := 0, pa := pa, off := 0, data := data, opnd := 0
                          cmp := 0, pre := [] }
  let r : Req := { id := f.2, ins := 0, who := none, func := func, aspace := 0, kind := .unit, parts := [part], total := 0
                   marker := 0, stage := .sent, old := 0, det := false }
  ({ f.1 with reqs := f.1.reqs ++ [r], out := f.1.out ++ [Output.hostWrite func f.2 pa data] }, f.2)

/-- A unit's write, line by line, under a release marker: the latest T, and the numbers of the requests to host memory
that await the host's acknowledgement (R39). -/
def State.unitWrite (s : State) (func : Nat) (lau : Option Nat) (marker : Nat) :
    Nat → Nat → List Byte → State × Nat × List Nat
  | 0, _, _ => (s, s.now, [])
  | n + 1, pa, data =>
    if data.isEmpty then (s, s.now, [])
    else
      let p := splitLine pa data
      if regionOf pa = 4 then
        let h := s.hostStore func pa p.1
        let q := h.1.unitWrite func lau marker n (pa + p.1.length) p.2
        (q.1, q.2.1, h.2 :: q.2.2)
      else
        let w := s.writeLine { func := func } pa p.1 marker
        let q := (w.1.noteT lau w.2).unitWrite func lau marker n (pa + p.1.length) p.2
        (q.1, max w.2 q.2.1, q.2.2)

/-- n bytes that host memory answers to a unit: free values (R385, log 14). -/
def State.hostBytes (s : State) : Nat → State × List Byte
  | 0 => (s, [])
  | n + 1 =>
    let r := State.hostBytes { s with free := s.free + 1 } n
    (r.1, (Config.freeValue s.free).setWidth 8 :: r.2)

/-- The lines of n bytes. -/
def linesOf (pa n : Nat) : List Nat := (List.range ((pa + n + 63) / 64 - pa / 64)).map (fun i => pa / 64 + i)

/-- A unit's read of bytes at NOW(): each line is recalled from its holder and takes a lease (R50, R51); lines of host
memory are read from the host (R385). -/
def State.unitRead (s : State) (func pa n : Nat) : State × List Byte :=
  if regionOf pa = 4 then
    ((linesOf pa n).foldl (fun s l =>
      let f := s.fresh
      { f.1 with out := f.1.out ++ [Output.hostRead func f.2 (l * 64)] }) s).hostBytes n
  else
    let s1 := (linesOf pa n).foldl (fun s l => ((s.arrive l).lease l func).1) s
    (s1, s1.bytesIn s1.vis pa n)

/-- A walk reads the entries of its tables, each under R50 and R51. -/
def State.walkRead (s : State) (func va : Nat) : List (Nat × Nat) → Nat → Nat → State
  | [], _, _ => s
  | (lo, n) :: t, lvl, tbl =>
    let line := lineOf (tbl + 8 * bits va lo n)
    if regionOf (line * 64) ≠ 0 ∨ (s.paFault (tbl + 8 * bits va lo n) .read).isSome then s
    else
      let s1 := ((s.arrive line).lease line func).1
      match s1.walkStep s1.vis va lo n lvl tbl with
      | .table pa => s1.walkRead func va t (lvl + 1) pa
      | _ => s1

/-- The reads of the walk of an address at a place. -/
def State.walkReads (s : State) (tr func aspace va : Nat) : State :=
  match s.walkStart tr func aspace va with
  | some (lvl, tbl) => s.walkRead func va (walkPlan.drop lvl) lvl tbl
  | none => s

/-- A unit's translation that misses walks: its reads, and what its caches keep (R28). -/
def State.unitWalk (s : State) (tr func aspace va : Nat) (acc : Access) : State :=
  match s.xl tr func aspace va acc with
  | .miss => (s.walkReads tr func aspace va).cacheWalk tr func aspace va (if tr < 96 then [2 * tr + 1] else [])
  | _ => s

/-- The walks of a unit's virtual access of n bytes. -/
def State.unitWalks (s : State) (tr func aspace : Nat) (acc : Access) : Nat → Nat → Nat → State
  | 0, _, _ => s
  | k + 1, va, n =>
    if n = 0 then s
    else
      let len := min n (65536 - va % 65536)
      (s.unitWalk tr func aspace va acc).unitWalks tr func aspace acc k (va + len) (n - len)

/-- A unit's virtual access of n bytes: each 64 KiB page translated, then the addresses of its parts; or the first
fault with its address. -/
def State.xlRange (s : State) (tr func aspace : Nat) (acc : Access) : Nat → Nat → Nat → Except (Reason × Nat) (List (Nat × Nat))
  | 0, _, _ => .ok []
  | k + 1, va, n =>
    if n = 0 then .ok []
    else
      match s.xlNow tr func aspace va acc with
      | .ok pa =>
        let len := min n (65536 - va % 65536)
        match s.xlRange tr func aspace acc k (va + len) (n - len) with
        | .ok l => .ok ((pa, len) :: l)
        | .error e => .error e
      | .bad r => .error (r, va)
      | .miss => .error (.notPresent, va)

/-- The first line of translated parts that holds uncorrectable data (R234), as a physical address. -/
def State.eccIn (s : State) (l : List (Nat × Nat)) : Option Nat :=
  l.findSome? (fun p => (s.ecc.find? (fun e => decide (p.1 / 64 ≤ e) && decide (e * 64 < p.1 + p.2))).map (fun e => e * 64))

/-- Read n bytes at a virtual address for a unit at a place; the lines enter L2 in a class (R41). -/
def State.unitLoad (s : State) (func aspace va n : Nat) (acc : Access) (cls : Nat := 0) (tr : Nat := ioPlace) :
    Except (Reason × Nat) (State × List Byte) :=
  let s0 := s.unitWalks tr func aspace acc (n / 65536 + 2) va n
  match s0.xlRange tr func aspace acc (n / 65536 + 2) va n with
  | .error e => .error e
  | .ok l =>
    if (s0.eccIn l).isSome then .error (.uncorrectable, va)
    else
      .ok (l.foldl (fun st p =>
        let r := st.1.unitRead func p.1 p.2
        ((linesOf p.1 p.2).foldl (fun s i => s.fillL2 i func cls) r.1, st.2 ++ r.2)) (s0, []))

/-- Write bytes at a virtual address for a unit at a place, under a release marker: T and the host requests. -/
def State.unitStore (s : State) (func aspace : Nat) (lau : Option Nat) (va : Nat) (data : List Byte) (marker : Nat := 0)
    (tr : Nat := ioPlace) : Except (Reason × Nat) (State × Nat × List Nat) :=
  let s0 := s.unitWalks tr func aspace .write (data.length / 65536 + 2) va data.length
  match s0.xlRange tr func aspace .write (data.length / 65536 + 2) va data.length with
  | .error e => .error e
  | .ok l =>
    let r := l.foldl (fun st p =>
      let w := st.1.unitWrite func lau marker (p.2 / 64 + 2) p.1 (st.2.2.2.take p.2)
      (w.1, max st.2.1 w.2.1, st.2.2.1 ++ w.2.2, st.2.2.2.drop p.2)) (s0, s0.now, ([] : List Nat), data)
    .ok (r.1, r.2.1, r.2.2.1)

/-- Read a little-endian word of n bytes at a virtual address for a unit. -/
def State.unitWord (s : State) (func aspace va n : Nat) (acc : Access) (tr : Nat := ioPlace) :
    Except (Reason × Nat) (State × Nat) :=
  match s.unitLoad func aspace va n acc 0 tr with
  | .error e => .error e
  | .ok r => .ok (r.1, leNat r.2)

/-! ### Events to the host (R396) -/

/-- The 32 bytes of an event. -/
def Event.bytes (e : Event) : List Byte :=
  toLE 8 (e.kind * 2 ^ 56) ++ toLE 8 e.w1.toNat ++ toLE 8 e.w2.toNat ++ toLE 8 e.w3.toNat

/-- A unit's writes have reached their times: its latest T, and the host's acknowledgements. -/
def State.writesDone (s : State) (t : Nat) (hosts : List Nat) : Bool :=
  decide (t ≤ s.now) && !s.reqs.any (fun r => hosts.contains r.id)

/-- Waiting events enter the ring one after another while EN is 1 and it has space. Once an event's write has its time,
EVQ_TAIL counts it and its MSI-X message follows. An event whose write fails translation is lost (log 18, 79). -/
def State.drainEvents (s : State) (func : Nat) : Nat → State
  | 0 => s
  | n + 1 =>
    let f := s.fn func
    match f.evDue, f.evWait with
    | some t, _ =>
      if !s.writesDone t f.evHosts then s
      else
        let s1 := s.updFn func (fun x => { x with evTail := x.evTail + 1, evDue := none, evHosts := [] })
        State.drainEvents { s1 with out := s1.out ++ [Output.msix func f.evVector] } func n
    | none, [] => s
    | none, e :: t =>
      if !f.evEn || !s.writesDone e.due e.hosts || 2 ^ f.evSize ≤ (f.evTail - f.evHead).toNat then s
      else
        match s.unitStore func 0 none (f.evBase.toNat + 32 * (f.evTail.toNat % 2 ^ f.evSize)) e.bytes with
        | .ok r => (r.1.updFn func (fun x => { x with evWait := t, evDue := some r.2.1, evHosts := r.2.2 })).drainEvents func n
        | .error _ => (s.updFn func (fun x => { x with evWait := t, evLost := true })).drainEvents func n

/-- Steps of `drainEvents` that suffice for every event that waits. -/
def drainFuel : Nat := 2050

/-- Append an event of a function: it waits in the device, or enters the ring (R396). -/
def State.event (s : State) (func kind : Nat) (w1 w2 w3 : Reg) (due : Nat := 0) (hosts : List Nat := []) : State :=
  let f := s.fn func
  let s1 :=
    if f.evWait.length < 1024 then
      s.updFn func (fun x => { x with evWait := x.evWait ++ [{ due := due, hosts := hosts, kind := kind, w1 := w1, w2 := w2, w3 := w3 }] })
    else s.updFn func (fun x => { x with evLost := true })
  s1.drainEvents func drainFuel

/-! ### Translation fault records (R31) -/

/-- The lowest free place of a die's queue. -/
def freePlace (rs : List XRec) (die : Nat) : Nat → Nat → Nat
  | 0, k => k
  | n + 1, k => if rs.any (fun r => r.die == die && r.place == k) then freePlace rs die n (k + 1) else k

/-- Record a replayable fault and park work in its record, or count an overflow and park it for 4,096 ticks. -/
def State.park (s : State) (die func aspace va : Nat) (acc : Access) (why : Reason) (what : Parked) : State :=
  let page := va / 65536
  let bit : BitVec 5 := BitVec.ofNat 5 (2 ^ acc.kind)
  let note : State → XRec → State := fun s r =>
    s.event func 2 (BitVec.ofNat 64 (4096 * r.die + r.place)) (BitVec.ofNat 64 (r.page * 65536))
      (BitVec.ofNat 64 (r.aspace + 256 * r.kinds.toNat))
  match s.xrecs.find? (fun r => r.die == die && r.func == func && r.aspace == aspace && r.page == page) with
  | some r =>
    let r' := { r with kinds := r.kinds ||| bit, parked := r.parked ++ [(what, why, va)] }
    let s1 := { s with xrecs := s.xrecs.map (fun x => if x.die == r.die && x.place == r.place then r' else x) }
    if r'.kinds = r.kinds then s1 else note s1 r'
  | none =>
    if (s.xrecs.filter (fun r => r.die == die)).length < Config.faultQueue then
      let r : XRec := { die := die, place := freePlace s.xrecs die Config.faultQueue 0, func := func, aspace := aspace,
                        page := page, kinds := bit, parked := [(what, why, va)] }
      note { s with xrecs := s.xrecs ++ [r] } r
    else
      { s.updDie die (fun d => { d with fqOverflow := d.fqOverflow + 1 }) with
        rewalks := s.rewalks ++ [{ due := s.now + 4096, what := what }] }

end Sys2Proof.Machine
end

