-- ==== Sys2Proof/Machine/Access.lean ====
section
/-!
DEFINITION. The accesses of program instructions (R288 to R293): addresses, the aperture and wraps, routing,
translation with its stalls and faults, loads, stores and the requests they send.
-/

namespace Sys2Proof.Machine

/-! ### The partition and its windows (R42, R43, R288) -/

/-- Bytes of the group's partition. -/
def Ctx.stashBytes (c : Ctx) : Nat := c.lau.rcd.stash4k * 4096

def smapVa (m : Reg) : Nat := fld m 19 45 * 4096
def smapOff (m : Reg) : Nat := fld m 11 8 * 4096
def smapLen (m : Reg) : Nat := fld m 3 8 * 4096

/-- The partition offset of an address in one of the group's enabled windows. -/
def Group.windowAt (g : Group) (va : Nat) : Option Nat :=
  (g.smap.toList.find? (fun m => decide (smapVa m ≤ va) && decide (va < smapVa m + smapLen m))).map
    (fun m => smapOff m + (va - smapVa m))

/-- A partition offset lies in an enabled window. -/
def Group.offInWindow (g : Group) (off : Nat) : Bool :=
  g.smap.toList.any (fun m => decide (smapOff m ≤ off) && decide (off < smapOff m + smapLen m))

/-- An address lies in the local aperture (R288). -/
def inAperture (va : Nat) : Bool := decide (Config.localBase ≤ va) && decide (va < Config.localBase + 2 ^ 48)

/-- n bytes of a partition. -/
def Group.stashBytesAt (g : Group) (off n : Nat) : List Byte := Memory.bytes g.stash off n
def Group.stashWrite (g : Group) (off : Nat) (d : List Byte) : Group := { g with stash := Memory.write g.stash off d }

/-- The group that an aperture address names, and the offset: `none` where the access faults (R288). -/
def State.aperture (s : State) (c : Ctx) (va n : Nat) : Option (Nat × Nat) :=
  let o := va - Config.localBase
  let off := o % 2 ^ 20
  let gid : Option Nat := if o / 2 ^ 20 % 2 = 0 then some c.who.gid else c.grp.peer
  if !inAperture va ∨ 2 ^ 21 ≤ o ∨ c.stashBytes < off + n then none
  else
    match gid with
    | none => none
    | some k =>
      let g := if k = c.who.gid then some c.grp else s.groups.find k
      match g with
      | none => none
      | some g => if (List.range n).any (fun i => g.offInWindow (off + i)) then none else some (k, off)

/-- Where an access goes (R43): a partition, a line of a mapped window, the home slice; `zero` is a helper lane's load
that would fault (R175). -/
inductive Route where
  | stash (gid off : Nat)
  | window (off pa : Nat)
  | home (pa : Nat)
  | zero
  deriving DecidableEq, Repr

/-- A lane's access. -/
structure Acc where
  lane : Nat
  va : Nat
  route : Route
  deriving DecidableEq, Repr

inductive RouteRes where
  | ok (r : Route)
  | miss
  | bad (r : Reason)

/-- The core holds a copy of a line that serves a load: a window line or a read-buffer line under its lease, or a line
held EXCLUSIVE (R43, R44). -/
def State.copyHeld (s : State) (c : Ctx) (va pa : Nat) : Bool :=
  match c.grp.windowAt va with
  | some off => ((c.grp.lines.find (off / 64)).map (fun l => l.own || decide (s.now < l.lease))).getD false
  | none => (s.core c.core).rbuf.any (fun x => x.1 == rbufTag c.lau.func c.lau.aspace (lineOf pa) && decide (s.now < x.2))

/-- Route an access of n bytes; `now` walks at once on a miss. Data known to be uncorrectable is found at once (R234). -/
def State.route (s : State) (c : Ctx) (va n : Nat) (acc : Access) (now : Bool) : RouteRes :=
  if inAperture va then
    match s.aperture c va n with
    | some (k, off) => .ok (.stash k off)
    | none => .bad .paUnbacked
  else
    match if now then s.xlNow c.core c.lau.func c.lau.aspace va acc else s.xl c.core c.lau.func c.lau.aspace va acc with
    | .miss => .miss
    | .bad r => .bad r
    | .ok pa =>
      if acc != .write && s.ecc.contains (lineOf pa) && !s.copyHeld c va pa then .bad .uncorrectable
      else
        match c.grp.windowAt va with
        | some off => .ok (.window off pa)
        | none => .ok (.home pa)

/-! ### Addresses (R289, R290) -/

/-- Window start and length of a modulo register, if it breaks no rule (R289). -/
def Ctx.wrapOf (c : Ctx) (i : Nat) : Option (Nat × Nat) :=
  let m := c.gang.m[i]?.getD 0
  let len := fld m 32 21
  let base := fld m 0 20
  if fld m 53 11 ≠ 0 ∨ fld m 20 12 ≠ 0 ∨ len < 16 ∨ 2 ^ 20 < len ∨ len % 16 ≠ 0 ∨ base % 16 ≠ 0
      ∨ c.stashBytes < base + len then none
  else some (Config.localBase + base, len)

/-- An address of the group's own partition in the aperture. -/
def Ctx.inOwn (c : Ctx) (va : Nat) : Bool := decide (Config.localBase ≤ va) && decide (va < Config.localBase + c.stashBytes)

/-- WRAPM (R289). -/
def wrapM (w : Nat × Nat) (x : Reg) : Reg :=
  BitVec.ofNat 64 (w.1 + (((x.toNat : Int) - w.1) % (w.2 : Int)).toNat)

/-- WRAP and MREG of MODE 0 (R249). -/
def wrapsOf (x : XM) : Bool := x.mode == 0 && x.addr.toNat / 4096 == 1
def mregOf (x : XM) : Nat := x.addr.toNat / 512 % 8

/-- The wrap of an instruction: the identity without WRAP; `none` where it faults (R289, R291; log 24). -/
def Ctx.wrapFn (c : Ctx) (x : XM) (gB : Reg) : Option (Reg → Reg) :=
  if wrapsOf x then
    match c.wrapOf (mregOf x) with
    | some w => if c.inOwn gB.toNat then some (wrapM w) else none
    | none => none
  else some id

/-- The index of a lane in MODE 1 (R290). -/
def Ctx.index (c : Ctx) (x : XM) (b l : Nat) : Reg :=
  let a := x.addr.toNat
  let w := 8 * 2 ^ (a / 2048)
  let v := if a / 2048 = 3 then (c.gang.src64 b l).toNat else (c.gang.rdV b l).toNat % 2 ^ w
  if a / 1024 % 2 = 1 then sext w v else BitVec.ofNat 64 v

/-- A lane's address before the wrap (R290). -/
def Ctx.laneAddr (c : Ctx) (o : LM) (size l : Nat) : Reg :=
  let gB := c.gang.rdG o.w.a.toNat
  if o.x.mode = 0 then gB + BitVec.ofNat 64 (l * size)
  else gB + c.index o.x o.w.b.toNat l * BitVec.ofNat 64 (2 ^ (o.x.addr.toNat / 128 % 8))

/-- A uniform access's address before the wrap (R290). -/
def Ctx.uniAddr (c : Ctx) (o : LM) : Reg :=
  let gB := c.gang.rdG o.w.a.toNat
  if o.x.mode = 2 then gB + o.x.addr.signExtend 64 else gB

/-- The base update of MODE 0 (R291). -/
def Ctx.bump (c : Ctx) (o : LM) (step : Nat) (wf : Reg → Reg) : Ctx :=
  if o.x.mode = 0 then
    { c with gang := c.gang.wrG o.w.a.toNat (wf (c.gang.rdG o.w.a.toNat + BitVec.ofNat 64 step)) }
  else c

/-! ### Stalls and faults before an access (R30, R31, R216) -/

/-- What stands before an instruction's accesses. -/
inductive Prep where
  | go (xs : List Acc)
  | walk (w : Walk)
  | bad (r : Reason) (d : Detail)

/-- The first access that does not pass, of those that no helper lane makes. -/
def State.firstStop (s : State) (c : Ctx) (n : Nat) (acc : Access) : List (Nat × Nat) → Option (Nat × RouteRes)
  | [] => none
  | (_, va) :: t =>
    match s.route c va n acc false with
    | .ok _ => s.firstStop c n acc t
    | r => some (va, r)

/-- The lanes whose access meets a reason (R216), as their own walk shows it. -/
def State.meeting (s : State) (c : Ctx) (n : Nat) (acc : Access) (r : Reason) (xs : List (Nat × Nat)) : List Nat :=
  (xs.filter (fun x =>
    match s.route c x.2 n acc true with
    | .bad q => q == r
    | _ => false)).map Prod.fst

/-- The lanes that a walk's answer faults: those of its page, and those whose own walk ends so too (log 27). -/
def State.answered (s : State) (c : Ctx) (n : Nat) (acc : Access) (r : Reason) (page : Nat) (xs : List (Nat × Nat)) :
    List Nat :=
  (xs.filter (fun x => x.2 / 65536 == page || (s.meeting c n acc r [x]).contains x.1)).map Prod.fst

/-- The physical address of an access, 0 where it has none: what an UNCORRECTABLE entry names (R219). -/
def State.paOf (s : State) (c : Ctx) (va : Nat) (acc : Access) : Nat :=
  match s.xlNow c.core c.lau.func c.lau.aspace va acc with
  | .ok pa => pa
  | _ => 0

/-- Alignment, then translation and permission with lanes in ascending order (R216); the answer to an access that was
parked or walked comes first (R31). `mask` gives the lanes that a fault names: the lanes that meet it, or every active
lane for a uniform access. -/
def State.prep (s : State) (c : Ctx) (n : Nat) (acc : Access) (mask : List Nat → BitVec 64) (xs : List (Nat × Nat)) :
    Prep :=
  let own := xs.filter (fun x => !c.helper x.1)
  let mis := own.filter (fun x => x.2 % n != 0)
  let fault : Reason → Nat → List Nat → Prep := fun r va0 ls =>
    let va := ((own.filter (fun x => ls.contains x.1)).head?.map Prod.snd).getD va0
    .bad r { addr := BitVec.ofNat 64 va, lanes := mask ls
             d0 := if r = .uncorrectable then BitVec.ofNat 64 (s.paOf c va acc) else 0 }
  if !mis.isEmpty then fault .misaligned 0 (mis.map Prod.fst)
  else
    match c.frag.grant with
    | some (.walkFault r g) => fault r g (s.answered c n acc r (g / 65536) own)
    | _ =>
      match s.firstStop c n acc own with
      | some (va, .bad r) => fault r va (s.meeting c n acc r own)
      | some (va, _) => .walk { who := c.who, func := c.lau.func, aspace := c.lau.aspace, va := va, kind := acc }
      | none =>
        .go (xs.map (fun x =>
          { lane := x.1, va := x.2, route :=
              match (if x.2 % n = 0 then s.route c x.2 n acc true else .miss) with
              | .ok r => if c.helper x.1 && acc != .read then .zero else r
              | _ => .zero }))

/-- A fragment sleeps in WAITCMP. -/
def Frag.inWaitcmp (f : Frag) : Bool :=
  match f.state with
  | .sleeping .monitor | .sleeping (.monitorFull _) => true
  | _ => false

/-- The gang of a group. -/
def State.gangAt (s : State) (gid gang : Nat) : Option Gang := (s.groups.find gid).bind (fun g => g.gangs[gang]?)

/-- A gang's memory instructions that are not globally performed (R224). -/
def State.insOut (s : State) (gid gang : Nat) : Nat :=
  let a := (s.reqs.filter (fun r => r.parts.any (fun p =>
    match p.who with
    | some w => w.gid == gid && w.gang == gang
    | none => false))).map Req.ins
  let b := (s.pending.filter (fun p => p.gangs.contains (gid, gang) && decide (s.now < p.t))).map Pending.ins
  let c := ((s.core (coreOf gid)).storeJobs.filter (fun j => j.who.gid == gid && j.who.gang == gang)).length
  let d := ((s.gangAt gid gang).map (fun g => (g.frags.filter Frag.inWaitcmp).length)).getD 0
  (a ++ b).eraseDups.length + c + d

/-- The gang may issue another memory instruction (R224). -/
def State.memFull (s : State) (c : Ctx) : Bool := decide (Config.memLimit ≤ s.insOut c.who.gid c.who.gang)

/-- A memory instruction whose SKIP bit is set is performed already (R231, R233). -/
def Ctx.skipped (c : Ctx) : Bool := c.frag.skip.getLsbD 0
def Ctx.unskip (c : Ctx) : Ctx := { c with frag := { c.frag with skip := c.frag.skip >>> 1 } }

/-- An access of an instruction has still to be performed: a request of it stands. -/
def State.insReq (s : State) (gid gang ins : Nat) : Bool :=
  s.reqs.any (fun r => r.parts.any (fun p => p.ins == ins &&
    (match p.who with
     | some w => w.gid == gid && w.gang == gang
     | none => false)))

/-- A memory instruction has issued: its SKIP bit is used, and it enters the checkpoint (R161), which begins at the oldest
one with an access not performed. `ins` is one more than its number, 0 for one that performs as it issues. -/
def Ctx.enter (c : Ctx) (s : State) (ins : Nat) : Ctx :=
  { c.unskip with frag := { c.unskip.frag with
      ckpt := (c.frag.ckpt ++ [(ins, c.frag.pc)]).dropWhile (fun x => x.1 == 0 || !s.insReq c.who.gid c.who.gang (x.1 - 1)) } }

/-- Two misses of one window (R30). -/
def Walk.same (x y : Walk) : Bool := x.func == y.func && x.aspace == y.aspace && x.va / 65536 == y.va / 65536

/-- The distinct windows of misses, in the order they came. -/
def distinctWalks (ws : List Walk) : List Walk := ws.foldl (fun l w => if l.any w.same then l else l ++ [w]) []

/-- A core's miss entries, one to a window (R30). -/
def State.missesOf (s : State) (core : Nat) : List Walk := distinctWalks (s.walks.filter (fun w => coreOf w.who.gid == core))

/-- Every miss entry of the core is busy with another window (R30). -/
def State.missFull (s : State) (w : Walk) : Bool :=
  let m := s.missesOf (coreOf w.who.gid)
  !m.any w.same && decide (64 ≤ m.length)

/-- Queue a walk and stall, or stall for a free miss entry (R30). -/
def State.stallWalk (s : State) (c : Ctx) (w : Walk) : State :=
  let c1 := { c with frag := { c.frag with grant := none } }
  if s.missFull w then s.put (c1.stall .missFull)
  else { s.put (c1.stall .walk) with walks := s.walks ++ [w] }

/-! ### What a gang has outstanding (R49, R50, R153, R154) -/

def ReqPart.ofGang (p : ReqPart) (gid gang : Nat) : Bool :=
  match p.who with
  | some w => w.gid == gid && w.gang == gang
  | none => false

def Req.ofGang (r : Req) (gid gang : Nat) : Bool := r.parts.any (fun p => p.ofGang gid gang)

def Req.isLoad (r : Req) : Bool :=
  match r.kind with
  | .load _ _ _ | .compare _ _ _ => true
  | _ => false

def Req.isAtomic (r : Req) : Bool :=
  match r.kind with
  | .atomic _ _ _ _ => true
  | _ => false

/-- A write that has not returned its T. -/
def Req.noT (r : Req) : Bool :=
  !r.isLoad && (match r.kind, r.stage with
    | .own _ _, _ => true
    | _, .timed _ | _, .performed => false
    | _, _ => true)

/-- The gang has a write whose T has not returned (R49: the settled %wct waits for it). -/
def State.unsettled (s : State) (gid gang : Nat) : Bool := s.reqs.any (fun r => r.ofGang gid gang && r.noT)

/-- The gang has a load, LDC or atomic that has not been performed (R153, R154). -/
def State.loadsOut (s : State) (gid gang : Nat) : Bool :=
  s.reqs.any (fun r => r.ofGang gid gang && (r.isLoad || r.isAtomic))

/-- The gang has a write to a line that is on its way or waits for its T (R50). -/
def State.ownWrite (s : State) (gid gang line : Nat) : Bool :=
  s.reqs.any (fun r => r.ofGang gid gang && !r.isLoad && r.stage != .performed && r.parts.any (fun p => lineOf p.pa == line))
  || s.pending.any (fun p => p.gangs.contains (gid, gang) && decide (s.now < p.t) && p.onLine line)

/-- The gang has a request for a line that has still to be performed. -/
def State.ownReq (s : State) (gid gang line : Nat) : Bool :=
  s.reqs.any (fun r => r.ofGang gid gang && r.stage != .performed && r.parts.any (fun p => p.ofGang gid gang && lineOf p.pa == line))

/-- A load of a lane to bytes that has still to be performed: a later one of the lane does not pass it (R151). -/
def State.loadOut (s : State) (gid gang lane pa n : Nat) : Bool :=
  s.reqs.any (fun r => r.isLoad && r.parts.any (fun p =>
    p.ofGang gid gang && p.lane == lane && decide (p.pa < pa + n) && decide (pa < p.pa + p.data.length)))

/-- Two parts share a byte. -/
def ReqPart.meets (p q : ReqPart) : Bool :=
  decide (p.pa < q.pa + q.data.length) && decide (q.pa < p.pa + p.data.length)

/-- Two parts come from one gang. -/
def ReqPart.sameGang (p q : ReqPart) : Bool :=
  match p.who, q.who with
  | some a, some b => a.gid == b.gid && a.gang == b.gang
  | _, _ => false

/-- A request stands on its way: it has not been performed, nor has it a T. -/
def Req.onWay (r : Req) : Bool :=
  match r.stage with
  | .performed | .timed _ => false
  | _ => true

/-- An earlier request of the gang must reach the location first (R150, R151, R176): stores of a lane in program
order, loads of a lane in program order, a load after the gang's earlier store and a store after its earlier
load (log 63). -/
def State.behind (s : State) (r : Req) : Bool :=
  s.reqs.any (fun e => e.id != r.id && e.onWay &&
    e.parts.any (fun p => r.parts.any (fun q =>
      p.sameGang q && p.meets q && (decide (p.ins < q.ins) || (p.ins == q.ins && decide (e.id < r.id))) &&
        (e.isLoad != r.isLoad || p.lane == q.lane || p.ins == q.ins))))

/-! ### Registers of an access (R294, R296) -/

/-- Write loaded bytes to a lane's registers from `dst` on, or to a uniform register; short values are extended. -/
def Gang.wrLoaded (g : Gang) (lane dst off size : Nat) (signed : Bool) (d : List Byte) : Gang :=
  let x := leNat d
  if lane = 64 then g.wrG dst (if signed then sext (8 * size) x else BitVec.ofNat 64 x)
  else if size < 4 then g.wrV dst lane (if signed then (sext (8 * size) x).setWidth 32 else BitVec.ofNat 32 x)
  else if size = 4 then g.wrV dst lane (BitVec.ofNat 32 x)
  else g.wrV2 (dst + off / 4) lane (BitVec.ofNat 64 x)

/-- The bytes that a store takes from register C (R294). -/
def Gang.storeBytes (g : Gang) (lane reg size : Nat) : List Byte :=
  if lane = 64 then toLE size (g.rdG reg).toNat
  else if size ≤ 4 then toLE size (g.src32 reg lane).toNat
  else if size = 8 then toLE 8 (g.src64 reg lane).toNat
  else toLE 8 (g.src64 reg lane).toNat ++ toLE 8 (g.src64 (reg + 2) lane).toNat

/-- The units of an access of `size` bytes: (offset, bytes) (R292). -/
def unitsOfSize (size : Nat) : List (Nat × Nat) := if size = 16 then [(0, 8), (8, 8)] else [(0, size)]

/-- Gather parts by line: each part joins the first list of its line. -/
def addByLine (p : ReqPart) : List (List ReqPart) → List (List ReqPart)
  | [] => [[p]]
  | g :: t => if (g.head?.map (fun q => lineOf q.pa)) = some (lineOf p.pa) then (g ++ [p]) :: t else g :: addByLine p t

def groupByLine (ps : List ReqPart) : List (List ReqPart) := ps.foldl (fun gs p => addByLine p gs) []

/-- Send a request of an instruction. -/
def State.post (s : State) (c : Ctx) (kind : ReqKind) (parts : List ReqPart) (total : BitVec 64) (marker : Nat)
    (stage : ReqStage) : State :=
  let f := s.fresh
  let r : Req := { id := f.2, ins := s.nextIns, who := some c.who, func := c.lau.func, aspace := c.lau.aspace, kind := kind,
                   parts := parts.map (fun p => { p with ins := s.nextIns }), total := total, marker := marker, stage := stage, old := 0, det := c.lau.rcd.det }
  { f.1 with reqs := f.1.reqs ++ [r] }

/-- A part of an access at a virtual and a physical address. -/
def Ctx.part (c : Ctx) (lane dst va pa off : Nat) (data : List Byte) : ReqPart :=
  { who := some c.who, pc := c.frag.pc, ins := 0, lane := lane, dst := dst, va := va, pa := pa, off := off, data := data
    opnd := 0, cmp := 0, pre := [] }

/-- What a request sends to the host (R39, R385). -/
def Req.hostOut (r : Req) : List Output :=
  match r.kind with
  | .store | .unit | .own _ _ => r.parts.map (fun p => Output.hostWrite r.func r.id p.pa p.data)
  | .load _ _ _ | .compare _ _ _ => [Output.hostRead r.func r.id (r.line * 64)]
  | .atomic op ty _ _ =>
    [Output.hostAtomic r.func r.id ((r.parts.head?.map ReqPart.pa).getD 0) op ty r.total ((r.parts.head?.map ReqPart.cmp).getD 0)]

/-- A request goes on to the host. -/
def State.sendHost (s : State) (r : Req) : State := { s.setReq { r with stage := .sent } with out := s.out ++ r.hostOut }

/-- A request to host memory passes its home slice: it waits behind what holds its line and behind earlier requests of
its gang, and with a marker until NOW() reaches it (R39, R54). -/
def State.hostMayGo (s : State) (r : Req) : Bool :=
  r.region == 4 && r.stage == .flight && !s.lineHeld r.line && !s.behind r && decide (r.marker ≤ s.now)

/-- The request just sent goes on to the host where its home slice lets it. -/
def State.toHost (s : State) : State :=
  match s.reqs.getLast? with
  | some r => if s.hostMayGo r then { s with reqs := s.reqs.dropLast ++ [{ r with stage := .sent }], out := s.out ++ r.hostOut } else s
  | none => s

/-! ### Loads (R296, R43, R44) -/

/-- A load unit that is served at once, with its bytes: local space, a window line in the stash under its lease, a
read-buffer line under its lease; not before an earlier load of the lane to those bytes, nor past the gang's own
write to the line (R150, R151). -/
def State.servedNow (s : State) (c : Ctx) (a : Acc) (off n : Nat) : Option (List Byte) :=
  let clear : Nat → Bool := fun pa =>
    !s.loadOut c.who.gid c.who.gang a.lane (pa + off) n && !s.ownWrite c.who.gid c.who.gang (lineOf pa)
  match a.route with
  | .zero => some (List.replicate n 0)
  | .stash k o =>
    let g := if k = c.who.gid then some c.grp else s.groups.find k
    g.map (fun g => g.stashBytesAt (o + off) n)
  | .window o pa =>
    match c.grp.lines.find (o / 64) with
    | some l => if (l.own || decide (s.now < l.lease)) && clear pa then some (c.grp.stashBytesAt (o + off) n) else none
    | none => none
  | .home pa =>
    let tag := rbufTag c.lau.func c.lau.aspace (lineOf pa)
    if (s.core c.core).rbuf.any (fun x => x.1 == tag && decide (s.now < x.2)) && clear pa then
      some (s.bytesIn s.vis (pa + off) n)
    else none

/-- The physical address of a unit that goes to a home slice, and what its line fills. -/
def Acc.missPa (a : Acc) (off : Nat) : Option (Nat × Fill) :=
  match a.route with
  | .window o pa => some (pa + off, .window (o / 64) (a.va / 64 * 64))
  | .home pa => some (pa + off, .readBuffer)
  | _ => none

/-- The effect of a load: registers that are served at once, and one request per line for the rest. -/
def State.loadAccs (s : State) (c : Ctx) (xs : List Acc) (dst size : Nat) (signed : Bool) : State × Ctx :=
  let us := xs.flatMap (fun a => (unitsOfSize size).map (fun u => (a, u.1, u.2)))
  let gang := us.foldl (fun g u =>
    match s.servedNow c u.1 u.2.1 u.2.2 with
    | some d => g.wrLoaded u.1.lane dst u.2.1 size signed d
    | none => g) c.gang
  let miss := us.filterMap (fun u =>
    if (s.servedNow c u.1 u.2.1 u.2.2).isSome then none
    else (u.1.missPa u.2.1).map (fun m => (m.2, c.part u.1.lane dst (u.1.va + u.2.1) m.1 u.2.1 (List.replicate u.2.2 0))))
  let fills := (miss.map Prod.fst).eraseDups
  let s1 := fills.foldl (fun s f =>
    (groupByLine ((miss.filter (fun m => m.1 == f)).map Prod.snd)).foldl (fun s ps =>
      (s.post c (.load size signed f) ps 0 0 .flight).toHost) s) s
  (s1, { c with gang := gang })

/-! ### Stores (R296, R44, R52) -/

/-- Write one store unit to a partition or to a window line that is held EXCLUSIVE; `none` where a request goes. -/
def Group.storeLocal (g : Group) (r : Route) (off : Nat) (d : List Byte) : Option Group :=
  match r with
  | .window o pa =>
    match g.lines.find (o / 64) with
    | some l =>
      if l.own then
        let at0 := (pa + off) % 64
        let dirty := d.foldl (fun (a : SMap Byte × Nat) b => (SMap.set a.1 a.2 b, a.2 + 1)) (l.dirty, at0)
        some { g.stashWrite (o + off) d with lines := g.lines.set (o / 64) { l with dirty := dirty.1 } }
      else none
    | none => none
  | _ => none

/-- Lines that are never held EXCLUSIVE: alias lines and lines of host memory (R23, R39). -/
def neverOwned (pa : Nat) : Bool := regionOf pa == 1 || regionOf pa == 4

/-- The effect of a store: local bytes in ascending lane order; ownership requests for window lines; one request per
line for the rest; the lines' read-buffer copies (R52) and the copies of lines that are never held EXCLUSIVE are
dropped. A line with an earlier request of the gang on its way is stored to after it (R158). Also whether ownership
is awaited (log 94). -/
def State.storeAccs (s : State) (c : Ctx) (xs : List Acc) (reg size : Nat) : State × Ctx × Bool :=
  let us := xs.flatMap (fun a => (unitsOfSize size).map (fun u => (a, u.1, ((c.gang.storeBytes a.lane reg size).drop u.1).take u.2)))
  let st := us.foldl (fun (a : State × Ctx × List ((Nat × Nat) × ReqPart) × List ReqPart) u =>
    let s := a.1
    let c := a.2.1
    match u.1.route with
    | .zero => a
    | .stash k o =>
      if k = c.who.gid then (s, { c with grp := c.grp.stashWrite (o + u.2.1) u.2.2 }, a.2.2)
      else (s.updGroup k (fun g => g.stashWrite (o + u.2.1) u.2.2), c, a.2.2)
    | .window o pa =>
      let part := c.part u.1.lane 0 (u.1.va + u.2.1) (pa + u.2.1) u.2.1 u.2.2
      if neverOwned pa then
        (s, { c with grp := { c.grp with lines := c.grp.lines.del (o / 64) } }, a.2.2.1, a.2.2.2 ++ [part])
      else
        let s := s.dropRbuf c.core (lineOf (pa + u.2.1))
        match if s.ownReq c.who.gid c.who.gang (lineOf pa) then none else c.grp.storeLocal u.1.route u.2.1 u.2.2 with
        | some g => (s, { c with grp := g }, a.2.2)
        | none => (s, c, a.2.2.1 ++ [(((o + u.2.1) / 64, (u.1.va + u.2.1) / 64 * 64), part)], a.2.2.2)
    | .home pa => (s, c, a.2.2.1, a.2.2.2 ++ [c.part u.1.lane 0 (u.1.va + u.2.1) (pa + u.2.1) u.2.1 u.2.2])) (s, c, [], [])
  let owns := (st.2.2.1.map Prod.fst).eraseDups
  let s1 := owns.foldl (fun s k =>
    s.post st.2.1 (.own k.1 k.2) ((st.2.2.1.filter (fun x => x.1 == k)).map Prod.snd) 0 0 .flight) st.1
  let s2 := (groupByLine st.2.2.2).foldl (fun s ps =>
    let s' := match ps.head? with
      | some p => s.dropRbuf c.core (lineOf p.pa)
      | none => s
    (s'.post st.2.1 .store ps 0 0 .flight).toHost) s1
  (s2, st.2.1, !owns.isEmpty)

/-! ### Running a memory instruction -/

/-- What a memory instruction does once its accesses pass. -/
inductive MemRes where
  | ok (s : State) (c : Ctx) (w : Option Wait)
  | wait (s : State) (w : Wait)
  | sleep (s : State) (w : Wait)
  | redo (s : State) (c : Ctx)
  | bad (r : Reason) (d : Detail)

/-- An older access of the gang, in another fragment, has still to pass translation (R161). -/
def Ctx.olderWaits (c : Ctx) : Bool :=
  c.gang.frags.any (fun f => f.id != c.frag.id &&
    (match f.state with
     | .stalled .walk | .stalled .missFull | .stalled .parked | .stalled (.rewalk _) => true
     | _ => false))

/-- A memory instruction of two words: SKIP, the limit of R224, the stops of `prep`, then its effect; the base update
and the retirement follow. `upd` updates the base. -/
def State.memRun (s : State) (c : Ctx) (size : Nat) (acc : Access) (mask : List Nat → BitVec 64)
    (xs : List (Nat × Nat)) (upd : Ctx → Ctx) (eff : State → Ctx → List Acc → MemRes) : State :=
  if c.skipped then s.put (((upd c).enter s 0).retire 2)
  else if s.memFull c then s.put (c.stall .memLimit)
  else if acc != .read && c.olderWaits then s.put (c.stall .older)
  else
    match s.prep c size acc mask xs with
    | .bad r d => s.put (c.fault s.now r d)
    | .walk w => s.stallWalk c w
    | .go as =>
      match eff s c as with
      | .bad r d => s.put (c.fault s.now r d)
      | .wait s' w => s'.put (((s'.ctxOf c.who).getD c).stall w)
      | .redo s' c' => s'.put c'.detRetry
      | .sleep s' w => s'.put (((s'.ctxOf c.who).getD c).sleep w)
      | .ok s' c' w =>
        let c1 := ((upd c').enter s' (s'.nextIns + 1)).retire 2
        let c2 := match w with
          | some w => { c1 with frag := { c1.frag with state := .stalled w } }
          | none => c1
        { s'.put c2 with nextIns := s'.nextIns + 1 }

/-- A wrap fault (R216, R289): ADDR is the base, or the lowest active lane's address before the wrap. -/
def Ctx.wrapDetail (c : Ctx) (o : LM) (va : Reg) (lanes : BitVec 64) : Detail :=
  let gB := c.gang.rdG o.w.a.toNat
  { addr := if c.inOwn gB.toNat then va else gB, lanes := lanes }

/-- A lane memory instruction (R290, R291, R296). -/
def State.laneMem (s : State) (o : LM) (size : Nat) (acc : Access) (eff : State → Ctx → List Acc → MemRes) :
    Host.Outcome State Fault Refusal :=
  s.onCtx (fun c =>
    let gB := c.gang.rdG o.w.a.toNat
    let ls := c.active o.w.g
    match c.wrapFn o.x gB with
    | some wf =>
      s.memRun c size acc laneMask (ls.map (fun l => (l, (wf (c.laneAddr o size l)).toNat)))
        (fun c => c.bump o (c.width * size) wf) eff
    | none =>
      let mis := (c.contrib o.w.g).filter (fun l => (c.laneAddr o size l).toNat % size != 0)
      match mis with
      | l :: _ => s.put (c.fault s.now .misaligned { addr := c.laneAddr o size l, lanes := laneMask mis })
      | [] =>
        s.put (c.fault s.now .paUnbacked
          (c.wrapDetail o (((c.contrib o.w.g).head?.map (fun l => c.laneAddr o size l)).getD gB) (c.faultLanes o.w.g))))

/-- A uniform memory instruction (R290, R291, R297): a false guard changes nothing. `keep` skips the base update when
the destination is the base. -/
def State.uniMem (s : State) (o : LM) (size : Nat) (acc : Access) (keep : Bool)
    (eff : State → Ctx → List Acc → MemRes) : Host.Outcome State Fault Refusal :=
  s.onCtx (fun c =>
    if !c.gang.qpred o.w.g.toNat then s.put (c.retire 2)
    else
      let gB := c.gang.rdG o.w.a.toNat
      let x := c.uniAddr o
      let mask : List Nat → BitVec 64 := fun _ => c.faultLanes 7
      match c.wrapFn o.x gB with
      | some wf =>
        s.memRun c size acc mask [(64, (wf x).toNat)] (fun c => if keep then c else c.bump o size wf) eff
      | none =>
        if x.toNat % size ≠ 0 then s.put (c.fault s.now .misaligned { addr := x, lanes := c.faultLanes 7 })
        else s.put (c.fault s.now .paUnbacked (c.wrapDetail o x (c.faultLanes 7))))

end Sys2Proof.Machine
end

