-- ==== Sys2Proof/Machine/LaneMem.lean ====
section
/-!
DEFINITION. Loads, stores, PREF and LDC (R294 to R299).
-/

namespace Sys2Proof.Machine

/-- A lane load (R296). -/
def State.laneLoad (s : State) (o : LM) (size : Nat) (signed : Bool) : Host.Outcome State Fault Refusal :=
  s.laneMem o size .read (fun s c xs =>
    let r := s.loadAccs c xs o.w.d.toNat size signed
    .ok r.1 r.2 none)

/-- A lane store (R296); it waits for the ownership of window lines (R44). -/
def State.laneStore (s : State) (o : LM) (size : Nat) : Host.Outcome State Fault Refusal :=
  s.laneMem o size .write (fun s c xs =>
    let r := s.storeAccs c xs o.x.c.toNat size
    .ok r.1 r.2.1 (if r.2.2 then some .ownership else none))

/-- A uniform load (R297). -/
def State.uniLoad (s : State) (o : LM) (size : Nat) (signed : Bool) : Host.Outcome State Fault Refusal :=
  s.uniMem o size .read (o.w.d == o.w.a) (fun s c xs =>
    let r := s.loadAccs c xs o.w.d.toNat size signed
    .ok r.1 r.2 none)

/-- A uniform store (R297). -/
def State.uniStore (s : State) (o : LM) (size : Nat) : Host.Outcome State Fault Refusal :=
  s.uniMem o size .write false (fun s c xs =>
    let r := s.storeAccs c xs o.x.c.toNat size
    .ok r.1 r.2.1 (if r.2.2 then some .ownership else none))

def execLdN8Lane (o : LM) (s : State) := s.laneLoad o 1 false
def execLdI8Lane (o : LM) (s : State) := s.laneLoad o 1 true
def execLdN16Lane (o : LM) (s : State) := s.laneLoad o 2 false
def execLdI16Lane (o : LM) (s : State) := s.laneLoad o 2 true
def execLdN32Lane (o : LM) (s : State) := s.laneLoad o 4 false
def execLdN64Lane (o : LM) (s : State) := s.laneLoad o 8 false
def execLdN128Lane (o : LM) (s : State) := s.laneLoad o 16 false
def execStN8Lane (o : LM) (s : State) := s.laneStore o 1
def execStN16Lane (o : LM) (s : State) := s.laneStore o 2
def execStN32Lane (o : LM) (s : State) := s.laneStore o 4
def execStN64Lane (o : LM) (s : State) := s.laneStore o 8
def execStN128Lane (o : LM) (s : State) := s.laneStore o 16
def execLdN8Uniform (o : LM) (s : State) := s.uniLoad o 1 false
def execLdN16Uniform (o : LM) (s : State) := s.uniLoad o 2 false
def execLdN32Uniform (o : LM) (s : State) := s.uniLoad o 4 false
def execLdI32Uniform (o : LM) (s : State) := s.uniLoad o 4 true
def execLdN64Uniform (o : LM) (s : State) := s.uniLoad o 8 false
def execStN8Uniform (o : LM) (s : State) := s.uniStore o 1
def execStN16Uniform (o : LM) (s : State) := s.uniStore o 2
def execStN32Uniform (o : LM) (s : State) := s.uniStore o 4
def execStN64Uniform (o : LM) (s : State) := s.uniStore o 8

/-- PREF (R298): lines enter L2; no fault, and no base update where the wrap would fault (log 93). -/
def execPref (o : LM) (s : State) : Host.Outcome State Fault Refusal :=
  s.onCtx (fun c =>
    match c.wrapFn o.x (c.gang.rdG o.w.a.toNat) with
    | none => s.put ((c.enter s 0).retire 2)
    | some wf =>
      let s1 := if c.skipped then s else (c.contrib o.w.g).foldl (fun s l =>
        let va := (wf (c.laneAddr o 64 l)).toNat / 64 * 64
        if inAperture va then s
        else
          match s.xlNow c.core c.lau.func c.lau.aspace va .read, c.grp.windowAt va with
          | .ok pa, none => s.fillL2 (lineOf pa) c.lau.func 0
          | _, _ => s) s
      s1.put (((c.bump o (c.width * 64) wf).enter s1 0).retire 2))

/-- A line of the constant buffer that was read after a kernel's launch (R62; log 60). -/
def Core.constLine (k : Core) (func aspace line start : Nat) : Option (List Byte) :=
  (k.cbuf.find? (fun x => x.func == func && x.aspace == aspace && x.line == line && decide (start < x.readAt))).map CLine.data

/-- The gang has an LDC of those bytes that has not been performed (R62). -/
def State.ldcOut (s : State) (gid gang pa n : Nat) : Bool :=
  s.reqs.any (fun r =>
    (match r.kind with
     | .load _ _ .const => true
     | _ => false) &&
    r.parts.any (fun p => p.ofGang gid gang && decide (p.pa < pa + n) && decide (pa < p.pa + p.data.length)))

/-- LDC (R299): through the core's constant buffer, which fills from the home slice. A line in the buffer serves it once
no earlier LDC of the gang to those bytes is on its way (R62). -/
def execLdc (o : LM) (s : State) : Host.Outcome State Fault Refusal :=
  let size := tyBytes o.x.ty.toNat
  let signed := tySigned o.x.ty.toNat
  s.uniMem o size .read true (fun s c xs =>
    match xs.head? with
    | none => .ok s c none
    | some a =>
      let go : Nat → MemRes := fun pa =>
        match (if s.ldcOut c.who.gid c.who.gang pa size then none
               else (s.core c.core).constLine c.lau.func c.lau.aspace (lineOf pa) c.lau.start) with
        | some d => .ok s { c with gang := c.gang.wrLoaded 64 o.w.d.toNat 0 size signed ((d.drop (pa % 64)).take size) } none
        | none =>
          let ps := [c.part 64 o.w.d.toNat a.va pa 0 (List.replicate size 0)]
          .ok ((s.post c (.load size signed .const) ps 0 0 .flight).toHost) c none
      match a.route with
      | .home pa | .window _ pa => go pa
      | _ => .bad .paUnbacked { addr := BitVec.ofNat 64 a.va, lanes := c.faultLanes 7 })

end Sys2Proof.Machine
end

