-- ==== Sys2Proof/Machine/Atomic.lean ====
section
/-!
DEFINITION. Atomics, WAITCMP, the fences and CINV (R300 to R306).
-/

namespace Sys2Proof.Machine

/-- One lane's operation: operand (CAS's new value) and CAS's compare value (R249, R301). -/
structure AtomIn where
  acc : Acc
  opnd : Nat
  cmp : Nat

/-- The operand registers of a lane (R300). -/
def Ctx.atomIn (c : Ctx) (op ty creg : Nat) (a : Acc) : AtomIn :=
  let big := tyWidth ty == 64
  let rd : Nat → Nat := fun r =>
    if a.lane = 64 then (c.gang.rdG r).toNat % 2 ^ tyWidth ty else c.srcW big r a.lane
  if op = 8 then { acc := a, opnd := rd (creg + if big then 2 else 1), cmp := rd creg }
  else { acc := a, opnd := rd creg, cmp := 0 }

/-- Write an old value to D (R301). -/
def Gang.wrOld (g : Gang) (ty lane dst x : Nat) : Gang := g.wrLoaded lane dst 0 (tyBytes ty) (tySigned ty) (toLE (tyBytes ty) x)

/-- The prefixes of combined operands, in order (R57): each operand with what was combined before it, and the whole. -/
def combineOps (op ty : Nat) : Option Nat → List Nat → List (Option Nat) × Option Nat
  | acc, [] => ([], acc)
  | acc, x :: t =>
    let nx := match acc with
      | some s => atomNew op ty s x 0
      | none => x
    let r := combineOps op ty (some nx) t
    (acc :: r.1, r.2)

/-- A requester's value from the old one and the operands merged before it (R57). -/
def splitOld (op ty : Nat) (old : Nat) (pre : List (BitVec 64)) : Nat :=
  pre.foldl (fun v x => atomNew op ty v x.toNat 0) old

/-- Lists of operations on one address, in ascending lane order; XCHG and CAS stay apart (R302). -/
def addByAddr (merge : Bool) (x : AtomIn) : List (List AtomIn) → List (List AtomIn)
  | [] => [[x]]
  | g :: t =>
    if merge && (g.head?.map (fun y => y.acc.route)) == some x.acc.route then (g ++ [x]) :: t else g :: addByAddr merge x t

/-- Perform one arrival in a partition (R303): each lane's old value, and the new bytes. -/
def Ctx.atomLocal (op ty dst : Nat) (xs : List AtomIn) (g : Gang) (old : Nat) : Gang × Nat :=
  if op < 7 then
    let r := combineOps op ty none (xs.map AtomIn.opnd)
    let g' := (xs.zip r.1).foldl (fun g x =>
      g.wrOld ty x.1.acc.lane dst (match x.2 with | some p => atomNew op ty old p 0 | none => old)) g
    (g', match r.2 with | some t => atomNew op ty old t 0 | none => old)
  else
    xs.foldl (fun a x => (a.1.wrOld ty x.acc.lane dst a.2, atomNew op ty a.2 x.opnd x.cmp)) (g, old)

/-- The operations that the host performs (R385). -/
def hostAtomOk (op ty : Nat) : Bool := (op == 0 || op == 7 || op == 8) && (ty == 2 || ty == 3 || ty == 6 || ty == 7)

/-- A mergeable request reaches a router: it is held in the merge buffer where one of the sixteen places is free (R55). -/
def State.intoRouter (s : State) (router : Nat) : ReqStage :=
  let held := s.reqs.filter (fun r => match r.stage with | .merging _ x => x == router | _ => false)
  if held.length < 16 then .merging s.now router else .flight

/-- The effect of an ATOM (R300 to R303). -/
def State.atomAccs (s0 : State) (c0 : Ctx) (xs : List Acc) (o : LM) (op ty : Nat) : MemRes :=
  let rel := o.x.ord.toNat / 2 == 1
  let acq := o.x.ord.toNat % 2 == 1
  let n := tyBytes ty
  let s := if rel then s0.writebackAll c0.who.gid else s0
  let c := if rel then (s.ctxOf c0.who).getD c0 else c0
  let hostBad := (xs.filter (fun a =>
    match a.route with
    | .home pa | .window _ pa => regionOf pa == 4 && !hostAtomOk op ty
    | _ => false))
  let isLocal := xs.any (fun a => match a.route with | .stash _ _ => true | _ => false)
  match hostBad.head? with
  | some a => .bad .paUnbacked { addr := BitVec.ofNat 64 a.va,
                                 lanes := if a.lane = 64 then c.faultLanes 7 else laneMask (hostBad.map Acc.lane) }
  | none =>
    if rel && s.unsettled c.who.gid c.who.gang then .wait s .settle
    else if rel && isLocal && decide (s.now < c.gang.wct) && c.frag.grant != some .passed then .wait s (.wct c.gang.wct false)
    else
      let marker := if rel then c.gang.wct else 0
      let ins := xs.map (c.atomIn op ty o.x.c.toNat)
      let groups := ins.foldl (fun gs x => addByAddr (decide (op < 7)) x gs) []
      let dst := o.w.d.toNat
      let r := groups.foldl (fun (a : State × Ctx) xs =>
        let s := a.1
        let c := a.2
        let send : State → Ctx → Nat → Nat → State := fun s c va pa =>
          let k := combineOps op ty none (xs.map AtomIn.opnd)
          let parts := (xs.zip k.1).map (fun x =>
            { c.part x.1.acc.lane dst va pa 0 (List.replicate n 0) with
              opnd := BitVec.ofNat 64 x.1.opnd, cmp := BitVec.ofNat 64 x.1.cmp
              pre := (match x.2 with | some p => [BitVec.ofNat 64 p] | none => []) })
          let total := BitVec.ofNat 64 (k.2.getD 0)
          (s.post c (.atomic op ty rel acq) parts total marker
            (if decide (op < 7) && !c.lau.rcd.det && regionOf pa != 4 then s.intoRouter c.core else .flight)).toHost
        match xs.head? with
        | none => a
        | some h =>
          match h.acc.route with
          | .zero => (s, { c with gang := xs.foldl (fun g x => g.wrOld ty x.acc.lane dst 0) c.gang })
          | .stash k off =>
            let g := if k = c.who.gid then c.grp else (s.groups.find k).getD c.grp
            let q := Ctx.atomLocal op ty dst xs c.gang (leNat (g.stashBytesAt off n))
            if k = c.who.gid then (s, { c with grp := c.grp.stashWrite off (toLE n q.2), gang := q.1 })
            else (s.updGroup k (fun g => g.stashWrite off (toLE n q.2)), { c with gang := q.1 })
          | .window off pa =>
            let s1 := ((s.put c).writeback c.who.gid (off / 64)).dropLine c.who.gid (off / 64)
            let c1 := (s1.ctxOf c.who).getD c
            (send s1 c1 h.acc.va pa, c1)
          | .home pa => (send s c h.acc.va pa, c)) (s, c)
      .ok r.1 r.2 (if acq then some .acquire else none)

def State.laneAtom (s : State) (o : LM) (op : Nat) : Host.Outcome State Fault Refusal :=
  s.laneMem o (tyBytes o.x.ty.toNat) .atomic (fun s c xs => s.atomAccs c xs o op o.x.ty.toNat)

def State.uniAtom (s : State) (o : LM) (op : Nat) : Host.Outcome State Fault Refusal :=
  s.uniMem o (tyBytes o.x.ty.toNat) .atomic (o.w.d == o.w.a) (fun s c xs => s.atomAccs c xs o op o.x.ty.toNat)

def execAtomAddLane (o : LM) (s : State) := s.laneAtom o 0
def execAtomFaddLane (o : LM) (s : State) := s.laneAtom o 1
def execAtomMinLane (o : LM) (s : State) := s.laneAtom o 2
def execAtomMaxLane (o : LM) (s : State) := s.laneAtom o 3
def execAtomAndLane (o : LM) (s : State) := s.laneAtom o 4
def execAtomOrLane (o : LM) (s : State) := s.laneAtom o 5
def execAtomXorLane (o : LM) (s : State) := s.laneAtom o 6
def execAtomXchgLane (o : LM) (s : State) := s.laneAtom o 7
def execAtomCasLane (o : LM) (s : State) := s.laneAtom o 8
def execAtomAddUniform (o : LM) (s : State) := s.uniAtom o 0
def execAtomFaddUniform (o : LM) (s : State) := s.uniAtom o 1
def execAtomMinUniform (o : LM) (s : State) := s.uniAtom o 2
def execAtomMaxUniform (o : LM) (s : State) := s.uniAtom o 3
def execAtomAndUniform (o : LM) (s : State) := s.uniAtom o 4
def execAtomOrUniform (o : LM) (s : State) := s.uniAtom o 5
def execAtomXorUniform (o : LM) (s : State) := s.uniAtom o 6
def execAtomXchgUniform (o : LM) (s : State) := s.uniAtom o 7
def execAtomCasUniform (o : LM) (s : State) := s.uniAtom o 8

/-! ### WAITCMP (R58 to R60, R304, R305) -/

/-- A monitor's comparison: relation, type, the value in memory, the value compared with (R305). -/
def monHolds (rel ty x v : Nat) : Bool :=
  let w := tyWidth ty
  relHolds rel (ext (tySigned ty) w x - ext (tySigned ty) w v)

/-- A WAITCMP that does not hold yet sleeps: an armed entry at the line's slice, or the timed fallback where the table is
full (R58, R59). -/
def State.armMonitor (s : State) (m : Monitor) : State × Wait :=
  let sl := s.homeOf (lineOf m.pa)
  if (s.monitors.filter (fun x => x.slice == sl)).length < Config.monitorsPerSlice then
    ({ s with monitors := s.monitors ++ [{ m with slice := sl }] }, .monitor)
  else
    let k := s.slice sl
    let s1 := s.setSlice sl { k with overflow := min (k.overflow + 1) 0xFFFFFFFF }
    ({ s1 with monitors := s1.monitors ++ [{ m with slice := 64 }] }, .monitorFull (s.now + 2048))

/-- A monitor's evaluation at its home slice recalls a line that another group holds EXCLUSIVE (R51); the group's own
stores that are not written back are not seen (R305). -/
def State.monitorRead (s : State) (gid pa : Nat) : State :=
  if (s.recOf (lineOf pa)).owner = some gid then s else s.recall (lineOf pa)

/-- WAITCMP: true at once (in a deterministic launch, else false for now), or an armed entry, or the timed
fallback; a wake gives its outcome (log 64). It is evaluated once the gang's own earlier stores to the line are
performed (R150). -/
def execWaitcmp (o : LM) (s : State) : Host.Outcome State Fault Refusal :=
  let ty := o.x.ty.toNat
  let n := tyBytes ty
  let rel := o.x.subf.toNat % 8
  match s.ctx with
  | none => .fault .noFragment
  | some c =>
    match c.frag.grant with
    | some (.pred b) =>
      if !b && c.lau.rcd.det then .next (s.put ({ c with gang := c.gang.setQ o.w.d.toNat false } : Ctx).detRetry)
      else .next (s.put ((({ c with gang := c.gang.setQ o.w.d.toNat b } : Ctx).enter s 0).retire 2))
    | _ => s.uniMem o n .read true (fun s c xs =>
      match xs.head? with
      | none => .ok s c none
      | some a =>
        let v := if o.x.subf.toNat / 8 = 1 then o.x.c.toNat else (c.gang.rdG o.x.c.toNat).toNat % 2 ^ (8 * n)
        match a.route with
        | .home pa | .window _ pa =>
          let mon : Monitor :=
            { slice := 64, who := .frag c.who, since := s.now, func := c.lau.func, pa := pa, ty := ty, rel := rel, value := v }
          if regionOf pa = 4 && c.lau.rcd.det then
            let ps := [c.part 64 0 a.va pa 0 (List.replicate n 0)]
            .wait ((s.post c (.compare ty rel v) ps 0 0 .flight).toHost) .hostRead
          else if regionOf pa = 4 then .sleep { s with monitors := s.monitors ++ [mon] } (.monitorFull (s.now + 2048))
          else if s.ownWrite c.who.gid c.who.gang (lineOf pa) then .wait s (.ownStore (lineOf pa))
          else
            let s1 := s.monitorRead c.who.gid pa
            let c1 := (s1.ctxOf c.who).getD c
            if monHolds rel ty (s1.readVis pa n) v then .ok s1 { c1 with gang := c1.gang.setQ o.w.d.toNat true } none
            else if c1.lau.rcd.det then .redo s1 { c1 with gang := c1.gang.setQ o.w.d.toNat false }
            else
              let m := s1.armMonitor mon
              .sleep m.1 m.2
        | _ => .bad .paUnbacked { addr := BitVec.ofNat 64 a.va, lanes := c.faultLanes 7 })

/-! ### Fences and CINV (R153, R154, R306, R63) -/

/-- FENCE.W: write back, wait for the gang's loads and for its writes' T, then until NOW() ≥ the settled %wct. -/
def execFenceW (o : LR) (s : State) : Host.Outcome State Fault Refusal :=
  s.onCtx (fun c =>
    if !c.src.qpred o.g.toNat then s.put (c.retire 1)
    else
      let s1 := s.writebackAll c.who.gid
      let c1 := (s1.ctxOf c.who).getD c
      if c.frag.grant = some .passed then s1.put (c1.retire 1)
      else if s1.loadsOut c.who.gid c.who.gang || s1.unsettled c.who.gid c.who.gang then s1.put (c1.linger .fenceW)
      else if s1.now < c1.gang.wct then s1.put (c1.linger (.wct c1.gang.wct true))
      else s1.put (c1.retire 1))

/-- Another fragment of the gang waits in WAITCMP. -/
def Ctx.otherMonitors (c : Ctx) : Bool :=
  c.gang.frags.any (fun f => f.id != c.frag.id && (f.inWaitcmp ||
    (match f.state with
     | .stalled .hostRead => true
     | _ => false)))

/-- FENCE.L: wait until every earlier load, LDC, WAITCMP and atomic of the gang has been performed. -/
def execFenceL (o : LR) (s : State) : Host.Outcome State Fault Refusal :=
  s.onCtx (fun c =>
    if !c.src.qpred o.g.toNat then s.put (c.retire 1)
    else if s.loadsOut c.who.gid c.who.gang || c.otherMonitors then s.put (c.linger .fenceL)
    else s.put (c.retire 1))

/-- The gang has a stash access that has not been performed: a window fill, or a store that waits for ownership. -/
def State.stashOut (s : State) (gid gang : Nat) : Bool :=
  s.reqs.any (fun r => r.ofGang gid gang &&
    (match r.kind with
     | .own _ _ | .load _ _ (.window _ _) => true
     | _ => false))

/-- FENCE.S: wait for the gang's stash accesses and drop the group's operand-cache entries (R119). -/
def execFenceS (o : LR) (s : State) : Host.Outcome State Fault Refusal :=
  s.onCtx (fun c =>
    if !c.src.qpred o.g.toNat then s.put (c.retire 1)
    else if s.stashOut c.who.gid c.who.gang then s.put (c.linger .stash)
    else
      (s.updCore c.core (fun k => { k with opcache := k.opcache.filter (fun e => e.gid != c.who.gid) })).put (c.retire 1))

/-- CINV: drop the function's lines of the core's constant buffer. -/
def execCinv (o : LR) (s : State) : Host.Outcome State Fault Refusal :=
  s.onCtx (fun c =>
    if !c.gang.qpred o.g.toNat then s.put (c.retire 1)
    else
      (s.updCore c.core (fun k => { k with cbuf := k.cbuf.filter (fun e => e.func != c.lau.func) })).put (c.retire 1))

end Sys2Proof.Machine
end

