-- ==== Sys2Proof/Machine/EvMem.lean ====
section
/-!
DEFINITION. The steps of home slices, routers, walkers, monitors and the host's accesses to memory. Each is `none`
where the step cannot happen in the state (log 13).
-/

namespace Sys2Proof.Machine

/-- A step of a unit that happens where it can: where it cannot, nothing changes (log 13). -/
def State.unitStep (s : State) (r : Option State) : Host.Outcome State Fault Refusal := .next (r.getD s)

/-- Change a fragment. -/
def State.updFrag (s : State) (w : Who) (f : Frag → Frag) : State :=
  s.updGroup w.gid (fun g => { g with gangs := g.gangs.mapIdx (fun i x =>
    if i = w.gang then { x with frags := x.frags.map (fun y => if y.id == w.frag then f y else y) } else x) })

/-- Change a gang. -/
def State.updGang (s : State) (gid gang : Nat) (f : Gang → Gang) : State :=
  s.updGroup gid (fun g => { g with gangs := g.gangs.mapIdx (fun i x => if i = gang then f x else x) })

/-- The fragment that a name stands for. -/
def State.fragOf (s : State) (w : Who) : Option Frag := (s.ctxOf w).map Ctx.frag

/-- Make a fragment that waits eligible again, with an answer to its wait. -/
def Frag.wake (g : Option Grant) (f : Frag) : Frag :=
  match f.state with
  | .faulted _ _ => f
  | _ => { f with state := .eligible, grant := g }

def State.wake (s : State) (w : Who) (g : Option Grant) : State := s.updFrag w (Frag.wake g)

/-! ### Requests -/

def State.req (s : State) (id : Nat) : Option Req := s.reqs.find? (fun r => r.id == id)
/-- How a request fails at its home slice: an address that an entry in ALIAS mode covers by now (R24), or data that is
uncorrectable and that it would consume (R234). -/
def State.badAt (s : State) (r : Req) : Option Reason :=
  let acc : Access := if r.isLoad then .read else if r.isAtomic then .atomic else .write
  match r.parts.findSome? (fun p => s.paFault p.pa acc) with
  | some e => some e
  | none => if (r.isLoad || r.isAtomic) && s.ecc.contains r.line then some .uncorrectable else none

/-- Marked atomics that a slice holds (R54). -/
def State.relHeld (s : State) (slice : Nat) : Nat :=
  (s.reqs.filter (fun q => q.stage == .heldRel && s.homeOf q.line == slice)).length

/-- A marked atomic whose marker has not come is held at its home slice, 64 to a slice (R54). -/
def State.holdRel (s : State) (r : Req) : Option State :=
  if s.relHeld (s.homeOf r.line) < 64 then some (s.setReq { r with stage := .heldRel }) else none

/-- A marker has not come. -/
def State.early (s : State) (r : Req) : Bool := decide (s.now < r.marker)

/-- HOME_SLICE_WRITE (R49, R54): a store, ownership request or atomic arrives and receives its T, fails, or goes on to the
host (R39); a marked atomic whose marker has not come is held. -/
def State.evHomeSliceWrite (s : State) (id : Nat) : Option State :=
  match s.req id with
  | none => none
  | some r =>
    if r.stage != .flight || r.isLoad || s.lineHeld r.line || s.behind r then none
    else if r.region == 4 then (if s.early r then s.holdRel r else some (s.sendHost r))
    else
      match s.badAt r with
      | some e => some (s.setReq { r with stage := .bad e })
      | none =>
        match r.kind with
        | .store =>
          if r.region = 1 then none
          else
            let s1 := s.recall r.line
            let a := s1.assignT r.line 0
            some (((a.1.pendParts r a.2).foldParts r a.2).dropReq id)
        | .own _ _ =>
          let keep := match (s.recOf r.line).owner, r.who with
            | some g, some w => g == w.gid
            | _, _ => false
          let s1 := if keep then s else s.recall r.line
          let a := s1.assignT r.line 0
          some (a.1.setReq { r with stage := .timed a.2 })
        | .atomic op ty _ _ => if s.early r then s.holdRel r else some (s.timeAtomic r op ty)
        | _ => none

/-- REL_ATOMIC_RELEASE (R54); one on host memory goes on to the host (R53). -/
def State.evRelAtomicRelease (s : State) (id : Nat) : Option State :=
  match s.req id with
  | none => none
  | some r =>
    match r.kind with
    | .atomic op ty _ _ =>
      if r.stage != .heldRel || s.early r then none
      else if r.region == 4 then some (s.sendHost r)
      else
        match s.badAt r with
        | some e => some (s.setReq { r with stage := .bad e })
        | none => some (s.timeAtomic r op ty)
    | _ => none

/-! ### Monitors (R58, R59) -/

/-- Who waits at a monitor goes on: a fragment's WAITCMP with its outcome, a queue's WAIT with a note for its next turn
(R390). -/
def State.wakeWaiter (s : State) (w : Waiter) : State :=
  match w with
  | .frag w => s.wake w (some (.pred true))
  | .queue f q => s.updFn f (fun x => { x with cqs := x.cqs.mapIdx (fun i c => if i = q then { c with woken := true } else c) })

/-- Evaluate the entries of lines that writes of a time were just performed on, but for those armed when these writes
were visible already; a comparison that holds wakes its gang (R58). -/
def State.wakeMonitors (s : State) (ps : List Pending) : State :=
  let hit : Monitor → Bool := fun m =>
    m.slice != 64 && ps.any (fun p => p.onLine (lineOf m.pa) && decide (m.since < p.t)) &&
      monHolds m.rel m.ty (leNat (s.bytesIn s.mem m.pa (tyBytes m.ty))) m.value
  (s.monitors.filter hit).foldl (fun s m => s.wakeWaiter m.who)
    { s with monitors := s.monitors.filter (fun m => !hit m) }

/-- A parked wait looks again: a WAITCMP returns with its comparison as it stands (R60), a TWAIT waits on until it holds
(R82); host memory is read again (R305). -/
def State.answerMonitor (s : State) (c : Ctx) (m : Monitor) : State :=
  let mirror : Bool := match c.frag.state with
    | .sleeping (.mirrorFull _) => true
    | _ => false
  let s1 := { s with monitors := s.monitors.filter (fun x => x.who != Waiter.frag c.who) }
  if regionOf m.pa = 4 then
    let ps := [c.part 64 0 0 m.pa 0 (List.replicate (tyBytes m.ty) 0)]
    (((if mirror then s else s1).post c (.compare m.ty m.rel m.value) ps 0 0 .flight).toHost).updFrag c.who
      (fun f => { f with state := if mirror then .sleeping .mirror else .stalled .hostRead })
  else
    let s2 := s1.monitorRead c.who.gid m.pa
    let holds := monHolds m.rel m.ty (s2.readVis m.pa (tyBytes m.ty)) m.value
    if mirror && !holds then
      State.updFrag { s2 with monitors := s2.monitors ++ [m] } c.who (fun f => { f with state := .sleeping (.mirrorFull (s.now + 2048)) })
    else s2.wake c.who (some (.pred holds))

/-- A monitor's table entry is reset (R60, R421): a WAITCMP returns; a TWAIT on a mirror word and a queue's WAIT look again. -/
def State.resetMonitor (s : State) (m : Monitor) : State :=
  let s1 := { s with monitors := s.monitors.filter (fun x => x.who != m.who) }
  match m.who with
  | .queue _ _ => s1
  | .frag w =>
    match s.ctxOf w with
    | none => s1
    | some c =>
      if c.frag.inWaitcmp then s.answerMonitor c m
      else State.updFrag { s1 with monitors := s1.monitors ++ [{ m with slice := 64 }] } w (fun f =>
        { f with state := .sleeping (.mirrorFull s.now) })

/-- MONITOR_FALLBACK (R59, R305). -/
def State.evMonitorFallback (s : State) (w : Who) : Option State :=
  match s.ctxOf w, s.monitors.find? (fun m => m.who == Waiter.frag w && m.slice == 64) with
  | some c, some m =>
    match c.frag.state with
    | .sleeping (.monitorFull due) | .sleeping (.mirrorFull due) => if s.now < due then none else some (s.answerMonitor c m)
    | _ => none
  | _, _ => none

/-! ### Writes at their T (R49, R53) -/

/-- Pending writes of a number, and whether an earlier one to the same line has still to be performed. -/
def State.pendOf (s : State) (id : Nat) : List Pending := s.pending.filter (fun p => p.id == id)
def State.pendFirst (s : State) (id : Nat) : Bool :=
  let mine := (s.pendOf id).map (fun p => lineOf p.pa)
  !(s.pending.takeWhile (fun p => p.id != id)).any (fun q => mine.any q.onLine)

/-- The channel of a line (R18). -/
def channelOf (line : Nat) : Nat :=
  let f : Nat → Nat := fun k => bits (line * 64) k 5
  f 11 ^^^ f 16 ^^^ f 21 ^^^ f 26 ^^^ f 31 ^^^ bits (line * 64) 36 2

/-- A line whose channel's device is being replaced, or has been (R422). -/
def State.sparesLine (s : State) (line : Nat) : Bool := s.sparing.any (fun d => d.dev / 2 == channelOf line)

/-- Writes make a line's data readable again: those that cover it, and any that lands on a spare (R422, log 43). -/
def State.heals (s : State) (ps : List Pending) (line : Nat) : Bool :=
  ps.any (fun p => p.rmw.isNone && decide (p.pa ≤ line * 64) && decide (line * 64 + 64 ≤ p.pa + p.data.length))
  || (s.sparesLine line && ps.any (fun p => lineOf p.pa == line))

/-- Perform the writes of a number: memory, L2, and the monitors of their lines. -/
def State.performPend (s : State) (id : Nat) : State :=
  let ps := s.pendOf id
  let s1 := ps.foldl (fun (s : State) p => { s.writeL2 s.mem p with mem := p.apply s.mem }) s
  let s2 : State := { s1 with pending := s.pending.filter (fun p => p.id != id), ecc := s.ecc.filter (fun e => !s.heals ps e) }
  s2.wakeMonitors ps

/-- WRITE_VISIBLE (R49). -/
def State.evWriteVisible (s : State) (id : Nat) : Option State :=
  match s.pendOf id with
  | [] => none
  | p :: _ => if p.rmw.isNone && decide (p.t ≤ s.now) && s.pendFirst id then some (s.performPend id) else none

/-- ATOMIC_PERFORM (R53): the old value is read and the new one written at T; over uncorrectable data it fails instead
(R234, R303). -/
def State.evAtomicPerform (s : State) (id : Nat) : Option State :=
  match s.req id, s.pendOf id with
  | some r, p :: _ =>
    if p.rmw.isSome && decide (p.t ≤ s.now) && s.pendFirst id then
      if s.ecc.contains (lineOf p.pa) then
        some (State.setReq { s with pending := s.pending.filter (fun p => p.id != id) } { r with stage := .bad .uncorrectable })
      else
        let old := BitVec.ofNat 64 (leNat (s.mem.bytes p.pa p.data.length))
        some ((s.performPend id).setReq { r with stage := .performed, old := old })
    else none
  | _, _ => none

/-- ATOMIC_RETURN (R57): each requester receives its own previous value; the host's AtomicOp completes with it
(R384). -/
def State.evAtomicReturn (s : State) (id : Nat) : Option State :=
  match s.req id with
  | none => none
  | some r =>
    match r.kind, r.stage with
    | .atomic op ty _ _, .performed =>
      some ((r.parts.foldl (fun s p =>
        match p.who with
        | some w => s.updGang w.gid w.gang (fun g => g.wrOld ty p.lane p.dst (splitOld op ty r.old.toNat p.pre))
        | none => { s with out := s.out ++ [Output.bar2 r.func (some (toLE (tyBytes ty) r.old.toNat))] }) s).dropReq id)
    | _, _ => none

/-- The router of a line's home slice. -/
def State.homeRouter (s : State) (line : Nat) : Nat := 96 + s.homeOf line

/-- A request leaves a router: for the merge buffer of its home slice's router, or for the slice (R55; log 62). -/
def State.passRouter (s : State) (r : Req) (router : Nat) : ReqStage :=
  if router < 96 then s.intoRouter (s.homeRouter r.line) else .flight

/-- The input port that a request comes to a router by (R56): its own core, the mesh, or the die crossing (log 62). -/
def Req.port (r : Req) (router : Nat) : Nat :=
  if router < 96 then 0
  else if (r.who.map (fun w => dieOf (coreOf w.gid))) == some ((router - 96) / 16) then 1 else 5

/-- Arrival order at a router (R56): by tick, in one tick by input port, then in order of issue. -/
def Req.arrived (a b : Req) (router ta tb : Nat) : Bool :=
  decide (ta < tb) || (ta == tb && (decide (a.port router < b.port router) ||
    (a.port router == b.port router && decide (a.id < b.id))))

/-- ROUTER_MERGE (R55 to R57): request j, which came later, joins request i in the merge buffer that holds both; what
they make leaves the router (log 62). -/
def State.evRouterMerge (s : State) (i j : Nat) : Option State :=
  match s.req i, s.req j with
  | some a, some b =>
    match a.kind, b.kind, a.stage, b.stage with
    | .atomic op ty rel acq, .atomic op' ty' rel' acq', .merging ta ra, .merging tb rb =>
      let at0 : Req → Option Nat := fun r => r.parts.head?.map ReqPart.pa
      if i = j ∨ ra ≠ rb ∨ !a.arrived b ra ta tb ∨ 7 ≤ op ∨ op ≠ op' ∨ ty ≠ ty' ∨ rel ≠ rel' ∨ a.func ≠ b.func
          ∨ a.aspace ≠ b.aspace ∨ at0 a ≠ at0 b ∨ a.det ∨ b.det ∨ a.region = 4 ∨ s.behind a ∨ s.behind b then none
      else
        let r := { a with
          kind := .atomic op ty rel (acq || acq'), stage := s.passRouter a ra, marker := max a.marker b.marker
          total := BitVec.ofNat 64 (atomNew op ty a.total.toNat b.total.toNat 0)
          parts := a.parts ++ b.parts.map (fun p => { p with pre := a.total :: p.pre }) }
        some ((s.setReq r).dropReq j)
    | _, _, _, _ => none
  | _, _ => none

/-- MERGE_HOLD_EXPIRY (R55): after 8 ticks a request leaves the router. -/
def State.evMergeHoldExpiry (s : State) (id : Nat) : Option State :=
  match s.req id with
  | none => none
  | some r =>
    match r.stage with
    | .merging t x => if t + 8 ≤ s.now then some (s.setReq { r with stage := s.passRouter r x }) else none
    | _ => none

/-! ### Reads (R50) -/

/-- Give a load's bytes to its registers. -/
def State.giveLoad (s : State) (r : Req) (size : Nat) (signed : Bool) (rd : Nat → Nat → List Byte) : State :=
  r.parts.foldl (fun s p =>
    match p.who with
    | some w => s.updGang w.gid w.gang (fun g => g.wrLoaded p.lane p.dst p.off size signed (rd p.pa p.data.length))
    | none => s) s

/-- A request was translated before an INVALIDATE that is under way (R28): it leaves no line in a window. -/
def State.oldXlate (s : State) (r : Req) : Bool :=
  (s.fn r.func).hcBusy && (s.fn r.func).hcCmd == 6 && decide (r.id < (s.fn r.func).hcMark)

/-- Keep a line that a read returned: in the read buffer under its lease, in a window that still maps its address there
under its lease, or in the constant buffer. -/
def State.keepLine (s : State) (r : Req) (fill : Fill) (lease : Nat) (line64 : List Byte) : State :=
  match r.who with
  | none => s
  | some w =>
    let core := coreOf w.gid
    match fill with
    | .readBuffer =>
      if lease = 0 then s
      else s.updCore core (fun k =>
        let tag := rbufTag r.func r.aspace r.line
        { k with rbuf := keepLast 64 (k.rbuf.filter (fun x => x.1 != tag) ++ [(tag, lease)]) })
    | .window k va =>
      s.updGroup w.gid (fun g =>
        if lease = 0 ∨ s.oldXlate r ∨ g.windowAt va ≠ some (k * 64) ∨ ((g.lines.find k).map SLine.own).getD false then g
        else { g.stashWrite (k * 64) line64 with lines := g.lines.set k { id := r.id, pa := r.line * 64, own := false, lease := lease, dirty := [] } })
    | .const =>
      s.updCore core (fun k =>
        { k with cbuf := keepLast 128 (k.cbuf.filter (fun x => !(x.func == r.func && x.aspace == r.aspace && x.line == r.line))
            ++ [{ func := r.func, aspace := r.aspace, line := r.line, readAt := s.now, data := line64 }]) })

/-- A read of the gang's own waiting write waits until its T (R50). -/
def State.ownPending (s : State) (r : Req) : Bool :=
  s.pending.any (fun p => r.gangKeys.any p.gangs.contains && decide (s.now < p.t) && p.onLine r.line)

/-- HOME_SLICE_READ (R50): the visible value, with a lease; or the load fails, or goes on to the host (R39). A constant
buffer's fill, whose lease nothing keeps, counts as a read like any other (log 103). -/
def State.evHomeSliceRead (s : State) (id : Nat) : Option State :=
  match s.req id with
  | none => none
  | some r =>
    if r.region == 4 then (if r.isLoad && s.hostMayGo r then some (s.sendHost r) else none)
    else
      match r.kind with
      | .load size signed fill =>
        if r.stage != .flight || s.lineHeld r.line || s.behind r || s.ownPending r then none
        else
          let mine : Option (Nat × List Byte) :=
            match fill, r.who.bind (fun w => s.groups.find w.gid) with
            | .window k va, some g =>
              if ((g.lines.find k).map (fun l => l.own && lineOf l.pa == r.line)).getD false && g.windowAt va == some (k * 64) then
                some (k, g.stashBytesAt (k * 64) 64)
              else none
            | _, _ => none
          match mine, s.badAt r with
          | some (_, d), _ => some ((s.giveLoad r size signed (fun pa n => (d.drop (pa % 64)).take n)).dropReq id)
          | none, some e => some (s.setReq { r with stage := .bad e })
          | none, none =>
            let s1 := s.recall r.line
            let l := s1.lease r.line r.func
            let m := l.1.vis
            let line64 := l.1.bytesIn m (r.line * 64) 64
            let s2 := l.1.giveLoad r size signed (fun pa n => (line64.drop (pa % 64)).take n)
            some ((((s2.keepLine r fill l.2 line64).fillL2 r.line r.func 0)).dropReq id)
      | _ => none

/-! ### MX alias writes, ownership, writeback, records -/

/-- MX_ALIAS_WRITE (R22, R23): the block is converted, then the home slice assigns its T. -/
def State.evMxAliasWrite (s : State) (id : Nat) : Option State :=
  match s.req id with
  | none => none
  | some r =>
    match r.kind with
    | .store =>
      if r.region != 1 || r.stage != .flight || s.lineHeld r.line || s.behind r then none
      else
        match s.badAt r with
        | some e => some (s.setReq { r with stage := .bad e })
        | none =>
          let put : Nat → Option Byte := fun k =>
            r.parts.foldl (fun a p => match p.data[r.line * 64 + k - p.pa]? with
              | some x => if p.pa ≤ r.line * 64 + k then some x else a
              | none => a) none
          let a := s.aliasWrite { func := r.func, ins := r.ins, gangs := r.gangKeys } r.line put 0
          some ((a.1.foldParts r a.2).dropReq id)
    | _ => none

/-- OWNERSHIP_GRANT (R44): the line is EXCLUSIVE at its T, and the stalled store writes it; where the window no longer
maps its address there, or the address is being invalidated, the store goes on as one outside any window (R28, R42). -/
def State.evOwnershipGrant (s : State) (id : Nat) : Option State :=
  match s.req id with
  | none => none
  | some r =>
    match r.kind, r.stage, r.who with
    | .own k va, .timed t, some w =>
      if s.now < t || s.pending.any (fun p => p.onLine r.line && decide (s.now < p.t)) then none
      else
        match s.groups.find w.gid with
        | none => some (s.dropReq id)
        | some g =>
          if s.oldXlate r ∨ g.windowAt va ≠ some (k * 64) then some (s.setReq { r with kind := .store, stage := .flight })
          else
            let held := ((g.lines.find k).map SLine.own).getD false
            let base := if held then g.stashBytesAt (k * 64) 64 else s.bytesIn s.vis (r.line * 64) 64
            let old : SMap Byte := if held then ((g.lines.find k).map SLine.dirty).getD [] else []
            let g1 := g.stashWrite (k * 64) base
            let g2 := r.parts.foldl (fun g p => g.stashWrite (k * 64 + p.pa % 64) p.data) g1
            let dirty := r.parts.foldl (fun d p =>
              (p.data.foldl (fun (a : SMap Byte × Nat) b => (SMap.set a.1 a.2 b, a.2 + 1)) (d, p.pa % 64)).1) old
            let s1 := s.updGroup w.gid (fun _ =>
              { g2 with lines := g2.lines.set k { id := r.id, pa := r.line * 64, own := true, lease := 0, dirty := dirty } })
            some (((s1.setLine r.line { s1.recOf r.line with owner := some w.gid }).fillL2 r.line r.func 0).dropReq id)
    | _, _, _ => none

/-- STASH_WRITEBACK (R44, R45): a dirty line goes to its home slice. -/
def State.evStashWriteback (s : State) (gid k : Nat) : Option State :=
  match (s.groups.find gid).bind (fun g => g.lines.find k) with
  | some l => if l.dirty.isEmpty then none else some (s.writeback gid k)
  | none => none

/-- LEASE_RECORD_DROP (R48): LEASE_HORIZON covers the dropped L_MAX. The slice drops a record once T_LAST has come and
no group holds the line (log 102). -/
def State.evLeaseRecordDrop (s : State) (line : Nat) : Option State :=
  match s.lineRec line with
  | some r =>
    if r.owner.isSome || decide (s.now < r.tlast) then none
    else
      let k := s.homeOf line
      let x := s.slice k
      some (State.setSlice { s with lines := s.lines.del line } k { x with horizon := max x.horizon r.lmax })
  | none => none

/-! ### Walks (R26, R30, R31) -/

/-- Record a fragment's replayable fault, and park it. -/
def State.parkFrag (s : State) (x : Walk) (r : Reason) : State :=
  let s1 := s.park (dieOf (coreOf x.who.gid)) x.func x.aspace x.va x.kind r (.frag x.who)
  let w : Wait := if s.rewalks.length < s1.rewalks.length then .rewalk (s.now + 4096) else .parked
  s1.updFrag x.who (fun f => { f with state := .stalled w })

/-- The misses that a die's walkers are at: the first 32 of those that its shared cache queues (R28, R30). -/
def State.walking (s : State) (die : Nat) : List Walk :=
  (distinctWalks (s.walks.filter (fun w => dieOf (coreOf w.who.gid) == die))).take 32

/-- PAGE_WALK: one walk serves every access of the die that is merged onto its window. -/
def State.evPageWalk (s : State) (i : Nat) : Option State :=
  match s.walks[i]? with
  | none => none
  | some w =>
    let tr := coreOf w.who.gid
    let same : Walk → Bool := fun x => x.same w && dieOf (coreOf x.who.gid) == dieOf tr
    let mine := s.walks.filter same
    if !(s.walking (dieOf tr)).any w.same then none
    else
      let s1 := State.walkReads { s with walks := s.walks.filter (fun x => !same x) } tr w.func w.aspace w.va
      let also := (mine.flatMap (fun x => [2 * coreOf x.who.gid, 2 * coreOf x.who.gid + 1])).eraseDups
      let s2 := s1.cacheWalk tr w.func w.aspace w.va also
      let fail : State → Walk → Reason → State := fun s x r =>
        if r.replayable then s.parkFrag x r else s.wake x.who (some (.walkFault r x.va))
      match s1.walk tr w.func w.aspace w.va with
      | .bad r => some (mine.foldl (fun s x => fail s x r) s2)
      | .page _ rr ww xx =>
        some (mine.foldl (fun s x => if accOk x.kind rr ww xx then s.wake x.who none else fail s x .permission) s2)

/-- WCT_WAIT_END (R49). -/
def State.evWctWaitEnd (s : State) (w : Who) : Option State :=
  match (s.fragOf w).map Frag.state with
  | some (.stalled (.wct due _)) => if s.now < due then none else some (s.wake w (some .passed))
  | _ => none

/-! ### Host memory and BAR2 (R39, R384, R385) -/

/-- HOST_WRITE_ACK (R39): its arrival is the write's T. -/
def State.evHostWriteAck (s : State) (id : Nat) : Option State :=
  match s.req id with
  | none => none
  | some r =>
    if r.stage != .sent then none
    else
      match r.kind with
      | .store | .unit => some ((s.foldParts r s.now).dropReq id)
      | _ => none

/-- HOST_READ_COMPLETION (R385): the bytes of a line of host memory, or an atomic's old value. -/
def State.evHostReadCompletion (s : State) (id : Nat) (data : List Byte) : Option State :=
  match s.req id with
  | none => none
  | some r =>
    if r.stage != .sent then none
    else
      match r.kind with
      | .load size signed fill =>
        let s1 := s.giveLoad r size signed (fun pa n => (data.drop (pa % 64)).take n)
        some ((match fill with
          | .const => s1.keepLine r fill 0 data
          | _ => s1).dropReq id)
      | .compare ty rel v =>
        match r.who with
        | some w =>
          let pa := (r.parts.head?.map ReqPart.pa).getD 0
          let x := leNat ((data.drop (pa % 64)).take (tyBytes ty))
          let holds := monHolds rel ty x v
          if (s.fragOf w).map Frag.state == some (.sleeping .mirror) then
            if holds then
              some ((State.wake { s with monitors := s.monitors.filter (fun m => m.who != Waiter.frag w) } w (some (.pred true))).dropReq id)
            else some ((s.updFrag w (fun f => { f with state := .sleeping (.mirrorFull (s.now + 2048)) })).dropReq id)
          else some ((s.wake w (some (.pred holds))).dropReq id)
        | none => none
      | .atomic _ _ _ _ =>
        some ((s.foldParts r s.now).setReq { r with stage := .performed, old := BitVec.ofNat 64 (leNat data) })
      | _ => none

/-- The host's AtomicOp through BAR2 (R384): it goes to the home slice like any atomic, and completes with the value
found. The operation is FetchAdd, Swap or CAS on 4 or 8 aligned bytes; any other is aborted (log 92). -/
def State.bar2Atomic (s : State) (func va op ty opnd cmp : Nat) : Option State :=
  if !hostAtomOk op ty ∨ va % tyBytes ty ≠ 0 then none
  else
    let s0 := s.unitWalk ioPlace func 0 va .atomic
    match s0.xlNow ioPlace func 0 va .atomic with
    | .ok pa =>
      if s0.ecc.contains (lineOf pa) then none
      else
        let f := s0.fresh
        let part : ReqPart := { who := none, pc := 0, ins := 0, lane := 64, dst := 0, va := va, pa := pa, off := 0
                                data := List.replicate (tyBytes ty) 0, opnd := BitVec.ofNat 64 opnd, cmp := BitVec.ofNat 64 cmp
                                pre := [] }
        let r : Req := { id := f.2, ins := 0, who := none, func := func, aspace := 0, kind := .atomic op ty false false
                         parts := [part], total := BitVec.ofNat 64 opnd, marker := 0, stage := .flight, old := 0, det := false }
        some (State.toHost { f.1 with reqs := f.1.reqs ++ [r] })
    | _ => none

/-- HOST_BAR2_ACCESS (R384): a host read, write or AtomicOp through address space 0 of the function, within the 64 GiB
window; it is aborted where translation fails, and while only FW_LOAD is accepted (R402; log 92). -/
def State.evHostBar2Access (s : State) (func va : Nat) (a : HostAccess) (data : List Byte) : Option State :=
  let abort : State := { s with out := s.out ++ [Output.bar2 func none] }
  if Config.physFn < func ∨ 2 ^ 36 ≤ va then none
  else if !s.trust.accepted then some abort
  else
    match a with
    | .write =>
      match s.unitStore func 0 none va data with
      | .ok r => some { r.1 with out := r.1.out ++ [Output.bar2 func (some [])] }
      | .error _ => some abort
    | .read len =>
      match s.unitLoad func 0 va len .read with
      | .ok r => some { r.1 with out := r.1.out ++ [Output.bar2 func (some r.2)] }
      | .error _ => some abort
    | .atomic op ty opnd cmp => some ((s.bar2Atomic func va op ty opnd cmp).getD abort)

def execWctWaitEnd (f : Who) (s : State) := s.unitStep (s.evWctWaitEnd f)
def execPageWalk (i : Nat) (s : State) := s.unitStep (s.evPageWalk i)
def execHomeSliceWrite (id : Nat) (s : State) := s.unitStep (s.evHomeSliceWrite id)
def execWriteVisible (id : Nat) (s : State) := s.unitStep (s.evWriteVisible id)
def execHomeSliceRead (id : Nat) (s : State) := s.unitStep (s.evHomeSliceRead id)
def execMxAliasWrite (id : Nat) (s : State) := s.unitStep (s.evMxAliasWrite id)
def execOwnershipGrant (id : Nat) (s : State) := s.unitStep (s.evOwnershipGrant id)
def execStashWriteback (gid line : Nat) (s : State) := s.unitStep (s.evStashWriteback gid line)
def execLeaseRecordDrop (line : Nat) (s : State) := s.unitStep (s.evLeaseRecordDrop line)
def execAtomicPerform (id : Nat) (s : State) := s.unitStep (s.evAtomicPerform id)
def execRelAtomicRelease (id : Nat) (s : State) := s.unitStep (s.evRelAtomicRelease id)
def execRouterMerge (i j : Nat) (s : State) := s.unitStep (s.evRouterMerge i j)
def execMergeHoldExpiry (id : Nat) (s : State) := s.unitStep (s.evMergeHoldExpiry id)
def execAtomicReturn (id : Nat) (s : State) := s.unitStep (s.evAtomicReturn id)
def execMonitorFallback (f : Who) (s : State) := s.unitStep (s.evMonitorFallback f)
def execHostWriteAck (id : Nat) (s : State) := s.unitStep (s.evHostWriteAck id)
def execHostReadCompletion (id : Nat) (data : List Byte) (s : State) := s.unitStep (s.evHostReadCompletion id data)
def execHostBar2Access (func va : Nat) (a : HostAccess) (data : List Byte) (s : State) :=
  s.unitStep (s.evHostBar2Access func va a data)

end Sys2Proof.Machine
end

