-- ==== Sys2Proof/Machine/Trace.lean ====
section
/-!
DEFINITION. The hybrid logical clock and the trace rings (R410 to R415).
-/

namespace Sys2Proof.Machine

/-- R410's carry, then the clock's new value. -/
def Hlc.carry (p c : Nat) : Hlc := if c = 65536 then { p := p + 1, c := 0 } else { p := p, c := c }

/-- The clock after a stamp taken at a tick (R410). -/
def Hlc.next (h : Hlc) (now : Nat) : Hlc :=
  let p := max h.p (now / 1000)
  Hlc.carry p (if p = h.p then h.c + 1 else 0)

/-- The clock after a received stamp is merged (R411). -/
def Hlc.merge (h : Hlc) (now mp mc : Nat) : Hlc :=
  let p := max (max h.p mp) (now / 1000)
  Hlc.carry p (if p = h.p ∧ p = mp then max h.c mc + 1 else if p = h.p then h.c + 1 else if p = mp then mc + 1 else 0)

/-- A clock with its era: the stamp is its low 64 bits. -/
def Hlc.full (h : Hlc) : Nat := h.p * 65536 + h.c

/-- Take a die's stamp (R410). -/
def State.stamp (s : State) (d : Nat) : State × Nat :=
  let h := (s.die d).hlc.next s.now
  (s.updDie d (fun x => { x with hlc := h }), h.full)

/-- Change a ring of a function. -/
def State.updRing (s : State) (func d : Nat) (f : Ring → Ring) : State :=
  s.updFn func (fun x => { x with rings := x.rings.setIfInBounds d (f (x.rings[d]?.getD Ring.reset)) })

/-- Write one record of a ring (R414); a record whose store fails translation is lost (log 18, 75). -/
def State.ringWrite (s : State) (func d w0 payload : Nat) : State :=
  let f := s.fn func
  let r := f.rings[d]?.getD Ring.reset
  let va := f.trcBase.toNat + d * 16 * 2 ^ f.trcSize + 16 * (r.tail % 2 ^ f.trcSize)
  let s1 := match s.unitStore func 0 none va (toLE 8 w0 ++ toLE 8 payload) with
    | .ok x => x.1
    | .error _ => s
  s1.updRing func d (fun r => { r with tail := (r.tail + 1) % 2 ^ 32 })

/-- Append a record of a kind from a core (0xFF for the IO die) to its die's ring, after a HEADER where one is needed;
without space it is dropped and counted (R415). -/
def State.trace (s : State) (func core kind info payload : Nat) : State :=
  let d := if core = 0xFF then 4 else dieOf core
  let f := s.fn func
  let r := f.rings[d]?.getD Ring.reset
  if !f.trcEn || bits f.trcKinds (kind - 2) 1 == 0 then s
  else
    let st := s.stamp d
    let header := match r.last with
      | none => true
      | some l => r.fresh || decide (0 < r.dropped) || decide (2 ^ 32 ≤ st.2 - l) || decide (st.2 / 2 ^ 64 ≠ l / 2 ^ 64)
    let used := (r.tail + 2 ^ 32 - r.head) % 2 ^ 32
    let free := 2 ^ f.trcSize - used
    if free < (if header then 2 else 1) then
      s.updRing func d (fun r => { r with dropped := min (r.dropped + 1) 0xFFFFFFFF })
    else
      let w0 : Nat → Nat → Nat → Nat := fun k i delta => k * 2 ^ 56 + core % 256 * 2 ^ 48 + i % 65536 * 2 ^ 32 + delta
      let delta := if header then 0 else st.2 - r.last.getD 0
      let s1 := if header then st.1.ringWrite func d (w0 1 (st.2 / 2 ^ 64) r.dropped) (st.2 % 2 ^ 64) else st.1
      (s1.ringWrite func d (w0 kind info delta) payload).updRing func d
        (fun r => { r with last := some st.2, dropped := 0, fresh := false })

end Sys2Proof.Machine
end

