-- ==== Sys2Proof/Machine/Code.lean ====
section
/-!
DEFINITION. The code store: bindings, the residency table, hoists, fetch and dictionary pairs (R180 to R197), and the
instructions over them (R352, R353).
-/

namespace Sys2Proof.Machine

/-! ### Names of code (R181 to R184) -/

/-- The module and offset of a code address (R181). -/
def State.bindingAt (s : State) (func aspace a : Nat) : Option (Nat × Nat) :=
  ((s.fn func).bindings.find? (fun b =>
    b.2.aspace == aspace && decide (b.2.va4k * 4096 ≤ a) && decide (a < (b.2.va4k + (s.modl b.2.modIdx).len) * 4096))).map
    (fun b => (b.2.modIdx, a - b.2.va4k * 4096))

/-- The directory overlay that holds an offset: its offset and length in 4 KiB units (R182). -/
def Module.overlayAt (m : Module) (off : Nat) : Option (Nat × Nat) :=
  (m.dir.find? (fun d => decide (d.1 * 4096 ≤ off) && decide (off < (d.1 + d.2 + 1) * 4096))).map (fun d => (d.1, d.2 + 1))

def ResEntry.units (e : ResEntry) : Nat := e.len + 1

/-- An entry that is not FREE covers an offset of a module. -/
def ResEntry.covers (e : ResEntry) (m off : Nat) : Bool :=
  e.state != 0 && e.modIdx == m && decide (e.offset * 4096 ≤ off) && decide (off < (e.offset + e.units) * 4096)

/-- RESIDENT or EVICTING: fetch may run from it (R185). -/
def ResEntry.runs (e : ResEntry) : Bool := e.state == 2 || e.state == 3

/-- The entry of a slot. -/
def Core.res (k : Core) (i : Nat) : ResEntry := k.residency[i]?.getD ResEntry.free
def Core.setRes (k : Core) (i : Nat) (e : ResEntry) : Core := { k with residency := k.residency.setIfInBounds i e }

/-- The slot whose entry covers an offset of a module. -/
def Core.slotAt (k : Core) (m off : Nat) : Option Nat := (List.range 64).find? (fun i => (k.res i).covers m off)

/-- A token (R184). -/
def tokenOf (slot gen : Nat) : Nat := slot * 1024 + gen

/-- The slot that a token matches (R184). -/
def Core.tokenSlot (k : Core) (t : Nat) : Option Nat :=
  let i := bits t 10 6
  if (k.res i).state ≠ 0 ∧ (k.res i).gen = bits t 0 10 then some i else none

/-- The fragments on a core, with their gangs and groups. -/
def State.fragsOn (s : State) (core : Nat) : List Ctx :=
  (s.groups.filter (fun g => coreOf g.1 == core)).flatMap (fun g =>
    match s.launches.find g.2.launch with
    | none => []
    | some lau => (g.2.gangs.mapIdx (fun i gg => gg.frags.map (fun f =>
        { who := { gid := g.1, gang := i, frag := f.id }, lau := lau, grp := g.2, gang := gg, frag := f : Ctx }))).flatten)

/-- A fragment is inside an overlay: its program counter lies there, or it last issued from there (R189). -/
def State.inside (s : State) (c : Ctx) (slot : Nat) (e : ResEntry) : Bool :=
  c.frag.overlay == some slot ||
  (match s.bindingAt c.lau.func c.lau.aspace c.frag.pc.toNat with
   | some (m, off) => e.covers m off
   | none => false)

/-- FRAGS of a slot (R189; log 69). -/
def State.fragsIn (s : State) (core slot : Nat) : Nat :=
  let e := (s.core core).res slot
  ((s.fragsOn core).filter (fun c => s.inside c slot e)).length

/-- The two words of a residency entry (R183), FRAGS given; the image layout of R231 gives them no place (log 105). -/
def ResEntry.word0 (e : ResEntry) : Reg :=
  BitVec.ofNat 64 (e.modIdx % 256 * 2 ^ 56 + e.offset % 65536 * 2 ^ 32 + e.len % 64 * 2 ^ 26 + e.store % 128 * 2 ^ 19 +
    e.state % 8 * 2 ^ 16 + (e.fail.map Reason.code).getD 0 % 256 * 256 + (if e.evictPending then 128 else 0))
def ResEntry.word1 (e : ResEntry) (frags : Nat) : Reg :=
  BitVec.ofNat 64 (e.gen % 1024 * 2 ^ 54 + e.pins % 32768 * 2 ^ 39 + frags % 512 * 2 ^ 30 + e.func % 512 * 2 ^ 21)

/-- Free of users: PINS and FRAGS are 0 (R185). -/
def State.unused (s : State) (core slot : Nat) : Bool :=
  decide (((s.core core).res slot).pins = 0) && decide (s.fragsIn core slot = 0)

/-! ### Entries and the store (R185, R186, R192) -/

/-- Free an entry: its units are released and its GEN goes on (R184, R185). -/
def Core.freeRes (k : Core) (i : Nat) : Core := k.setRes i { ResEntry.free with gen := ((k.res i).gen + 1) % 1024 }

/-- Parked work leaves its translation record, or the queue of re-walks (R31). -/
def State.unpark (s : State) (x : Parked) : State :=
  { s with xrecs := s.xrecs.map (fun r => { r with parked := r.parked.filter (fun p => p.1 != x) })
           rewalks := s.rewalks.filter (fun r => r.what != x) }

/-- Free an entry of a core; a load of it that is parked ends with it. -/
def State.freeCode (s : State) (core slot : Nat) : State :=
  (s.unpark (.hoist core slot)).updCore core (fun k => k.freeRes slot)

/-- A store unit that no entry holds; a FAILED entry has released its units. -/
def Core.unitFree (k : Core) (u : Nat) : Bool :=
  !k.residency.toList.any (fun e => e.state != 0 && e.state != 4 && decide (e.store ≤ u) && decide (u < e.store + e.units))

/-- The lowest run of n free units. -/
def Core.freeRun (k : Core) (n : Nat) : Option Nat :=
  (List.range (129 - n)).find? (fun b => (List.range n).all (fun i => k.unitFree (b + i)))

/-- The lowest FREE slot. -/
def Core.freeSlot (k : Core) : Option Nat := (List.range 64).find? (fun i => (k.res i).state == 0)

/-- A function owns an entry or is charged for it (R192). -/
def ResEntry.counts (e : ResEntry) (f : Nat) : Bool := e.state != 0 && (e.func == f || e.charged.contains f)

/-- A function's use on a core (R192), the entry of one slot apart. -/
def Core.useOf (k : Core) (f : Nat) (self : Option Nat) : Nat :=
  (List.range 64).foldl (fun n i => if (k.res i).counts f && self != some i then n + (k.res i).units else n) 0

/-- The function's least recently used entry that is RESIDENT and free of users (R186). -/
def Core.oldestUnused (k : Core) (busy : List Nat) (f : Nat) : Option Nat :=
  (List.range 64).foldl (fun best i =>
    let e := k.res i
    if e.state == 2 && e.func == f && e.pins == 0 && !busy.contains i && !e.revoked then
      match best with
      | some j => if e.used < (k.res j).used then some i else some j
      | none => some i
    else best) none

/-- Free the function's own unused entries, oldest first, until what is asked of the core holds (R186, R192). -/
def Core.makeRoom (busy : List Nat) (f : Nat) (fits : Core → Bool) : Nat → Core → Core
  | 0, k => k
  | n + 1, k =>
    if fits k then k
    else
      match k.oldestUnused busy f with
      | some i => Core.makeRoom busy f fits n (k.freeRes i)
      | none => k

/-- Copy words of the store. -/
def moveWords (m : SMap Word) (src dst n : Nat) : SMap Word :=
  let ws := (List.range n).map (fun i => SMap.get 0 m (src + i))
  (ws.foldl (fun (a : SMap Word × Nat) w => (SMap.put 0 a.1 a.2 w, a.2 + 1)) (m, dst)).1

/-- Compaction: the entries free of users move down, lowest first; the bytes moved (R186). -/
def Core.compact (k : Core) (busy : List Nat) : Core × Nat :=
  let units := (List.range 128).flatMap (fun u => (List.range 64).filter (fun i =>
    let e := k.res i
    e.state != 0 && e.state != 4 && e.store == u && e.pins == 0 && !busy.contains i))
  units.foldl (fun (a : Core × Nat) i =>
    let e := a.1.res i
    let k1 := a.1.setRes i { e with state := 4 }
    match k1.freeRun e.units with
    | some b =>
      if b < e.store then
        let k2 := k1.setRes i { e with store := b }
        ({ k2 with istore := moveWords k2.istore (e.store * 1024) (b * 1024) (e.units * 1024) }, a.2 + e.units * 4096)
      else a
    | none => a) (k, 0)

/-- Charge a function for a shared entry (R192). -/
def ResEntry.charge (e : ResEntry) (f : Nat) : ResEntry :=
  if e.func = 0x1FF ∧ !e.charged.contains f then { e with charged := insertNat f e.charged } else e

/-- What a hoist needs of its core: the overlay, its function, where its bytes lie. -/
structure HoistAt where
  modIdx : Nat
  offset : Nat
  units : Nat
  func : Nat
  aspace : Nat
  va : Nat
  shared : Bool

/-- Place an overlay in a slot, or in the lowest free one, and start its load (R186): the core, the slot and the bytes
moved. -/
def Core.place (k0 : Core) (busy : List Nat) (quota clk : Nat) (h : HoistAt) (self : Option Nat) : Option (Core × Nat × Nat) :=
  let k1 := Core.makeRoom busy h.func (fun k => (self.isSome || k.freeSlot.isSome) && (k.freeRun h.units).isSome &&
    decide (k.useOf h.func self + h.units ≤ quota)) 64 k0
  let slot := match self with
    | some i => some i
    | none => k1.freeSlot
  let k2 := if (k1.freeRun h.units).isSome then (k1, 0) else k1.compact busy
  match slot, k2.1.freeRun h.units with
  | some i, some b =>
    if quota < k2.1.useOf h.func self + h.units then none
    else
      let e : ResEntry := { ResEntry.free with
        modIdx := h.modIdx, offset := h.offset, len := h.units - 1, store := b, state := 1, gen := (k2.1.res i).gen
        pins := (k2.1.res i).pins, func := if h.shared then 0x1FF else h.func
        charged := if !h.shared then [] else insertNat h.func (if self.isSome then (k2.1.res i).charged else []), used := clk, loadVA := h.va, loadFunc := h.func, loadAspace := h.aspace }
      some (k2.1.setRes i e, i, k2.2)
  | _, _ => none

/-- HOIST's checks and effect (R186): the token and the clk of compaction. The length is in bytes (log 68). -/
def State.hoistAt (s : State) (core func aspace a len : Nat) : Except Reason (State × Nat × Nat) :=
  match s.bindingAt func aspace a with
  | none => .error .noCode
  | some (m, off) =>
    let md := s.modl m
    if len % 4096 ≠ 0 ∨ len < 4096 ∨ 262144 < len ∨ off % 4096 ≠ 0
        ∨ !md.dir.any (fun d => d.1 * 4096 == off && (d.2 + 1) * 4096 == len) then .error .badOverlay
    else if md.state ≠ 1 then .error .moduleRevoked
    else
      let k := s.core core
      let busy := (List.range 64).filter (fun i => decide (0 < s.fragsIn core i))
      let quota := (s.fn func).quota
      let h : HoistAt := { modIdx := m, offset := off / 4096, units := len / 4096, func := func, aspace := aspace, va := a,
                           shared := md.shared }
      let fresh : Option Nat → Except Reason (State × Nat × Nat) := fun self =>
        match k.place busy quota (s.clkOf core) h self with
        | none => .error .storeFull
        | some (k', i, moved) => .ok (s.setCore core k', tokenOf i (k'.res i).gen, (moved + 255) / 256)
      match k.slotAt m off with
      | none => fresh none
      | some i =>
        let e := k.res i
        if e.state = 4 then fresh (some i)
        else
          let keep : Core → Except Reason (State × Nat × Nat) := fun k =>
            let e := k.res i
            let e1 := { e.charge func with used := s.clkOf core, evictPending := false, state := if e.state = 3 then 2 else e.state }
            .ok (s.setCore core (k.setRes i e1), tokenOf i e.gen, 0)
          if e.counts func then keep k
          else
            let k1 := Core.makeRoom (i :: busy) func (fun k => decide (k.useOf func none + e.units ≤ quota)) 64 k
            if quota < k1.useOf func none + e.units then .error .storeFull else keep k1

/-- Free the entries of a core that are EVICTING, or of a revoked module, once free of users (R185): one slot. -/
def State.evOverlayFree (s : State) (core slot : Nat) : Option State :=
  let e := (s.core core).res slot
  if (e.state = 3 ∨ (e.revoked ∧ e.state ≠ 0)) ∧ s.unused core slot then
    some (s.freeCode core slot)
  else none

/-! ### Instructions over the store (R352, R353, R190) -/

/-- The effect on a fragment that waits for its own instruction to end: it does not issue before a clk. -/
def Ctx.hold (c : Ctx) (s : State) (n : Nat) : Ctx :=
  if n = 0 then c else { c with frag := { c.frag with busy := max c.frag.busy (s.clkOf c.core + n) } }

def execHoist (o : LX) (s : State) : Host.Outcome State Fault Refusal :=
  s.onCtx (fun c =>
    if !c.gang.qpred o.w.g.toNat then s.put (c.retire 2)
    else
      let a := (c.gang.rdG o.w.a.toNat).toNat
      let len := if o.w.b = 0 then (o.x.imm.toNat + 1) * 4096 else (c.gang.rdG o.w.b.toNat).toNat
      match s.hoistAt c.core c.lau.func c.lau.aspace a len with
      | .error r => s.put (c.fault s.now r)
      | .ok (s1, t, cost) =>
        (s1.put ((({ c with gang := c.gang.wrG o.w.d.toNat (BitVec.ofNat 64 t) } : Ctx).hold s cost).retire 2)).trace
          c.lau.func c.core 8 (t / 1024) a)

/-- The token in a register (R353). -/
def Ctx.token (c : Ctx) (f : BitVec 7) : Nat := (c.src.rdG f.toNat).toNat % 65536

/-- HWAIT (R187); an entry of a revoked module behaves as EVICTING (R185). -/
def execHwait (o : LR) (s : State) : Host.Outcome State Fault Refusal :=
  s.onCtx (fun c =>
    if !c.src.qpred o.g.toNat then s.put (c.retire 1)
    else
      let k := s.core c.core
      let done : Bool → State := fun b => s.put (({ c with gang := c.gang.setQ o.d.toNat b } : Ctx).retire 1)
      match k.tokenSlot (c.token o.a) with
      | none => done false
      | some i =>
        match (if (k.res i).revoked then 3 else (k.res i).state), (k.res i).fail with
        | 1, _ => s.put (c.sleep (.hwait (c.token o.a)))
        | 4, some r => s.put (c.fault s.now r)
        | 4, none => done false
        | _, _ => done true)

/-- EVICT (R185). -/
def execEvict (o : LR) (s : State) : Host.Outcome State Fault Refusal :=
  s.onCtx (fun c =>
    if !c.gang.qpred o.g.toNat then s.put (c.retire 1)
    else
      let k := s.core c.core
      match k.tokenSlot (c.token o.a) with
      | none => s.put (c.retire 1)
      | some i =>
        let e := k.res i
        let k1 := match (if e.revoked then 3 else e.state) with
          | 1 => k.setRes i { e with evictPending := true }
          | 2 => if s.unused c.core i then k.freeRes i else k.setRes i { e with state := 3 }
          | 4 => k.freeRes i
          | _ => k
        (s.setCore c.core k1).put (c.retire 1))

/-- A gang's pin count for a token. -/
def Gang.pinCount (g : Gang) (t : Nat) : Nat := ((g.pins.find? (fun p => p.1 == t)).map Prod.snd).getD 0

/-- Set a gang's pin count, dropping a record that reaches 0. -/
def Gang.setPin (g : Gang) (t n : Nat) : Gang :=
  if n = 0 then { g with pins := g.pins.filter (fun p => p.1 != t) }
  else if g.pins.any (fun p => p.1 == t) then { g with pins := g.pins.map (fun p => if p.1 == t then (t, n) else p) }
  else { g with pins := g.pins ++ [(t, n)] }

/-- A module that is not LOADED. -/
def State.revokedMod (s : State) (m : Nat) : Bool := (s.modl m).state != 1

/-- PIN (R190, R193). -/
def execPin (o : LR) (s : State) : Host.Outcome State Fault Refusal :=
  s.onCtx (fun c =>
    if !c.gang.qpred o.g.toNat then s.put (c.retire 1)
    else
      let k := s.core c.core
      let t := c.token o.a
      let bad : Reason → State := fun r => s.put (c.fault s.now r)
      let no := s.put (({ c with gang := c.gang.setQ o.d.toNat false } : Ctx).retire 1)
      match k.tokenSlot t with
      | none => no
      | some i =>
        let e := k.res i
        if s.revokedMod e.modIdx then no
        else if c.gang.pinCount t = 0 ∧ 16 ≤ c.gang.pins.length then bad .pinLimit
        else if 32767 ≤ e.pins then bad .pinOverflow
        else
          (s.setCore c.core (k.setRes i { e with pins := e.pins + 1 })).put
            (({ c with gang := (c.gang.setPin t (c.gang.pinCount t + 1)).setQ o.d.toNat true } : Ctx).retire 1))

/-- UNPIN (R190). -/
def execUnpin (o : LR) (s : State) : Host.Outcome State Fault Refusal :=
  s.onCtx (fun c =>
    if !c.gang.qpred o.g.toNat then s.put (c.retire 1)
    else
      let k := s.core c.core
      let t := c.token o.a
      match k.tokenSlot t with
      | none => s.put (({ c with gang := c.gang.setQ o.d.toNat false } : Ctx).retire 1)
      | some i =>
        let e := k.res i
        if c.gang.pinCount t = 0 then s.put (c.fault s.now .pinUnderflow)
        else
          (s.setCore c.core (k.setRes i { e with pins := e.pins - 1 })).put
            (({ c with gang := (c.gang.setPin t (c.gang.pinCount t - 1)).setQ o.d.toNat true } : Ctx).retire 1))

/-- Subtract a gang's remaining pin counts from PINS (R190). -/
def State.dropPins (s : State) (core : Nat) (pins : List (Nat × Nat)) : State :=
  pins.foldl (fun s p =>
    match (s.core core).tokenSlot p.1 with
    | some i => s.updCore core (fun k => k.setRes i { k.res i with pins := (k.res i).pins - p.2 })
    | none => s) s

/-! ### Fetch (R188, R195, R196, R252) -/

/-- What fetch finds at the program counter: three words in a row, the fault it takes, or a wait. `slot` is the entry
they came from. -/
inductive FetchAt where
  | words (w x y : Word) (slot : Option Nat)
  | fault (r : Reason)
  | wait (w : Wait)

/-- The word of an entry at an offset of its module, where the entry covers it. -/
def Core.codeWord (k : Core) (i off : Nat) : Option Word :=
  let e := k.res i
  if e.offset * 4096 ≤ off ∧ off < (e.offset + e.units) * 4096 then
    some (SMap.get 0 k.istore (e.store * 1024 + (off - e.offset * 4096) / 4))
  else none

/-- Bits [31:26] of a dictionary pair (R195). -/
def isPair (w : Word) : Bool := w.toNat / 2 ^ 26 == 63

/-- The words at an offset of an entry: an instruction's extension words lie in the same overlay (R252, R196). -/
def Core.codeAt (k : Core) (i off : Nat) : FetchAt :=
  match k.codeWord i (off / 4 * 4) with
  | none => .fault .illegalInstruction
  | some w =>
    if off % 4 = 2 ∧ (!isPair w ∨ w.toNat % 65536 < 0xFC00) then .fault .illegalInstruction
    else if wordLen w ≥ 2 ∧ (k.codeWord i (off / 4 * 4 + 4)).isNone then .fault .illegalInstruction
    else if wordLen w ≥ 3 ∧ (k.codeWord i (off / 4 * 4 + 8)).isNone then .fault .illegalInstruction
    else .words w ((k.codeWord i (off / 4 * 4 + 4)).getD 0) ((k.codeWord i (off / 4 * 4 + 8)).getD 0) (some i)

/-- A function that is not charged for a shared entry and whose quota the entry would exceed cannot run it: the agent's
service finds the code absent for it (R192; log 104). -/
def State.beyondQuota (s : State) (core func slot : Nat) : Bool :=
  let e := (s.core core).res slot
  !e.counts func && decide ((s.fn func).quota < (s.core core).useOf func none + e.units)

/-- Fetch for a fragment: the dictionary code in hand, or the code its program counter reaches through the bindings and
the residency table. An instruction that has issued and waits completes although its module is revoked (R193). -/
def State.fetchAt (s : State) (c : Ctx) : FetchAt :=
  match c.frag.code with
  | some (w, _) => .words w 0 0 none
  | none =>
    let pc := c.frag.pc.toNat
    if pc % 2 = 1 then .fault .illegalInstruction
    else
      match s.bindingAt c.lau.func c.lau.aspace pc with
      | none => .fault .noCode
      | some (m, off) =>
        if s.revokedMod m ∧ c.frag.frozen.isNone then .fault .moduleRevoked
        else
          let k := s.core c.core
          match k.slotAt m off with
          | none => if ((s.modl m).overlayAt off).isSome then .fault .codeAbsent else .fault .noCode
          | some i =>
            match (k.res i).state with
            | 1 => .wait .codeLoad
            | 4 => .fault .codeAbsent
            | _ =>
              if s.beyondQuota c.core c.lau.func i then .fault .codeAbsent
              else if c.lau.rcd.dict ≠ 0 ∧ !c.grp.dictReady then .wait .dictLoad else k.codeAt i off

/-- The kernel's dictionary entry on its core (R194, R195). -/
def State.dictEntry (s : State) (c : Ctx) (n : Nat) : Option Word :=
  ((s.core c.core).dicts.toList.find? (fun d => d.launch == some c.grp.launch)).map (fun d => d.words[n]?.getD 0)

/-- A dictionary pair (R195): the code at the program counter is expanded, and issues next (log 70). -/
def execDictionaryPair (p : Sys2Proof.Pair) (s : State) : Host.Outcome State Fault Refusal :=
  s.onCtx (fun c =>
    let pc := c.frag.pc
    let high := pc.toNat % 4 == 0
    let n := if high then p.hi.toNat else p.lo.toNat % 1024
    let next := if high && p.lo != 0 then pc + 2 else if high then pc + 4 else pc + 2
    match s.dictEntry c n with
    | none => s.put (c.fault s.now .illegalInstruction)
    | some w => s.put { c with frag := { c.frag with code := some (w, next) } })

/-- The address after the REGANG at an address (R173, R195). -/
def State.afterRegang (s : State) (c : Ctx) (x : Reg) : Reg :=
  if x.toNat % 4 = 2 then x + 2
  else
    match s.bindingAt c.lau.func c.lau.aspace x.toNat with
    | none => x + 4
    | some (m, off) =>
      match ((s.core c.core).slotAt m off).bind (fun i => (s.core c.core).codeWord i off) with
      | some w => if isPair w && w.toNat % 65536 != 0 then x + 2 else x + 4
      | none => x + 4

end Sys2Proof.Machine
end

