-- ==== Sys2Proof/Machine/Control.lean ====
section
/-!
DEFINITION. Branches, calls, REGANG and EXIT (R346 to R351), with the mask stacks and the splits and fusions of
fragments (R167 to R173).
-/

namespace Sys2Proof.Machine

/-- %group as programs and records read it (R142, R166). -/
def Group.indexReg (g : Group) : Nat := if g.handlerOf then 0xFFFFFFFF else g.index

/-! ### The split table (R170 to R173) -/

/-- The lowest free entry of a core's split table. -/
def State.freeEntry (s : State) (core : Nat) : Option Nat :=
  let used := (s.fragsOn core).filterMap (fun c => c.frag.entry)
  (List.range Config.splitEntries).find? (fun e => !used.contains e)

/-- The least recently issued fragment that holds an entry, a given one apart (R172). -/
def State.oldestResident (s : State) (core : Nat) (but : Option Who) : Option Ctx :=
  (s.fragsOn core).foldl (fun best c =>
    if c.frag.entry.isNone || but == some c.who then best
    else
      match best with
      | some b => if c.frag.lastIssue < b.frag.lastIssue then some c else best
      | none => some c) none

/-- STATE's code (R171). -/
def FState.code : FState → Nat
  | .eligible => 0
  | .stalled _ => 1
  | .regangWait => 2
  | .sleeping _ => 3
  | .faulted _ _ => 4

/-- A split-table entry: its low and high words (R171). -/
def Frag.tableEntry (f : Frag) (slot : Nat) : List Byte :=
  let qm := f.quads.foldl (fun n q => n + 2 ^ q) 0
  toLE 8 (fld f.pc 1 56 * 2) ++ toLE 8 (2 ^ 63 + f.state.code * 2 ^ 60 + slot * 2 ^ 53 + qm * 2 ^ 32)

/-- The entry of a fragment goes out to its core's spill area in the launch's save region (R172, R228): to the place that
the spilled fragments of the core leave free (log 66). -/
def State.spillOut (s : State) (c : Ctx) : State :=
  let n := ((s.fragsOn c.core).filter (fun x => x.frag.entry.isNone)).length % 256
  s.updCore c.core (fun k => { k with spilled := k.spilled ++
    [{ func := c.lau.func, aspace := c.lau.aspace, base := c.lau.rcd.saveBase.toNat, n := n
       data := c.frag.tableEntry c.gang.slot }] })

/-- A core's oldest such entry is written; one whose address faults is lost (log 66). -/
def State.evSpillWrite (s : State) (core : Nat) : Option State :=
  match (s.core core).spilled with
  | [] => none
  | j :: t =>
    let s0 := s.updCore core (fun k => { k with spilled := t })
    match s0.unitWord j.func j.aspace (j.base + 0x10) 8 .read core with
    | .error _ => some s0
    | .ok (s1, off) =>
      match s1.unitStore j.func j.aspace none (j.base + off + core * 4096 + j.n * 16) j.data 0 core with
      | .ok r => some r.1
      | .error _ => some s1

/-- What 16 clk of a spill or a refill add to a fragment's busy time (R172). -/
def Frag.costs (f : Frag) (clk : Nat) : Nat := max f.busy clk + 16

/-- Spill a fragment: its entry is given up and goes out, and it spends 16 clk (R172; log 66). -/
def State.spill (s : State) (w : Who) : State :=
  let s1 := match s.ctxOf w with
    | some c => s.spillOut c
    | none => s
  let n := s1.fresh
  n.1.updFrag w (fun f => { f with entry := none, since := s.clkOf (coreOf w.gid), spillNo := n.2, busy := f.costs (s.clkOf (coreOf w.gid)) })

/-- Bring a spilled fragment back to an entry (R172). -/
def State.refill (s : State) (w : Who) (e : Nat) : State :=
  s.updFrag w (fun f => { f with entry := some e, busy := f.costs (s.clkOf (coreOf w.gid)) })

/-- An entry for a new fragment: the lowest free one, or that of the least recently issued fragment, which is spilled. -/
def State.takeEntry (s : State) (core : Nat) (but : Who) : State × Option Nat :=
  match s.freeEntry core with
  | some e => (s, some e)
  | none =>
    match s.oldestResident core (some but) with
    | some v => (s.spill v.who, v.frag.entry)
    | none => (s, none)

/-- Where a quad goes when it leaves an instruction; `wait` means that it has arrived at the REGANG there. -/
structure Dest where
  quad : Nat
  pc : Reg
  wait : Bool
  deriving DecidableEq, Repr

def Dest.state (d : Dest) : FState := if d.wait then .regangWait else .eligible

/-- The quads that leave to one place. -/
def quadsAt (ds : List Dest) (k : Dest) : List Nat :=
  (ds.filter (fun d => d.pc == k.pc && d.wait == k.wait)).map Dest.quad

/-- One destination for each place, in order. -/
def placesOf : List Dest → List Dest → List Dest
  | acc, [] => acc
  | acc, d :: t => placesOf (if acc.any (fun a => a.pc == d.pc && a.wait == d.wait) then acc else acc ++ [d]) t

/-- Add a fragment of the quads at a place (R170). -/
def State.addFrag (s : State) (c : Ctx) (ds : List Dest) (k : Dest) : State :=
  let r := s.takeEntry c.core c.who
  r.1.updGang c.who.gid c.who.gang (fun g =>
    let f : Frag := { c.frag with
      id := g.nextFrag, quads := quadsAt ds k, pc := k.pc, state := k.state, entry := r.2, waited := 0, promoted := none
      code := none, ret := none, grant := none, frozen := none, since := s.clkOf c.core }
    { g with frags := g.frags ++ [f], nextFrag := g.nextFrag + 1 })

/-- The quads of a fragment leave to their destinations: those at `keep`, or at the first place where none go there,
keep its entry (R170); a fragment without quads leaves the table (log 73). -/
def State.scatter (s : State) (c : Ctx) (ds : List Dest) (keep : Reg) : State :=
  let ps := placesOf [] ds
  match (ps.find? (fun p => p.pc == keep)).orElse (fun _ => ps.head?) with
  | none =>
    let g := c.gang
    s.put { c with gang := { g with frags := g.frags.filter (fun f => f.id != c.frag.id) } }
  | some k =>
    let c1 : Ctx := { c with frag := { c.frag with quads := quadsAt ds k, pc := k.pc, state := k.state } }
    (ps.filter (fun p => p != k)).foldl (fun s p => s.addFrag c1 ds p) (s.put c1)

/-- Insert a quad number in rising order. -/
def mergeQuads (a b : List Nat) : List Nat := b.foldl (fun l q => insertNat q l) a

/-- Fuse the fragments that wait at one REGANG address (R173). -/
def fuseAt (after : Reg → Reg) (fs : List Frag) (x : Reg) : List Frag :=
  let at0 := fs.filter (fun f => f.pc == x)
  match at0 with
  | [] => []
  | f :: _ =>
    let e := (at0.filterMap Frag.entry).head?
    [{ f with quads := at0.foldl (fun q g => mergeQuads q g.quads) [], pc := after x, state := .eligible, entry := e
              handler := at0.any Frag.handler, waited := 0, promoted := none, grant := none, frozen := none, ret := none }]

/-- When every live fragment of the gang waits in REGANG_WAIT, those at each address fuse and go on (R173). -/
def State.fuse (s : State) (c : Ctx) : State :=
  match (s.groups.find c.who.gid).bind (fun g => g.gangs[c.who.gang]?) with
  | none => s
  | some g =>
    if g.frags.isEmpty || g.frags.any (fun f => f.state != .regangWait) then s
    else
      let xs := (g.frags.map Frag.pc).eraseDups
      s.updGang c.who.gid c.who.gang (fun g => { g with frags := xs.flatMap (fuseAt (s.afterRegang c) g.frags) })

/-- The pennants of a group's rows are withdrawn, wherever a handler holds them (R143). -/
def State.withdrawPennants (s : State) (gid : Nat) : State :=
  { s with
    cores := s.cores.map (fun k => if k.2.pennants.any (fun p => p.gid == gid)
      then (k.1, { k.2 with pennants := k.2.pennants.filter (fun p => p.gid != gid) }) else k)
    saves := s.saves.map (fun x => { x with pens := x.pens.filter (fun p => p.gid != gid) }) }

/-- A group leaves (R45, R119, R123, R143): its windows are written back and dropped, its operand-cache entries and its
tap rows go and their pennants are withdrawn, and it drains. -/
def State.exitGroup (s : State) (gid : Nat) : State :=
  match s.groups.find gid with
  | none => s
  | some grp =>
    let func := ((s.launches.find grp.launch).map Launch.func).getD Config.physFn
    let core := coreOf gid
    let s1 := (s.dropLines gid).trace func core 4 (gid % Config.groupsPerCore) grp.indexReg
    let s2 := s1.updCore core (fun k =>
      { k with opcache := k.opcache.filter (fun e => e.gid != gid) })
    (s2.withdrawPennants gid).updGroup gid (fun g => { g with draining := true, tapRows := [], tapBlocks := [] })

/-- A gang without fragments has exited: its pins go (R190). A group exits with its last gang (R351). -/
def State.gangExit (s : State) (c : Ctx) : State :=
  match (s.groups.find c.who.gid).bind (fun g => g.gangs[c.who.gang]?) with
  | none => s
  | some g =>
    if !g.frags.isEmpty then s
    else
      let s1 := (s.dropPins c.core g.pins).updGang c.who.gid c.who.gang (fun g => { g with pins := [] })
      match s1.groups.find c.who.gid with
      | none => s1
      | some grp =>
        if grp.gangs.any (fun g => !g.frags.isEmpty) then s1 else s1.exitGroup c.who.gid

/-- What follows when fragments of a gang have moved, waited or ended. -/
def State.settled (s : State) (c : Ctx) : State := (s.fuse c).gangExit c

/-! ### Branches (R167, R347) -/

/-- The target of a short branch: the address of the word that holds it, and DISP21 (R250, R346). -/
def Ctx.shortTarget (c : Ctx) (o : UB) : Reg := c.wordPc + o.disp.signExtend 64 * 4

/-- The target of a long branch: the first word's address and D64 (R251). -/
def Ctx.longTarget (c : Ctx) (o : UL) : Reg := c.frag.pc + o.d64

/-- A guarded jump of the whole fragment. -/
def State.jump (s : State) (g : BitVec 3) (len : Nat) (f : Ctx → Ctx × Reg) : Host.Outcome State Fault Refusal :=
  s.onCtx (fun c =>
    if c.gang.qpred g.toNat then s.put ((f c).1.goto (f c).2) else s.put (c.retire len))

def execBr (o : UB) (s : State) := s.jump o.g 1 (fun c => (c, c.shortTarget o))
def execBrl (o : UL) (s : State) := s.jump o.g 3 (fun c => (c, c.longTarget o))
def execBri (o : LR) (s : State) := s.jump o.g 1 (fun c => (c, c.gang.rdG o.a.toNat))

/-- The lanes of a quad's mask in which a predicate holds. -/
def Gang.takenMask (g : Gang) (p q : Nat) (m : BitVec 4) : BitVec 4 :=
  BitVec.ofNat 4 ((List.range 4).foldl (fun n i => if m.getLsbD i && g.pred p (4 * q + i) then n + 2 ^ i else n) 0)

/-- The quad of a number. -/
def Gang.quad (g : Gang) (q : Nat) : Quad := g.quads[q]?.getD Quad.absent
def Gang.setQuad (g : Gang) (q : Nat) (x : Quad) : Gang := { g with quads := g.quads.setIfInBounds q x }

/-- BRA (R167): each quad decides; a quad whose lanes disagree puts aside those that do not branch. -/
def execBra (o : UB) (s : State) : Host.Outcome State Fault Refusal :=
  s.onCtx (fun c =>
    let p := o.g.toNat
    let target := c.shortTarget o
    let fall := c.nextPc 1
    let mixed : Nat → Bool := fun q =>
      let m := (c.gang.quad q).mask
      let t := c.gang.takenMask p q m
      t != m && t != 0
    let deep := c.frag.quads.filter (fun q => mixed q && decide (32 ≤ (c.gang.quad q).stack.length))
    if !deep.isEmpty then
      let ls := (c.contrib 7).filter (fun l => deep.contains (l / 4))
      s.put (c.fault s.now .maskStackOverflow { lanes := laneMask ls })
    else
      let r := c.frag.quads.foldl (fun (a : Gang × List Dest) q =>
        let x := a.1.quad q
        let t := c.gang.takenMask p q x.mask
        if t = 0 then (a.1, a.2 ++ [{ quad := q, pc := fall, wait := false }])
        else
          let e : MaskEntry := { resume := fall, join := none, phase := false, doneMask := 0, other := x.mask &&& ~~~t }
          let x1 := if t = x.mask then x else { x with mask := t, stack := e :: x.stack }
          (a.1.setQuad q x1, a.2 ++ [{ quad := q, pc := target, wait := false }])) (c.tick.gang, [])
      (s.scatter { c.tick with gang := r.1 } r.2 target).settled c)

/-! ### Calls (R348, R349) -/

/-- A link register: 0 names g31 (R348). -/
def linkOf (f : BitVec 7) : Nat := if f = 0 then 127 else f.toNat

/-- A taken call writes its link, then goes to the target. -/
def State.callTo (s : State) (g : BitVec 3) (len link : Nat) (t : Ctx → Reg) : Host.Outcome State Fault Refusal :=
  s.jump g len (fun c => ({ c with gang := c.gang.wrG link (c.nextPc len) }, t c))

def execCall (o : UB) (s : State) := s.callTo o.g 1 127 (fun c => c.shortTarget o)
def execCalll (o : UL) (s : State) := s.callTo o.g 3 127 (fun c => c.longTarget o)
def execCalli (o : LR) (s : State) := s.callTo o.g 1 (linkOf o.d) (fun c => c.gang.rdG o.a.toNat)
def execRet (o : LR) (s : State) := s.jump o.g 1 (fun c => (c, c.gang.rdG (linkOf o.a)))

/-- CALLO (R349): a matching token counts as a use of its entry; the callee is found as fetch finds it. -/
def execCallo (o : LR) (s : State) : Host.Outcome State Fault Refusal :=
  let s1 := match s.ctx with
    | some c =>
      if c.gang.qpred o.g.toNat then
        match (s.core c.core).tokenSlot (c.token o.a),
              s.bindingAt c.lau.func c.lau.aspace (c.gang.rdG o.b.toNat).toNat with
        | some i, some (m, off) =>
          if ((s.core c.core).res i).covers m off then
            s.updCore c.core (fun k => k.setRes i { (k.res i).charge c.lau.func with used := s.clkOf c.core })
          else s
        | _, _ => s
      else s
    | none => s
  s1.callTo o.g 1 (linkOf o.d) (fun c => c.gang.rdG o.b.toNat)

/-! ### REGANG and EXIT (R169, R350, R351) -/

/-- Further settling at X: entries in PHASE 1 that join here, or nowhere (R169). -/
def settleMore (x : Reg) : List MaskEntry → BitVec 4 → List MaskEntry × BitVec 4
  | [], m => ([], m)
  | e :: t, m =>
    if e.phase && (e.join == some x || e.join == none) then settleMore x t (m ||| e.doneMask) else (e :: t, m)

/-- A quad at the REGANG at X: `none` is a mismatch; else where it goes. -/
def Quad.atRegang (q : Quad) (x : Reg) : Option (Quad × Reg × Bool) :=
  match q.stack with
  | [] => some (q, x, true)
  | e :: t =>
    if e.phase then
      if e.join = some x ∨ e.join = none then
        let r := settleMore x t (q.mask ||| e.doneMask)
        some ({ q with mask := r.2, stack := r.1 }, x, true)
      else none
    else
      let e1 := { e with doneMask := q.mask, join := some x, phase := true }
      some ({ q with mask := e.other, stack := e1 :: t }, e.resume, false)

/-- A quad whose current lanes all exit: `none` where it has exited, else where it goes (R169). -/
def Quad.atExit (q : Quad) : List MaskEntry → Quad × Option (Reg × Bool)
  | [] => ({ q with mask := 0, stack := [] }, none)
  | e :: t =>
    if e.phase then
      match e.join with
      | some x =>
        let r := settleMore x t e.doneMask
        ({ q with mask := r.2, stack := r.1 }, some (x, true))
      | none => Quad.atExit q t
    else
      ({ q with mask := e.other, stack := { e with doneMask := 0, phase := true } :: t }, some (e.resume, false))

def execRegang (_ : LR) (s : State) : Host.Outcome State Fault Refusal :=
  s.onCtx (fun c =>
    let x := c.frag.pc
    let bad := c.frag.quads.filter (fun q => ((c.gang.quad q).atRegang x).isNone)
    if !bad.isEmpty then
      s.put (c.fault s.now .regangMismatch { lanes := laneMask ((c.contrib 7).filter (fun l => bad.contains (l / 4))) })
    else
      let r := c.frag.quads.foldl (fun (a : Gang × List Dest) q =>
        match (a.1.quad q).atRegang x with
        | some (y, pc, w) => (a.1.setQuad q y, a.2 ++ [{ quad := q, pc := pc, wait := w }])
        | none => a) (c.tick.gang, [])
      (s.scatter { c.tick with gang := r.1 } r.2 x).settled c)

/-- EXIT: the current lanes of every quad end; handler mode ends with it (R222). -/
def execExit (o : LR) (s : State) : Host.Outcome State Fault Refusal :=
  s.onCtx (fun c =>
    if !c.gang.qpred o.g.toNat then s.put (c.retire 1)
    else
      let r := c.frag.quads.foldl (fun (a : Gang × List Dest) q =>
        let y := (a.1.quad q).atExit (a.1.quad q).stack
        match y.2 with
        | some (pc, w) => (a.1.setQuad q y.1, a.2 ++ [{ quad := q, pc := pc, wait := w }])
        | none => (a.1.setQuad q y.1, a.2)) (c.tick.gang, [])
      let c1 : Ctx := { c.tick with gang := r.1, frag := { c.tick.frag with handler := false } }
      (s.scatter c1 r.2 c.frag.pc).settled c)

end Sys2Proof.Machine
end

