-- ==== Sys2Proof/Machine/System.lean ====
section
/-!
DEFINITION. Lanes seen from the uniform pipe, special registers, traps, dependent launches and SYS (R354 to R364).
-/

namespace Sys2Proof.Machine

/-! ### ELECT, LSEL, LWR (R354, R355) -/

def execElect (o : LR) (s : State) : Host.Outcome State Fault Refusal :=
  s.runU o.g 1 (fun c =>
    let e := (c.contrib 7).head?
    let c1 := c.eachP (c.active 7) o.d.toNat (fun l => e == some l)
    let v : Reg := match e with | some l => BitVec.ofNat 64 l | none => BitVec.allOnes 64
    .ok { c1 with gang := c1.gang.wrG o.a.toNat v })

def execLsel (o : LR) (s : State) : Host.Outcome State Fault Refusal :=
  s.runU o.g 1 (fun c =>
    let i := (c.gang.rdG o.b.toNat).toNat
    let v := if i < c.width ∧ c.lanes.contains i then (c.gang.rdV o.a.toNat i).setWidth 64 else 0
    .ok { c with gang := c.gang.wrG o.d.toNat v })

def execLwr (o : LR) (s : State) : Host.Outcome State Fault Refusal :=
  s.runU o.g 1 (fun c =>
    let i := (c.gang.rdG o.b.toNat).toNat
    let v := (c.gang.rdG o.a.toNat).setWidth 32
    .ok (if (c.active 7).contains i then { c with gang := c.gang.wrV o.d.toNat i v } else c))

/-! ### Special registers (R356 to R358) -/

/-- A 64-bit part of a 256-bit mask. -/
def part64 (x : BitVec 256) (i : Nat) : Reg := BitVec.ofNat 64 (x.toNat / 2 ^ (64 * i))
def setPart64 (x : BitVec 256) (i : Nat) (v : Reg) : BitVec 256 :=
  let m : BitVec 256 := BitVec.ofNat 256 ((2 ^ 64 - 1) * 2 ^ (64 * i))
  (x &&& ~~~m) ||| BitVec.ofNat 256 (v.toNat * 2 ^ (64 * i))

/-- The fragment's lowest-numbered quad. -/
def Ctx.lowQuad (c : Ctx) : Quad := c.gang.quad (c.frag.quads.head?.getD 0)

/-- A special register as a lane reads it; `none` is the uniform pipe, which takes the lowest-numbered quad's value of a
quad-scope register (R357). -/
def Ctx.sreg (c : Ctx) (hlc : Nat) (lane : Option Nat) (r : SReg) : Reg :=
  match r with
  | .lane => BitVec.ofNat 64 (lane.getD 0)
  | .quad => BitVec.ofNat 64 (lane.getD 0 / 4)
  | .helper => if (lane.map c.helper).getD false then 1 else 0
  | .gang => BitVec.ofNat 64 c.who.gang
  | .group => BitVec.ofNat 64 c.grp.indexReg
  | .dix => match lane with
    | some l => c.dixOf l
    | none => c.lowQuad.dix
  | .lclk => c.lowQuad.lclk
  | .wct => BitVec.ofNat 64 c.gang.wct
  | .fsticky => c.gang.fsticky.setWidth 64
  | .hlc => BitVec.ofNat 64 hlc
  | .smap i => c.grp.smap[i]
  | .mcast => c.grp.mcast
  | .tcbind i => c.grp.tcbind[i]
  | .rready i => part64 c.grp.rready i.val
  | .rpend i => part64 c.grp.rpend i.val
  | .frec i => if c.frag.handler then c.gang.frec[i] else 0
  | .m i => c.gang.m[i]

/-- SREAD (R357). -/
def execSread (o : LR) (s : State) : Host.Outcome State Fault Refusal :=
  match sregOf o.a o.b with
  | none => s.run 1 (fun _ => .bad .illegalInstruction {})
  | some r =>
    let takes : Bool := match s.ctx with
      | some c => r == .hlc && c.gang.qpred o.g.toNat
      | none => false
    let st := if takes then s.stamp (match s.ctx with | some c => dieOf c.core | none => 0) else (s, 0)
    st.1.runU o.g 1 (fun c =>
      if 96 ≤ o.d.toNat then .ok { c with gang := c.gang.wrG o.d.toNat (c.sreg st.2 none r) }
      else if r.narrow then .ok (c.each (c.active 7) o.d.toNat (fun l => (c.sreg st.2 (some l) r).setWidth 32))
      else .ok (c.each2 (c.active 7) o.d.toNat (fun l => c.sreg st.2 (some l) r)))

/-- A window of stash offsets or addresses meets another. -/
def spansMeet (a n b m : Nat) : Bool := decide (a < b + m) && decide (b < a + n)

/-- R42's checks of a stash map entry. -/
def Ctx.smapOk (c : Ctx) (i : Fin 8) (v : Reg) : Bool :=
  fld v 0 3 == 0 &&
  (smapLen v == 0 ||
    (decide (smapOff v + smapLen v ≤ c.stashBytes) &&
      (List.finRange 8).all (fun j =>
        let w := c.grp.smap[j]
        j == i || smapLen w == 0 ||
          (!spansMeet (smapOff v) (smapLen v) (smapOff w) (smapLen w) && !spansMeet (smapVa v) (smapLen v) (smapVa w) (smapLen w)))))

/-- The context that a %tcbind entry names (R80). -/
def boundCtx (func gid : Nat) (v : Reg) : Option CtxRef :=
  let i := fld v 0 4
  match fld v 4 4 with
  | 1 => some (.engine (coreOf gid))
  | 2 => some (.matrix gid)
  | 3 => some (.tap gid i)
  | 4 => some (.coll func i)
  | _ => none

/-- The mirror words of a context: function, address space and address (R80, R81). -/
def State.mirrors (s : State) (x : CtxRef) : List (Nat × Nat × Nat) :=
  (s.groups.flatMap (fun g =>
    match s.launches.find g.2.launch with
    | none => []
    | some lau => g.2.tcbind.toList.filterMap (fun v =>
        if boundCtx lau.func g.1 v = some x ∧ fld v 10 54 ≠ 0 then some (lau.func, lau.aspace, fld v 10 54 * 8) else none))).eraseDups

/-- R80's checks of a timeline binding. -/
def State.tcbindOk (s : State) (c : Ctx) (i : Fin 8) (v : Reg) : Bool :=
  let kind := fld v 4 4
  let g : Group := { c.grp with tcbind := c.grp.tcbind.set i v }
  let s1 := s.updGroup c.who.gid (fun _ => g)
  decide (kind ≤ 5) && fld v 8 2 == 0 && (kind != 3 || decide (fld v 0 4 < 8)) && (kind != 5 || fld v 10 54 != 0) &&
  (match boundCtx c.lau.func c.who.gid v with
   | some x => decide ((s1.mirrors x).length ≤ 4)
   | none => true)

/-- Write back and drop the lines of a window (R42, R45). -/
def State.dropWindow (s : State) (gid : Nat) (w : Reg) : State :=
  match s.groups.find gid with
  | none => s
  | some g =>
    (((g.lines.map Prod.fst).filter (fun k => decide (smapOff w ≤ k * 64) && decide (k * 64 < smapOff w + smapLen w)))).foldl
      (fun s k => (s.writeback gid k).dropLine gid k) s

/-- SWRITE (R358). -/
def execSwrite (o : LR) (s : State) : Host.Outcome State Fault Refusal :=
  s.onCtx (fun c =>
    let v := c.gang.rdG o.d.toNat
    let bad : Reason → State := fun r => s.put (c.fault s.now r)
    let grp : Group → State := fun g => s.put (({ c with grp := g } : Ctx).retire 1)
    let gang : Gang → State := fun g => s.put (({ c with gang := g } : Ctx).retire 1)
    if !c.gang.qpred o.g.toNat then s.put (c.retire 1)
    else
      match sregOf o.a o.b with
      | none => bad .illegalInstruction
      | some .dix =>
        let c1 := c.retire 1
        let qs := c1.frag.quads.foldl (fun g q => g.setQuad q { g.quad q with dix := v }) c1.gang
        s.put { c1 with gang := qs }
      | some .fsticky => if fld v 4 60 ≠ 0 then bad .badSreg else gang { c.gang with fsticky := v.setWidth 4 }
      | some (.smap i) =>
        if !c.smapOk i v then bad .badStashMap
        else
          let s1 := s.dropWindow c.who.gid c.grp.smap[i]
          let c1 := (s1.ctxOf c.who).getD c
          s1.put (({ c1 with grp := { c1.grp with smap := c1.grp.smap.set i v } } : Ctx).retire 1)
      | some .mcast => if fld v 13 51 ≠ 0 then bad .badMcast else grp { c.grp with mcast := v }
      | some (.tcbind i) => if !s.tcbindOk c i v then bad .badTcbind else grp { c.grp with tcbind := c.grp.tcbind.set i v }
      | some (.rready i) => grp { c.grp with rready := setPart64 c.grp.rready i.val v }
      | some (.rpend i) => grp { c.grp with rpend := setPart64 c.grp.rpend i.val (part64 c.grp.rpend i.val &&& ~~~v) }
      | some (.m i) => gang { c.gang with m := c.gang.m.set i v }
      | some _ => bad .badSreg)

/-! ### Traps (R359, R360, R220 to R223) -/

/-- A fault whose checkpoint is the following instruction: TRAP and DEBUG (R220; log 71). -/
def Ctx.faultAfter (c : Ctx) (now len : Nat) (r : Reason) (d : Detail := {}) : Ctx :=
  let f := c.fault now r d
  { c.retire len with frag := { (c.retire len).frag with state := f.frag.state } }

def execTrap (o : UI) (s : State) : Host.Outcome State Fault Refusal :=
  s.onCtx (fun c => s.put (c.faultAfter s.now 1 .trap { d0 := BitVec.ofNat 64 o.imm.toNat }))

def execBkpt (o : LR) (s : State) : Host.Outcome State Fault Refusal :=
  s.onCtx (fun c =>
    if c.gang.qpred o.g.toNat then s.put (c.faultAfter s.now 1 .debug) else s.put (c.retire 1))

/-- TRET: the return from a delegated fault, to the checkpoint that %frec1 holds (R221, R360). -/
def execTret (o : LR) (s : State) : Host.Outcome State Fault Refusal :=
  s.onCtx (fun c =>
    if !c.gang.qpred o.g.toNat then s.put (c.retire 1)
    else if !c.frag.handler then s.put (c.fault s.now .illegalInstruction)
    else
      let c1 := c.tick
      s.put { c1 with frag := { c1.frag.resume c.gang.frec[1] with handler := false } })

/-! ### Dependent launches (R159, R361, R362) -/

/-- LAUNCH.TRIG: a release, then the gang's trigger is recorded once; a handler group is no group of the grid, and its
trigger counts for none. -/
def execLaunchTrig (o : LR) (s : State) : Host.Outcome State Fault Refusal :=
  s.onCtx (fun c =>
    if !c.src.qpred o.g.toNat then s.put (c.retire 1)
    else
      let s1 := s.writebackAll c.who.gid
      let c1 := (s1.ctxOf c.who).getD c
      if c.frag.grant != some .passed && s1.unsettled c.who.gid c.who.gang then s1.put (c1.linger .settle)
      else if c.frag.grant != some .passed && decide (s1.now < c1.gang.wct) then s1.put (c1.linger (.wct c1.gang.wct false))
      else
        let s2 := s1.put (({ c1 with gang := { c1.gang with triggered := true } } : Ctx).retire 1)
        if c1.gang.triggered || c1.grp.handlerOf then s2
        else s2.updLaunch c.grp.launch (fun l => { l with triggers := l.triggers ++ [(c.grp.index, c.who.gang)] }))

/-- The launch that a launch depends on is complete, or there is none. -/
def State.depComplete (s : State) (lau : Launch) : Bool :=
  match lau.dep with
  | none => true
  | some d => ((s.launches.find d).map Launch.complete).getD true

/-- GRIDWAIT: wait for the predecessor's completion, then act as FENCE.L. -/
def execGridwait (o : LR) (s : State) : Host.Outcome State Fault Refusal :=
  s.onCtx (fun c =>
    if !c.src.qpred o.g.toNat then s.put (c.retire 1)
    else if !s.depComplete c.lau then s.put (c.sleep (.timeline none 0))
    else if s.loadsOut c.who.gid c.who.gang || c.otherMonitors then s.put (c.linger .fenceL)
    else s.put (c.retire 1))

/-! ### SYS (R363) -/

def execNop (o : LR) (s : State) : Host.Outcome State Fault Refusal := s.runU o.g 1 (fun c => .ok c)

/-- SLEEP: a wake that has come lets it retire. -/
def execSleep (o : LR) (s : State) : Host.Outcome State Fault Refusal :=
  s.onCtx (fun c =>
    let n := (c.gang.rdG o.a.toNat).toNat
    if !c.gang.qpred o.g.toNat || n == 0 || c.frag.grant == some .passed then s.put (c.retire 1)
    else s.put (c.sleep (.sleep (s.now + min n (2 ^ 20)))))

/-- YIELD: retired, and not eligible for the next 16 clk. -/
def execYield (o : LR) (s : State) : Host.Outcome State Fault Refusal :=
  s.onCtx (fun c =>
    let c1 := c.retire 1
    if !c.gang.qpred o.g.toNat then s.put c1
    else s.put { c1 with frag := { c1.frag with state := .sleeping (.yield (s.clkOf c.core + 16)), waited := 0, promoted := none } })

/-- MARK: a MARK record, or a MODE record with the lowest quad's %dix for gA = 0 (R414). -/
def execMark (o : LR) (s : State) : Host.Outcome State Fault Refusal :=
  s.onCtx (fun c =>
    if !c.gang.qpred o.g.toNat then s.put (c.retire 1)
    else
      let x := c.gang.rdG o.a.toNat
      let s1 := if x = 0 then s.trace c.lau.func c.core 9 0 c.lowQuad.dix.toNat
        else s.trace c.lau.func c.core 2 (c.who.gid % Config.groupsPerCore * 16 + c.who.gang) x.toNat
      s1.put (((s1.ctxOf c.who).getD c).retire 1))

def execTime (o : LR) (s : State) : Host.Outcome State Fault Refusal :=
  s.runU o.g 1 (fun c => .ok { c with gang := c.gang.wrG o.d.toNat (BitVec.ofNat 64 s.now) })

end Sys2Proof.Machine
end

