-- ==== Sys2Proof/Machine/Kv.lean ====
section
/-!
DEFINITION. The paged-tensor instructions (R32 to R37, R307 to R311). Each is planned from the values at the end of
the serial orders, every address translated first, and then performed as one operation.
-/

namespace Sys2Proof.Machine

/-- What stands in the way of an operation: a walk, a fault, a line that another holder has first to give up (R51), or
writes to what it reads whose time has not come. -/
inductive KvStop where
  | walk (va : Nat) (acc : Access)
  | bad (r : Reason) (d : Detail)
  | line (l : Nat)
  | until (t : Nat)

/-- What an operation does: its writes in order, the value for gD, and the fault it ends in. -/
structure KvPlan where
  writes : List (Nat × List Byte)
  result : Option Nat
  fault : Option (Reason × Detail)

/-- Translate an address (R311 step 2); an address in the aperture is PA_UNBACKED (R34), and data that is read must not be
uncorrectable (R234). -/
def State.kvPa (s : State) (c : Ctx) (acc : Access) (va : Nat) : Except KvStop Nat :=
  let d : Detail := { addr := BitVec.ofNat 64 va, lanes := c.faultLanes 7 }
  if inAperture va then .error (.bad .paUnbacked d)
  else
    match s.xl c.core c.lau.func c.lau.aspace va acc with
    | .bad r => .error (.bad r d)
    | .ok pa =>
      if acc != .write && s.ecc.contains (lineOf pa) then .error (.bad .uncorrectable { d with d0 := BitVec.ofNat 64 pa })
      else .ok pa
    | .miss => .error (.walk va acc)

/-- Translate a range: the addresses and lengths of its parts, split at 64 KiB. -/
def State.kvRange (s : State) (c : Ctx) (acc : Access) : Nat → Nat → Nat → Except KvStop (List (Nat × Nat))
  | 0, _, _ => .ok []
  | k + 1, va, n =>
    if n = 0 then .ok []
    else do
      let pa ← s.kvPa c acc va
      let len := min n (65536 - va % 65536)
      let t ← s.kvRange c acc k (va + len) (n - len)
      .ok ((pa, len) :: t)

/-- A line may be read now: nobody holds it, and no write to it waits for its time (R49, R51). -/
def State.kvLine (s : State) (line : Nat) : Except KvStop Unit :=
  if regionOf (line * 64) = 4 then .ok ()
  else if (s.recOf line).owner.isSome || s.lineHeld line then .error (.line line)
  else
    match s.pending.find? (fun p => p.onLine line && decide (s.now < p.t)) with
    | some p => .error (.until p.t)
    | none => .ok ()

/-- A byte as an operation reads it: the visible one, or what the host answers (R385; log 14). -/
def State.kvByte (s : State) (m : Memory) (pa : Nat) : Byte :=
  if regionOf pa = 4 then Config.hostByte s.free pa else s.byteIn m pa

/-- Bytes of translated parts. -/
def State.kvBytes (s : State) (ps : List (Nat × Nat)) : Except KvStop (List Byte) := do
  (ps.flatMap (fun p => linesOf p.1 p.2)).forM s.kvLine
  let m := s.vis
  .ok (ps.flatMap (fun p => (List.range p.2).map (fun i => s.kvByte m (p.1 + i))))

def State.kvLoad (s : State) (c : Ctx) (va n : Nat) : Except KvStop (List Byte) := do
  let ps ← s.kvRange c .read (n / 65536 + 2) va n
  s.kvBytes ps

/-- The writes of bytes to translated parts. -/
def partWrites : List (Nat × Nat) → List Byte → List (Nat × List Byte)
  | [], _ => []
  | p :: t, d => (p.1, d.take p.2) :: partWrites t (d.drop p.2)

/-- A pool descriptor (R32). -/
structure PoolDesc where
  va : Nat
  frameBase : Nat
  refc : Nat
  stack : Nat
  frameLog2 : Nat
  nframes : Nat
  top : Nat

/-- A page list's header (R33). -/
structure ListHead where
  va : Nat
  tokens : Nat
  cap : Nat
  pageLog2 : Nat

def kvBad (r : Reason) : Except KvStop α := .error (.bad r {})

/-- R311 step 1 for a header. -/
def Ctx.kvAlign (c : Ctx) (va n : Nat) : Except KvStop Unit :=
  if va % n ≠ 0 then .error (.bad .misaligned { addr := BitVec.ofNat 64 va, lanes := c.faultLanes 7 }) else .ok ()
def Ctx.kvGlobal (c : Ctx) (va : Nat) : Except KvStop Unit :=
  if inAperture va then .error (.bad .paUnbacked { addr := BitVec.ofNat 64 va, lanes := c.faultLanes 7 }) else .ok ()

/-- The header word, and whether its own checks fail (R33, R35). -/
def State.kvHeader (s : State) (c : Ctx) (va : Nat) : Except KvStop (ListHead × Nat × Bool) := do
  let hb ← s.kvLoad c va 8
  let h := leNat hb
  let head : ListHead := { va := va, tokens := bits h 32 32, cap := bits h 16 16, pageLog2 := bits h 8 4 }
  .ok (head, bits h 0 6, head.pageLog2 < 3 || 8 < head.pageLog2 || bits h 12 4 != 0 || bits h 6 2 != 0
    || head.cap * 2 ^ head.pageLog2 < head.tokens)

/-- A pool's descriptor, and whether its own checks fail (R32, R35); without a pool table there is none to read. -/
def State.kvDesc (s : State) (c : Ctx) (pool : Nat) : Except KvStop (PoolDesc × Bool) := do
  let base := (s.fn c.lau.func).kvPool.toNat
  if base = 0 then kvBad .badList
  else
    let dva := base + 64 * pool
    let db ← s.kvLoad c dva 64
    let w : Nat → Nat := fun i => leNat ((db.drop (8 * i)).take 8)
    let desc : PoolDesc := { va := dva, frameBase := w 0, refc := w 1, stack := w 2, frameLog2 := bits (w 3) 32 8,
                             nframes := bits (w 3) 0 32, top := bits (w 4) 0 32 }
    .ok (desc, bits (w 3) 40 24 != 0 || bits (w 4) 32 32 != 0 || w 5 != 0 || w 6 != 0 || w 7 != 0
      || desc.frameLog2 < 12 || 20 < desc.frameLog2)

/-- Entries in use: ceil(TOKENS / 2^PAGE_LOG2), of those that the list has. -/
def ListHead.used (h : ListHead) : Nat := min h.cap ((h.tokens + 2 ^ h.pageLog2 - 1) / 2 ^ h.pageLog2)

/-- No frame. -/
def noFrame : Nat := 0xFFFFFFFF

/-- The first n entries of a list. -/
def State.kvEntries (s : State) (c : Ctx) (h : ListHead) (n : Nat) : Except KvStop (List Nat) := do
  let bs ← s.kvLoad c (h.va + 8) (4 * n)
  .ok ((List.range n).map (fun i => leNat ((bs.drop (4 * i)).take 4)))

/-- An entry that names no frame of the pool (R35). -/
def PoolDesc.badFrame (p : PoolDesc) (f : Nat) : Bool := f != noFrame && decide (p.nframes ≤ f)

/-- The count words of frames: (frame, address, word), each frame once. -/
def State.kvCounts (s : State) (c : Ctx) (p : PoolDesc) (acc : Access) : List Nat → Except KvStop (List (Nat × Nat × Nat))
  | [] => .ok []
  | f :: t => do
    let pa ← s.kvPa c acc (p.refc + 4 * f)
    let b ← s.kvBytes [(pa, 4)]
    let r ← s.kvCounts c p acc t
    .ok ((f, pa, leNat b) :: r)

def countsOk (cs : List (Nat × Nat × Nat)) : Bool := cs.all (fun x => decide (x.2.2 < 65536))

/-- COUNT of a frame in a table, and the table with it changed. -/
def countOf (cs : List (Nat × Nat × Nat)) (f : Nat) : Nat := ((cs.find? (fun x => x.1 == f)).map (fun x => x.2.2)).getD 0
def countSet (cs : List (Nat × Nat × Nat)) (f n : Nat) : List (Nat × Nat × Nat) :=
  cs.map (fun x => if x.1 == f then (x.1, x.2.1, n) else x)
def countPa (cs : List (Nat × Nat × Nat)) (f : Nat) : Nat := ((cs.find? (fun x => x.1 == f)).map (fun x => x.2.1)).getD 0

/-- Distinct frames of the pool among entries; a bad descriptor names none. -/
def PoolDesc.framesOf (p : PoolDesc) (bad : Bool) (es : List Nat) : List Nat :=
  if bad then [] else (es.filter (fun f => f != noFrame && decide (f < p.nframes))).eraseDups

/-- KV.FORK (R35, R308). -/
def State.kvFork (s : State) (c : Ctx) (src dst : Nat) : Except KvStop KvPlan := do
  c.kvAlign src 8
  c.kvAlign dst 8
  c.kvGlobal src
  c.kvGlobal dst
  let (h, pool, hbad) ← s.kvHeader c src
  let len := 8 + 4 * h.cap
  let es ← s.kvEntries c h h.cap
  let out ← s.kvRange c .write (len / 65536 + 2) dst len
  let (p, dbad) ← s.kvDesc c pool
  let cs ← s.kvCounts c p .atomic (p.framesOf dbad (es.take h.used))
  if hbad || dbad || es.any p.badFrame || !countsOk cs || spansMeet src len dst len then kvBad .badList
  else
    let mine := (es.take h.used).filter (fun f => f != noFrame)
    let r := mine.foldl (fun (a : List (Nat × Nat × Nat) × Bool) f =>
      (countSet a.1 f (countOf a.1 f + 1), a.2 || decide (65535 ≤ countOf a.1 f))) (cs, false)
    if r.2 then kvBad .refcountOverflow
    else
      let hb ← s.kvLoad c src 8
      let bytes := hb ++ es.flatMap (toLE 4)
      .ok { writes := r.1.map (fun x => (x.2.1, toLE 4 x.2.2)) ++ partWrites out bytes, result := none, fault := none }

/-- What a pop of the free stack takes (R32): the frame, the writes of TOP and of its COUNT of 1, and whether the entry
names no frame or its count word has a nonzero RSVD bit, which a pop reads too (log 106). An empty stack, and one whose
descriptor is bad, give nothing. -/
def State.kvPop (s : State) (c : Ctx) (p : PoolDesc) (need : Bool) :
    Except KvStop (Option (Nat × List (Nat × List Byte)) × Bool) := do
  if !need || p.top = 0 then .ok (none, false)
  else
    let spa ← s.kvPa c .read (p.stack + 4 * (p.top - 1))
    let b ← s.kvBytes [(spa, 4)]
    let f := leNat b
    let topPa ← s.kvPa c .atomic (p.va + 32)
    if p.nframes ≤ f then .ok (none, true)
    else
      let cs ← s.kvCounts c p .atomic [f]
      .ok (some (f, [(topPa, toLE 4 (p.top - 1)), (countPa cs f, toLE 4 1)]), !countsOk cs)

/-- KV.APP (R35 to R37, R309). -/
def State.kvApp (s : State) (c : Ctx) (list row : Nat) : Except KvStop KvPlan := do
  c.kvAlign list 8
  c.kvAlign row 16
  c.kvGlobal list
  let rowBad : Except KvStop KvPlan := .error (.bad .paUnbacked { addr := BitVec.ofNat 64 row, lanes := c.faultLanes 7 })
  if (s.aperture c row 1).map Prod.fst ≠ some c.who.gid then rowBad
  else
    let (h, pool, hbad) ← s.kvHeader c list
    let t := h.tokens
    let per := 2 ^ h.pageLog2
    let fresh := t % per = 0
    let room := decide (t < h.cap * per)
    let eva := list + 8 + 4 * (t / per)
    let hpa ← s.kvPa c .write (list + 4)
    let eb ← if room then s.kvLoad c eva 4 else .ok []
    let f := if room then leNat eb else noFrame
    let epa ← if room && f = noFrame && fresh then s.kvPa c .write eva else .ok 0
    let (p, dbad) ← s.kvDesc c pool
    let cs ← s.kvCounts c p .read (p.framesOf dbad [f])
    let shared := decide (1 < countOf cs f)
    let (popped, pbad) ← s.kvPop c p (!hbad && !dbad && room && (shared || (f = noFrame && fresh)))
    let len := 2 ^ (p.frameLog2 - h.pageLog2)
    let frame : Option Nat := if shared then none else if f = noFrame then popped.map Prod.fst else some f
    let ps ← match frame with
      | some k => if hbad || dbad || p.badFrame k then .ok [] else
          s.kvRange c .write (len / 65536 + 2) (p.frameBase + k * 2 ^ p.frameLog2 + t % per * len) len
      | none => .ok []
    let detail : Nat → Detail := fun new =>
      { d0 := BitVec.ofNat 64 list, d1 := BitVec.ofNat 64 (t * 2 ^ 32), d2 := BitVec.ofNat 64 (f * 2 ^ 32 + new) }
    if hbad || dbad || p.badFrame f || !countsOk cs || pbad || (room && f != noFrame && countOf cs f == 0) then kvBad .badList
    else if (s.aperture c row len).isNone then rowBad
    else if !room then kvBad .listFull
    else
      let write : List (Nat × List Byte) → KvPlan := fun more =>
        { writes := partWrites ps (c.grp.stashBytesAt (row - Config.localBase) len) ++ more ++ [(hpa, toLE 4 (t + 1))]
          result := some t, fault := none }
      if f = noFrame ∧ !fresh then kvBad .badList
      else if f ≠ noFrame ∧ !shared then .ok (write [])
      else
        match popped with
        | none => .error (.bad .poolEmpty (detail noFrame))
        | some (nf, ws) =>
          if shared then .ok { writes := ws, result := none, fault := some (.cow, detail nf) }
          else .ok (write (ws ++ [(epa, toLE 4 nf)]))

/-- Decrements of COUNT in order (R35): the table, the frames to push, and the frame whose COUNT was 0. -/
def dropCounts : List Nat → List (Nat × Nat × Nat) → List (Nat × Nat × Nat) × List Nat × Option Nat
  | [], cs => (cs, [], none)
  | f :: t, cs =>
    if countOf cs f = 0 then (cs, [], some f)
    else
      let r := dropCounts t (countSet cs f (countOf cs f - 1))
      if countOf cs f = 1 then (r.1, f :: r.2.1, r.2.2) else r

/-- What decrements of frames do (R32, R35): the writes of counts and pushes, the frame whose COUNT was 0, and whether a
count word has a nonzero RSVD bit. -/
def State.kvRelease (s : State) (c : Ctx) (p : PoolDesc) (dbad : Bool) (frames : List Nat) :
    Except KvStop (List (Nat × List Byte) × Option Nat × Bool) := do
  let cs ← s.kvCounts c p .atomic (p.framesOf dbad frames)
  let r := dropCounts (if dbad then [] else frames) cs
  let counts := (r.1.filter (fun x => !cs.contains x)).map (fun x => (x.2.1, toLE 4 x.2.2))
  if r.2.1.isEmpty then .ok (counts, r.2.2, !countsOk cs)
  else
    let ps ← s.kvRange c .write (r.2.1.length / 16384 + 2) (p.stack + 4 * p.top) (4 * r.2.1.length)
    let topPa ← s.kvPa c .atomic (p.va + 32)
    .ok (counts ++ partWrites ps (r.2.1.flatMap (toLE 4)) ++ [(topPa, toLE 4 (p.top + r.2.1.length))], r.2.2, !countsOk cs)

/-- The fault of an underflow (R219). -/
def underflowFault (list : Nat) (f : Option Nat) : Option (Reason × Detail) :=
  f.map (fun f => (.refcountUnderflow, { d0 := BitVec.ofNat 64 list, d2 := BitVec.ofNat 64 f }))

/-- KV.DROP (R35, R310). -/
def State.kvDrop (s : State) (c : Ctx) (list : Nat) : Except KvStop KvPlan := do
  c.kvAlign list 8
  c.kvGlobal list
  let (h, pool, hbad) ← s.kvHeader c list
  let n := h.used
  let es ← s.kvEntries c h n
  let epa ← if n = 0 then .ok [] else s.kvRange c .write (n / 16384 + 2) (list + 8) (4 * n)
  let hpa ← if n = 0 then .ok 0 else s.kvPa c .write (list + 4)
  let (p, dbad) ← s.kvDesc c pool
  let (ws, under, cbad) ← s.kvRelease c p dbad (es.filter (fun f => f != noFrame && !p.badFrame f))
  if hbad || dbad || es.any p.badFrame || cbad then kvBad .badList
  else if n = 0 then .ok { writes := [], result := none, fault := none }
  else
    match under with
    | some _ => .ok { writes := ws, result := none, fault := underflowFault list under }
    | none =>
      .ok { writes := ws ++ partWrites epa (List.replicate (4 * n) 0xFF) ++ [(hpa, toLE 4 0)], result := none, fault := none }

/-- KV.DROP.FRAME (R310): of the header only POOL counts (log 74). -/
def State.kvDropFrame (s : State) (c : Ctx) (list frame : Nat) : Except KvStop KvPlan := do
  c.kvAlign list 8
  c.kvGlobal list
  let (_, pool, _) ← s.kvHeader c list
  let (p, dbad) ← s.kvDesc c pool
  let bad := dbad || decide (p.nframes ≤ frame)
  let (ws, under, cbad) ← s.kvRelease c p bad [frame]
  if bad || cbad then kvBad .badList
  else .ok { writes := ws, result := none, fault := underflowFault list under }

/-- A gang's write through the home slices, line by line: the latest T, which goes to %wct (R34, R49); a line of host
memory waits for the host's acknowledgement (R39). -/
def State.gangWrite (s : State) (c : Ctx) : Nat → Nat → List Byte → State × Nat
  | 0, _, _ => (s, 0)
  | n + 1, pa, data =>
    if data.isEmpty then (s, 0)
    else
      let p := splitLine pa data
      if regionOf pa = 4 then
        let s1 := (s.post c .store [c.part 64 0 0 pa 0 p.1] 0 0 .flight).toHost
        s1.gangWrite c n (pa + p.1.length) p.2
      else
        let w := s.writeLine { func := c.lau.func, ins := s.nextIns, gangs := [(c.who.gid, c.who.gang)] } pa p.1 0
        let r := ((w.1.foldWct c.who.gid c.who.gang w.2).noteT (some c.grp.launch) w.2).gangWrite c n (pa + p.1.length) p.2
        (r.1, max w.2 r.2)

/-- Perform a plan: its writes; then, once the latest of their times has come, the instruction has retired, or it takes
the plan's fault (R34). -/
def State.kvPerform (s : State) (c : Ctx) (d : Nat) (p : KvPlan) : State :=
  let w := p.writes.foldl (fun (a : State × Nat) w =>
    let r := a.1.gangWrite c (w.2.length / 64 + 2) w.1 w.2
    (r.1, max a.2 r.2)) (s, 0)
  let s2 : State := { w.1 with nextIns := w.1.nextIns + 1, free := w.1.free + 1 }
  let c1 := (s2.ctxOf c.who).getD c
  match p.fault with
  | some (r, x) =>
    if w.2 ≤ s.now then s2.put (c1.fault s.now r x)
    else s2.put { c1 with frag := { c1.frag with state := .stalled (.until w.2), grant := some (.fault r x.d0 x.d1 x.d2) } }
  | none =>
    let c2 : Ctx := match p.result with
      | some t => { c1 with gang := c1.gang.wrG d (BitVec.ofNat 64 t) }
      | none => c1
    let c3 := (c2.enter s2 0).retire 2
    s2.put (if w.2 ≤ s.now then c3 else { c3 with frag := { c3.frag with state := .stalled (.until w.2) } })

/-- A paged-tensor instruction: SKIP, the limit of R224, the gang's earlier writes settled, then the plan. -/
def State.kvRun (s : State) (o : LX) (plan : State → Ctx → Except KvStop KvPlan) : Host.Outcome State Fault Refusal :=
  s.onCtx (fun c =>
    match c.frag.grant with
    | some (.fault r d0 d1 d2) => s.put (c.fault s.now r { d0 := d0, d1 := d1, d2 := d2 })
    | some (.walkFault r va) => s.put (c.fault s.now r { addr := BitVec.ofNat 64 va, lanes := c.faultLanes 7 })
    | _ =>
      if !c.gang.qpred o.w.g.toNat then s.put (c.retire 2)
      else if c.skipped then s.put ((c.enter s 0).retire 2)
      else if s.memFull c then s.put (c.stall .memLimit)
      else if c.olderWaits then s.put (c.stall .older)
      else if s.unsettled c.who.gid c.who.gang then s.put (c.stall .settle)
      else
        match plan s c with
        | .error (.bad r d) => s.put (c.fault s.now r d)
        | .error (.walk va acc) =>
          s.stallWalk c { who := c.who, func := c.lau.func, aspace := c.lau.aspace, va := va, kind := acc }
        | .error (.line l) =>
          let s1 := s.arrive l
          s1.put (((s1.ctxOf c.who).getD c).stall .settle)
        | .error (.until t) => s.put (c.stall (.until t))
        | .ok p => s.kvPerform c o.w.d.toNat p)

def execKvFork (o : LX) (s : State) :=
  s.kvRun o (fun s c => s.kvFork c (c.gang.rdG o.w.a.toNat).toNat (c.gang.rdG o.w.b.toNat).toNat)
def execKvApp (o : LX) (s : State) :=
  s.kvRun o (fun s c => s.kvApp c (c.gang.rdG o.w.a.toNat).toNat (c.gang.rdG o.w.b.toNat).toNat)
def execKvDrop (o : LX) (s : State) := s.kvRun o (fun s c => s.kvDrop c (c.gang.rdG o.w.a.toNat).toNat)
def execKvDropFrame (o : LX) (s : State) :=
  s.kvRun o (fun s c => s.kvDropFrame c (c.gang.rdG o.w.a.toNat).toNat ((c.gang.rdG o.w.b.toNat).toNat / 2 ^ 32))

end Sys2Proof.Machine
end

