-- ==== Sys2Proof/Machine/Walk.lean ====
section
/-!
DEFINITION. Walk programs and the iterations they stand for (R68 to R71), and what an engine command says in its words.
-/

namespace Sys2Proof.Machine

/-! ### Walk programs (R68 to R71) -/

/-- A micro-step (R68). -/
inductive WStep where
  | stop
  | loop (count : Nat) (src dst : Int)
  | pad (i j a b lo extent : Nat)
  | index (loop width : Nat) (signed : Bool) (scale off : Nat)
  | elem (run : Nat)
  deriving DecidableEq, Repr

/-- Decode a micro-step; `none` for a reserved code or a nonzero RSVD field (R70). A PAD step with EXTENT 0 is accepted and
takes every iteration (log 107). -/
def stepOf (w : Reg) : Option WStep :=
  match fld w 60 4 with
  | 0 => if fld w 0 60 = 0 then some .stop else none
  | 1 => some (.loop (fld w 48 12 + 1) (sval 24 (fld w 24 24)) (sval 24 (fld w 0 24)))
  | 2 => if fld w 0 12 = 0 then
      some (.pad (fld w 56 4) (fld w 52 4) (fld w 48 4 + 1) (fld w 44 4 + 1) (fld w 32 12) (fld w 12 20)) else none
  | 3 => if fld w 20 30 = 0 ∧ fld w 50 3 ≤ 4 then
      some (.index (fld w 56 4) (8 * 2 ^ fld w 54 2) (fld w 53 1 == 1) (2 ^ fld w 50 3) (fld w 0 20)) else none
  | 4 => if fld w 0 44 = 0 then some (.elem (fld w 44 16 + 1)) else none
  | _ => none

/-- The steps of a program up to its ELEM: an END follows it, or it is the sixteenth (R70). `rd` gives the word of a
step. -/
def progSteps (rd : Nat → Option Reg) : Nat → Nat → Option (List Reg)
  | 0, _ => none
  | k + 1, i =>
    match rd i with
    | none => none
    | some w =>
      match stepOf w with
      | none | some .stop => none
      | some (.elem _) =>
        if k = 0 then some [w]
        else
          match (rd (i + 1)).bind stepOf with
          | some .stop => some [w]
          | _ => none
      | some _ => (progSteps rd k (i + 1)).map (fun t => w :: t)

def stepsOf (p : List Reg) : List WStep := p.filterMap stepOf

/-- The LOOPs of a program with their step numbers, outermost first. -/
def loopsOf (p : List Reg) : List (Nat × Nat × Int × Int) :=
  ((stepsOf p).mapIdx (fun i x => (i, x))).filterMap (fun x =>
    match x.2 with
    | .loop c a b => some (x.1, c, a, b)
    | _ => none)

/-- RUN of the ELEM step. -/
def runOf (p : List Reg) : Nat :=
  (((stepsOf p).findSome? (fun x => match x with
    | .elem r => some r
    | _ => none))).getD 0

/-- The iterations of a program. -/
def itersOf (p : List Reg) : Nat := (loopsOf p).foldl (fun n l => n * l.2.1) 1

/-- The counts of iteration t, one for each LOOP, the innermost fastest (R69). -/
def iterAt : List Nat → Nat → List Nat
  | [], _ => []
  | c :: cs, t =>
    let inner := cs.foldl (· * ·) 1
    (t / inner % c) :: iterAt cs (t % inner)

/-- The count of the LOOP at a step. -/
def countAt (p : List Reg) (t step : Nat) : Nat :=
  let ls := loopsOf p
  ((((ls.map Prod.fst).zip (iterAt (ls.map (fun l => l.2.1)) t)).find? (fun x => x.1 == step)).map Prod.snd).getD 0

/-- The INDEX step that names a LOOP. -/
def indexFor (p : List Reg) (step : Nat) : Option (Nat × Bool × Nat × Nat) :=
  (stepsOf p).findSome? (fun x => match x with
    | .index l w sg sc off => if l = step then some (w, sg, sc, off) else none
    | _ => none)

/-- An element of an index vector in the partition, scaled (R69). -/
def Group.indexAt (g : Group) (x : Nat × Bool × Nat × Nat) (i : Nat) : Int :=
  let n := x.1 / 8
  ext x.2.1 x.1 (leNat (g.stashBytesAt (x.2.2.2 + i * n) n)) * x.2.2.1

/-- The source offset of iteration t (R69), given the index element of a LOOP. -/
def srcOffBy (p : List Reg) (t : Nat) (el : Nat → (Nat × Bool × Nat × Nat) → Int) : Int :=
  (loopsOf p).foldl (fun a l =>
    a + (match indexFor p l.1 with
      | some x => el l.1 x
      | none => (countAt p t l.1 : Int) * l.2.2.1)) 0

/-- The source offset of iteration t with the index vector as it stands. -/
def Group.srcOff (g : Group) (p : List Reg) (t : Nat) : Int := srcOffBy p t (fun step x => g.indexAt x (countAt p t step))

/-- Iterations of a LOOP, counted from the walk's beginning: iteration t lies in this one. -/
def iterNo (p : List Reg) (t step : Nat) : Nat :=
  t / (((loopsOf p).dropWhile (fun l => l.1 != step)).drop 1).foldl (fun n l => n * l.2.1) 1

/-- The index elements in hand at iteration t (R74): each LOOP's element is read as its iteration begins. -/
def Group.indexIn (g : Group) (p : List Reg) (t : Nat) (held : List (Nat × Nat × Int)) : List (Nat × Nat × Int) :=
  (loopsOf p).filterMap (fun l => (indexFor p l.1).map (fun x =>
    match held.find? (fun y => y.1 == l.1 && y.2.1 == iterNo p t l.1) with
    | some y => y
    | none => (l.1, iterNo p t l.1, g.indexAt x (countAt p t l.1))))

/-- The source offset of iteration t with the elements in hand. -/
def srcOffIn (p : List Reg) (t : Nat) (held : List (Nat × Nat × Int)) : Int :=
  srcOffBy p t (fun step _ => ((held.find? (fun y => y.1 == step)).map (fun y => y.2.2)).getD 0)

/-- The destination offset of iteration t. -/
def dstOff (p : List Reg) (t : Nat) : Int := (loopsOf p).foldl (fun a l => a + (countAt p t l.1 : Int) * l.2.2.2) 0

/-- Some PAD step takes iteration t (R69). -/
def padded (p : List Reg) (t : Nat) : Bool :=
  (stepsOf p).any (fun x => match x with
    | .pad i j a b lo e =>
      let v : Int := (a * countAt p t i + b * countAt p t j : Nat) - (lo : Int)
      decide (v < 0) || decide ((e : Int) ≤ v)
    | _ => false)

/-- Iteration t lies below the valid count of the outermost LOOP (R71); a program without a LOOP ignores the count
(log 108). -/
def underCount (p : List Reg) (v : Option Nat) (t : Nat) : Bool :=
  match v, loopsOf p with
  | some n, l :: _ => decide (countAt p t l.1 < n)
  | _, _ => true

/-- The lowest and the highest destination offset with DST_BASE 0. -/
def dstLow (p : List Reg) : Int := (loopsOf p).foldl (fun a l => a + (l.2.1 - 1 : Nat) * min l.2.2.2 0) 0
def dstHigh (p : List Reg) : Int := (loopsOf p).foldl (fun a l => a + (l.2.1 - 1 : Nat) * max l.2.2.2 0) 0
/-- TILE of a ring command (R326). -/
def tileOf (p : List Reg) : Nat := (dstHigh p + runOf p).toNat

/-- PAD and INDEX name LOOPs, no LOOP twice in INDEX; the total is at most 2^32 bytes (R70). -/
def progOk (p : List Reg) : Bool :=
  let ls := (loopsOf p).map Prod.fst
  let idx := (stepsOf p).filterMap (fun x => match x with
    | .index l _ _ _ _ => some l
    | _ => none)
  (stepsOf p).all (fun x => match x with
    | .pad i j _ _ _ _ => ls.contains i && ls.contains j
    | .index l _ _ _ _ => ls.contains l
    | _ => true)
  && idx.eraseDups.length == idx.length && decide (itersOf p * runOf p ≤ 2 ^ 32)

/-! ### Commands (R313, R325) -/

/-- SUB of XA (R247). -/
def subOf (x : Nat) : Nat := bits x 12 7

/-- Parts of a command's words. -/
def Cmd.xa (c : Cmd) : Nat := c.words.2.toNat
def Cmd.sub (c : Cmd) : Nat := subOf c.xa
def Cmd.cReg (c : Cmd) : Nat := bits c.xa 25 7
def Cmd.mreg (c : Cmd) : Nat := bits c.xa 0 3
def Cmd.ty (c : Cmd) : Nat := bits c.xa 8 4
def Cmd.bar (c : Cmd) : Option Nat := if c.sub / 64 = 1 then some (c.sub / 4 % 16) else none
def Cmd.ring (c : Cmd) : Bool := (c.op == 0x50 || c.op == 0x53) && c.sub % 2 == 1
def Cmd.acc (c : Cmd) : Bool := c.op == 0x51 && c.sub % 2 == 1
def Cmd.winOff (c : Cmd) : Nat := fld c.gw 32 22
/-- The valid count, where gV is named (R71). -/
def Cmd.vcount (c : Cmd) : Option Nat :=
  if (c.op = 0x50 ∨ c.op = 0x51 ∨ c.op = 0x53) ∧ c.cReg ≠ 0 then some (fld c.gc 0 32) else none

/-- The accumulator rows that a TW.STORE.ACC has still to read (R135, R326). -/
def Group.accRowsOf (g : Group) (accRows : Nat) (x : Cmd) : List Nat :=
  (((List.range (itersOf x.prog)).drop x.pos).flatMap (fun t =>
    if padded x.prog t || !underCount x.prog x.vcount t then []
    else
      let o := ((x.winOff : Int) + g.srcOff x.prog t) % ((accRows * 4096 : Nat) : Int)
      (List.range ((o.toNat % 4096 + runOf x.prog + 4095) / 4096)).map (fun i => (o.toNat / 4096 + i) % accRows))).eraseDups

end Sys2Proof.Machine
end

