-- ==== Sys2Proof/Machine/Record.lean ====
section
/-!
DEFINITION. The counters of contexts with their mirrors (R80, R81), the fault record (R217 to R219), the end of a
launch by TERMINATE (R220), and arrivals at a barrier (R79).
-/

namespace Sys2Proof.Machine

/-! ### Counters (R81) -/

/-- A command takes the next number. -/
def Counter.take (k : Counter) : Counter × Nat := ({ k with issued := k.issued + 1 }, k.issued + 1)

/-- Numbers above COUNT that follow it without a gap move COUNT on. -/
def Counter.advance (k : Counter) : Counter :=
  let r := k.done.foldl (fun (a : Nat × List Nat) x =>
    if x ≤ a.1 then a else if x = a.1 + 1 then (x, a.2) else (a.1, a.2 ++ [x])) (k.count, [])
  { k with count := r.1, done := r.2 }

/-- A number completes, in error or not. -/
def Counter.finish (k : Counter) (n : Nat) (err : Bool) : Counter :=
  Counter.advance { k with done := insertNat n k.done, errs := if err then insertNat n k.errs else k.errs }

/-- A command numbered n or lower ended in error (R82). -/
def Counter.errUpTo (k : Counter) (n : Nat) : Bool := k.errs.any (fun x => decide (x ≤ n))

/-- A collective context after reset (log 6). -/
def Coll.none : Coll := { n := 0, rank := 0, peers := [], ctr := Counter.zero, got := [] }
def Func.coll (f : Func) (k : Nat) : Coll := (f.colls.find k).getD Coll.none

/-- The port by which a function's messages to a peer leave (R401): the lowest of the peer's mask, for every port is active;
8 stands for none (log 95). -/
def Func.portTo (f : Func) (peer : Nat) : Nat :=
  ((List.range 8).find? (fun i => ((f.peers.find peer).map Peer.ports).getD 0 / 2 ^ i % 2 == 1)).getD 8

/-- The counter of a context. -/
def State.counter (s : State) (x : CtxRef) : Counter :=
  match x with
  | .engine c => (s.core c).engine
  | .matrix g => ((s.groups.find g).map Group.matrix).getD Counter.zero
  | .tap g t => (((s.groups.find g).bind (fun g => g.taps[t]?))).getD Counter.zero
  | .coll f k => ((s.fn f).coll k).ctr

def State.setCounter (s : State) (x : CtxRef) (c : Counter) : State :=
  match x with
  | .engine k => s.updCore k (fun k => { k with engine := c })
  | .matrix g => s.updGroup g (fun g => { g with matrix := c })
  | .tap g t => s.updGroup g (fun g => { g with taps := g.taps.setIfInBounds t c })
  | .coll f k => s.updFn f (fun x => { x with colls := x.colls.set k { x.coll k with ctr := c } })

/-- The launch on whose behalf a mirror word is stored to: that of the first group that binds it (R49, R159). -/
def State.mirrorLaunch (s : State) (x : CtxRef) (m : Nat × Nat × Nat) : Option Nat :=
  s.groups.findSome? (fun g =>
    match s.launches.find g.2.launch with
    | some lau =>
      if lau.func = m.1 ∧ lau.aspace = m.2.1 ∧ g.2.tcbind.toList.any (fun v =>
        boundCtx lau.func g.1 v == some x && fld v 10 54 * 8 == m.2.2) then some g.2.launch else none
    | none => none)

/-- The place of a context's unit. -/
def CtxRef.place : CtxRef → Nat
  | .engine c => c
  | .matrix g | .tap g _ => coreOf g
  | .coll _ _ => ioPlace

/-- COUNT goes to each mirror word (R81); a store that fails translation is lost (log 18). -/
def State.mirrorOut (s : State) (x : CtxRef) : State :=
  let n := (s.counter x).count
  (s.mirrors x).foldl (fun s m =>
    match s.unitStore m.1 m.2.1 (s.mirrorLaunch x m) m.2.2 (toLE 8 n) 0 x.place with
    | .ok r => r.1
    | .error _ => s) s

/-- A context's number completes. -/
def State.finishNo (s : State) (x : CtxRef) (n : Nat) (err : Bool) : State :=
  let k := (s.counter x).finish n err
  let s1 := s.setCounter x k
  if k.count = (s.counter x).count then s1 else s1.mirrorOut x

/-- KIND and INDEX of a context (R80, R219). -/
def CtxRef.code : CtxRef → Nat
  | .engine _ => 0x10
  | .matrix _ => 0x20
  | .tap _ t => 0x30 + t
  | .coll _ k => 0x40 + k

/-! ### A unit's atomic (R49, R53) -/

/-- An atomic that a unit makes: its old value, which the line's serial order gives, and its T; what the unit does with
the value takes no effect before T (log 81). -/
def State.unitAtomic (s : State) (func aspace : Nat) (lau : Option Nat) (va op ty opnd : Nat) (tr : Nat := ioPlace) :
    Except (Reason × Nat) (State × Nat × Nat) :=
  let s0 := s.unitWalk tr func aspace va .atomic
  match s0.xlNow tr func aspace va .atomic with
  | .bad r => .error (r, va)
  | .miss => .error (.notPresent, va)
  | .ok pa =>
    let n := tyBytes ty
    if regionOf pa = 4 then
      if !hostAtomOk op ty then .error (.paUnbacked, va)
      else
        let h := s0.hostBytes n
        let f := h.1.fresh
        .ok ({ f.1 with out := f.1.out ++ [Output.hostAtomic func f.2 pa op ty (BitVec.ofNat 64 opnd) 0] }, leNat h.2, s0.now)
    else if s0.ecc.contains (lineOf pa) then .error (.uncorrectable, va)
    else
      let s1 := s0.arrive (lineOf pa)
      let old := leNat (s1.last.bytes pa n)
      let w := s1.writeLine { func := func } pa (toLE n (atomNew op ty old opnd 0)) 0
      .ok (w.1.noteT lau w.2, old, w.2)

/-! ### TERMINATE (R220) -/

/-- The group of who waits at a monitor. -/
def Waiter.gid : Waiter → Option Nat
  | .frag w => some w.gid
  | .queue _ _ => none

/-- A request that failed at its home slice leaves no part of a group behind (R220). -/
def State.dropBad (s : State) (gid : Nat) : State :=
  let left : Req → Req := fun r =>
    match r.stage with
    | .bad _ => { r with parts := r.parts.filter (fun p => p.who.map Who.gid != some gid) }
    | _ => r
  { s with reqs := (s.reqs.map left).filter (fun r => !r.parts.isEmpty) }

/-- What the fragments of a group wait on lets go of them. -/
def State.withdraw (s : State) (gid : Nat) : State :=
  let mine : Parked → Bool := fun p => match p with
    | .frag w => w.gid == gid
    | _ => false
  { s with
    monitors := s.monitors.filter (fun m => m.who.gid != some gid)
    walks := s.walks.filter (fun w => w.who.gid != gid)
    xrecs := s.xrecs.map (fun r => { r with parked := r.parked.filter (fun p => !mine p.1) })
    rewalks := s.rewalks.filter (fun r => !mine r.what)
    pools := s.pools.map (fun p => (p.1, { p.2 with
      sleepers := p.2.sleepers.filter (fun w => w.gid != gid), held := p.2.held.filter (fun u => u.who.gid != gid) })) }

/-- Every gang of a group exits, and the group drains. -/
def State.endGroup (s : State) (gid : Nat) : State :=
  match s.groups.find gid with
  | none => s
  | some g =>
    if g.draining then s
    else
      let s1 := g.gangs.foldl (fun s x => s.dropPins (coreOf gid) x.pins) ((s.dropBad gid).withdraw gid)
      (s1.updGroup gid (fun g =>
        { g with gangs := g.gangs.map (fun x => { x with frags := [], pins := [] }), preempt := .none, focus := none })).exitGroup gid

/-- The RESUMEs that restored a group complete with it (R392). -/
def State.endResumes (s : State) (func : Nat) (qs : List Nat) : State :=
  qs.foldl (fun s q => s.updFn func (fun f =>
    let c := f.cqs[q]?.getD Cq.reset
    { f with cqs := f.cqs.setIfInBounds q { c with resumes := c.resumes - 1 } })) s

/-- The RESUMEs that restored groups of a launch which are in images complete with the launch (R392; log 82). -/
def State.endSaved (s : State) (l : Nat) : State :=
  (s.saves.filter (fun x => x.launch == l)).foldl (fun s x => s.endResumes x.func x.grp.resumedBy)
    { s with saves := s.saves.map (fun x => if x.launch == l then { x with grp := { x.grp with resumedBy := [] } } else x) }

/-- TERMINATE of a launch: every group of it exits and drains; no further group is claimed (log 82). -/
def State.terminate (s : State) (l : Nat) : State :=
  let s1 := ((s.groups.filter (fun g => g.2.launch == l)).map Prod.fst).foldl (fun s g => s.endGroup g) (s.endSaved l)
  State.updLaunch { s1 with runList := s1.runList.filter (fun r => r != .launch l) } l
    (fun x => { x with terminated := true, allClaimed := true })

/-! ### The fault record (R217 to R219) -/

/-- A fault-record entry (R218). -/
structure FEntry where
  reason : Reason
  kind : Nat
  delegated : Bool := false
  nested : Bool := false
  gang : Nat := 0
  quads : List Nat := []
  group : Nat := 0
  pc : Reg := 0
  addr : Reg := 0
  lanes : BitVec 64 := 0
  tick : Nat
  d0 : Reg := 0
  d1 : Reg := 0
  d2 : Reg := 0

def FEntry.word0 (e : FEntry) : Nat :=
  e.reason.code * 2 ^ 56 + e.kind * 2 ^ 54 + (if e.delegated then 2 ^ 53 else 0) + (if e.nested then 2 ^ 52 else 0)
    + e.gang % 16 * 2 ^ 48 + e.quads.foldl (fun n q => n + 2 ^ (q % 16)) 0 * 2 ^ 32 + e.group % 2 ^ 32

/-- The eight words of an entry; %frec0 to %frec7 show the same (R221). -/
def FEntry.words (e : FEntry) : List Reg :=
  [BitVec.ofNat 64 e.word0, e.pc, e.addr, e.lanes, BitVec.ofNat 64 e.tick, e.d0, e.d1, e.d2]

/-- The bytes of 64-bit words. -/
def wordBytes (ws : List Reg) : List Byte := ws.flatMap (fun w => toLE 8 w.toNat)

/-- Append an entry to a kernel's record from a core, then notify the host: the state and the entry's address; a
failure loses the entry, ends the launch and raises an ERROR event. -/
def State.appendAt (s : State) (l core : Nat) (e : FEntry) : State × Option Nat :=
  match s.launches.find l with
  | none => (s, none)
  | some lau =>
    let base := lau.rcd.faultBase.toNat
    let lost : State → Nat → State × Option Nat := fun s va =>
      ((s.terminate l).event lau.func 5 (BitVec.ofNat 64 va) (BitVec.ofNat 64 (e.reason.code + 256)) 0, none)
    match s.unitAtomic lau.func lau.aspace (some l) base 0 3 1 core with
    | .error x => lost s x.2
    | .ok (s1, n, t0) =>
      match s1.unitWord lau.func lau.aspace (base + 8) 4 .read core with
      | .error x => lost s1 x.2
      | .ok (s2, cap) =>
        let va := base + 64 + 64 * n
        let done : State → Nat → List Nat → State × Option Nat := fun s due hs =>
          ((s.trace lau.func core 5 e.reason.code va).event lau.func 1 (BitVec.ofNat 64 va) (BitVec.ofNat 64 n) 0 due hs, some va)
        if n < cap then
          match s2.unitStore lau.func lau.aspace (some l) va (wordBytes e.words) t0 core with
          | .error x => lost s2 x.2
          | .ok (s3, t, hs) => done s3 (max t t0) hs
        else done s2 t0 []

/-- Append an entry (R217). -/
def State.append (s : State) (l core : Nat) (e : FEntry) : State := (s.appendAt l core e).1

/-- A KIND 1 entry (R219): a unit's work for an instruction of a gang. `err` is the reason that the command ended
with. -/
def State.recordUnit (s : State) (who : Who) (pc : Reg) (quads : List Nat) (x : CtxRef) (n : Nat) (r : Reason)
    (err : Reason) (addr bar : Nat) : State :=
  match s.groups.find who.gid with
  | none => s
  | some g =>
    s.append g.launch (coreOf who.gid)
      { reason := r, kind := 1, gang := who.gang, quads := quads, group := g.indexReg, pc := pc, addr := BitVec.ofNat 64 addr,
        tick := s.now, d0 := BitVec.ofNat 64 n, d1 := BitVec.ofNat 64 (x.code + bar * 2 ^ 16), d2 := BitVec.ofNat 64 err.code }

/-! ### Arrivals at a barrier (R78, R79) -/

/-- c arrivals: the barrier, and the arrivals that 4,095 cut off. `bad` marks an engine arrival of a command in error. -/
def Barrier.arrive (b : Barrier) (c : Nat) (bad : Bool) : Barrier × Nat :=
  let n := b.arrived.toNat + c
  if b.expected ≠ 0 ∧ b.expected.toNat ≤ n ∧ c ≠ 0 then
    ({ b with phase := !b.phase, arrived := 0, bad := false, lastBad := b.bad || bad }, 0)
  else ({ b with arrived := BitVec.ofNat 12 (min n 4095), bad := b.bad || bad }, n - 4095)

/-- A barrier has completed: those that wait for it go on, with their predicate (R79, R333). -/
def State.wakeBarrier (s : State) (gid k : Nat) (ok : Bool) : State :=
  s.updGroup gid (fun g => { g with gangs := g.gangs.map (fun x => { x with frags := x.frags.map (fun f =>
    if f.state == .sleeping (.barrier k) then f.wake (some (.pred ok)) else f) }) })

/-- One engine arrival at a barrier of a group, with the entry of an overflow. -/
def State.engineArrive (s : State) (gid k : Nat) (bad : Bool) (who : Who) (pc : Reg) (quads : List Nat) (x : CtxRef)
    (n : Nat) (err : Reason) : State :=
  match s.groups.find gid with
  | none => s
  | some g =>
    let b := g.bars[k]?.getD Barrier.zero
    let r := b.arrive 1 bad
    let s0 := s.updGroup gid (fun g => { g with bars := g.bars.setIfInBounds k r.1 })
    let s1 := if r.1.phase = b.phase then s0 else s0.wakeBarrier gid k (!r.1.lastBad)
    if r.2 = 0 then s1 else s1.recordUnit who pc quads x n .barrierOverflow err 0 k

end Sys2Proof.Machine
end

