-- ==== Sys2Proof/Machine/Matrix.lean ====
section
/-!
DEFINITION. The matrix engine: handles, tiles, banks, sums and passes (R106 to R125, R314 to R323), and the
instructions that post its work.
-/

namespace Sys2Proof.Machine

/-! ### Handles (R314 to R316) -/

def Handle.rows (h : Handle) : Nat := fld h.dims 20 20
def Handle.cols (h : Handle) : Nat := fld h.dims 0 20
def Handle.gen (h : Handle) : Nat := fld h.genSlot 54 10
def Handle.slot (h : Handle) : Nat := fld h.genSlot 0 3

/-- What a bank's tag keeps of a handle (R108): its words without the number of its format slot, whose contents the tag
holds. -/
def Handle.bare (h : Handle) : Handle := { h with genSlot := BitVec.ofNat 64 (h.gen * 2 ^ 54) }

/-- The format slot of a handle's elements. -/
def Group.slotOf (g : Group) (h : Handle) : FmtSlot := g.slots[h.slot]?.getD FmtSlot.zero

/-- The gang's handle of a number. -/
def Gang.handle (g : Gang) (i : Nat) : Handle := g.h[i]?.getD Handle.zero

/-- A reservation names a handle of a gang. -/
def Rsv.names (r : Rsv) (w : Who) (i : Nat) : Bool :=
  r.who.gid == w.gid && r.who.gang == w.gang && (r.hB.1 == i || (r.op != 0x42 && r.hA.1 == i))

/-- A tap block names a handle of a gang (R126, R336). -/
def TapBlock.names (b : TapBlock) (w : Who) (i : Nat) : Bool :=
  b.gang == w.gang &&
    (match b.desc.head? with
     | some d => fld d 20 4 == i || fld d 16 4 == i
     | none => false)

/-- HSET (R315). -/
def execHset (o : LX) (s : State) : Host.Outcome State Fault Refusal :=
  s.onCtx (fun c =>
    let i := o.w.d.toNat
    let base := c.gang.rdG o.w.a.toNat
    let dims := c.gang.rdG (o.w.a.toNat + 1)
    let stride := c.gang.rdG o.w.b.toNat
    if !c.gang.qpred o.w.g.toNat then s.put (c.retire 2)
    else if fld base 57 7 ≠ 0 ∨ fld dims 40 24 ≠ 0 ∨ fld dims 20 20 = 0 ∨ fld dims 0 20 = 0 ∨ fld stride 0 2 ≠ 0 then
      s.put (c.fault s.now .matrixConfig)
    else if (s.core c.core).rsvs.any (fun r => r.names c.who i) || c.grp.tapBlocks.any (fun b => b.names c.who i) then
      s.put (c.stall .inUse)
    else
      let gen := ((c.gang.handle i).gen + 1) % 1024
      let h : Handle := { base := base, dims := dims, stride := stride
                          genSlot := BitVec.ofNat 64 (gen * 2 ^ 54 + o.x.slot.toNat) }
      let s1 := s.updCore c.core (fun k =>
        { k with
          opcache := k.opcache.filter (fun e => !(e.gid == c.who.gid && e.handle == i))
          banks := k.banks.map (fun b =>
            match b.tag with
            | some t => if t.func == c.lau.func && t.aspace == c.lau.aspace && t.handle == h.bare && t.slot == c.grp.slotOf h then { b with tag := none } else b
            | none => b) })
      s1.put (({ c with gang := { c.gang with h := c.gang.h.setIfInBounds i h } } : Ctx).retire 2))

/-- HGET (R316). -/
def execHget (o : LR) (s : State) : Host.Outcome State Fault Refusal :=
  s.runU o.g 1 (fun c =>
    let h := c.gang.handle o.a.toNat
    let w := match o.b.toNat with
      | 0 => h.base
      | 1 => h.dims
      | 2 => h.stride
      | _ => BitVec.ofNat 64 (h.gen * 2 ^ 54 + h.slot)
    .ok { c with gang := c.gang.wrG o.d.toNat w })

/-! ### A unit's reads for a group (R72, R288, R314) -/

abbrev Stop := Reason × Nat

/-- The launch of a placed group, with the group. -/
def State.grpOf (s : State) (gid : Nat) : Option (Group × Launch) :=
  match s.groups.find gid with
  | some g => (s.launches.find g.launch).map (fun l => (g, l))
  | none => none

/-- The partition that an aperture address names for a group, and the offset (R288). -/
def State.localSpan (s : State) (gid va n : Nat) : Option (Nat × Nat) :=
  match s.grpOf gid with
  | none => none
  | some (g, l) =>
    let o := va - Config.localBase
    let off := o % 2 ^ 20
    if 2 ^ 21 ≤ o ∨ l.rcd.stash4k * 4096 < off + n then none
    else
      match if o / 2 ^ 20 % 2 = 0 then some gid else g.peer with
      | none => none
      | some k =>
        match s.groups.find k with
        | some x => if (List.range n).any (fun i => x.offInWindow (off + i)) then none else some (k, off)
        | none => none

/-- Bytes that a unit reads for a group at an address, local or global; their lines enter L2 in a class (R41). -/
def State.grpRead (s : State) (gid va n : Nat) (cls : Nat := 0) : Except Stop (State × List Byte) :=
  if n = 0 then .ok (s, [])
  else if inAperture va then
    match s.localSpan gid va n with
    | some (k, off) => .ok (s, ((s.groups.find k).map (fun g => g.stashBytesAt off n)).getD [])
    | none => .error (.paUnbacked, va)
  else
    match s.grpOf gid with
    | some (_, l) => s.unitLoad l.func l.aspace va n .read cls (coreOf gid)
    | none => .error (.notPresent, va)

/-- An element of a tile as fetched: its bits, and its block's scale byte; outside the tile both are 0 (R314). -/
structure TEl where
  code : Nat
  scale : Nat
  deriving DecidableEq, Repr

/-- Where a unit's tile bytes come from: an offset from BASE, and a length. -/
abbrev TileRd := State → Int → Nat → Except Stop (State × List Byte)

/-- An address at a signed offset from a base. -/
def vaAt (base : Reg) (off : Int) : Nat := wrap 64 ((base.toNat : Int) + off)

/-- Reads without the operand cache. -/
def Handle.plain (h : Handle) (gid : Nat) : TileRd := fun s off n => s.grpRead gid (vaAt h.base off) n

/-- The scale bytes of a row's blocks, from block k on (R97, R314). -/
def State.rowScales (s : State) (gid : Nat) (h : Handle) (f : FmtSlot) (r k n cls : Nat) : Except Stop (State × List Byte) :=
  if f.block = 0 then .ok (s, [])
  else s.grpRead gid (vaAt f.scaleBase ((r * ((h.cols + f.blockLen - 1) / f.blockLen) + k : Nat) : Int)) n cls

/-- Elements c0 to c0 + nc − 1 of row r of a tile; the scale bytes are read in a class of L2 (R41, R148). -/
def State.tileRow (s : State) (gid : Nat) (rd : TileRd) (h : Handle) (f : FmtSlot) (r c0 nc : Nat) (cls : Nat := 0) :
    Except Stop (State × List TEl) :=
  let ce := min (c0 + nc) h.cols
  if h.rows ≤ r ∨ ce ≤ c0 then .ok (s, List.replicate nc { code := 0, scale := 0 })
  else
    let b := f.bits
    let lo := c0 * b / 8
    let hi := (ce * b + 7) / 8
    match rd s ((r : Int) * sval 64 h.stride.toNat + lo) (hi - lo) with
    | .error e => .error e
    | .ok (s1, bs) =>
      let k0 := c0 / f.blockLen
      match s1.rowScales gid h f r k0 ((ce - 1) / f.blockLen - k0 + 1) cls with
      | .error e => .error e
      | .ok (s2, ks) =>
        let x := leNat bs
        .ok (s2, (List.range nc).map (fun i =>
          if c0 + i < ce then
            { code := Sys2Proof.bits x ((c0 + i) * b - 8 * lo) b, scale := ((ks[(c0 + i) / f.blockLen - k0]?).getD 0).toNat }
          else { code := 0, scale := 0 }))

/-! ### The operand cache (R119) -/

/-- The bytes of a span that lies in one 4 KiB unit of a tile, through the cache; what is not held is fetched. A full
cache drops the entry used longest ago (log 7). -/
def State.cacheSpan (s : State) (core gid i : Nat) (h : Handle) (off : Int) (n : Nat) : Except Stop (State × List Byte) :=
  let base := off / 4096 * 4096
  let o := (off - base).toNat
  let same : OcEntry → Bool := fun e => e.gid == gid && e.handle == i && e.gen == h.gen && e.off == base
  let e0 := ((s.core core).opcache.find? same).getD { gid := gid, handle := i, gen := h.gen, off := base, data := [] }
  let held : List (Option Byte) := (List.range n).map (fun j => e0.data.find (o + j))
  let keep : State → OcEntry → State := fun s e =>
    s.updCore core (fun k => { k with opcache := keepLast 16 (k.opcache.filter (fun e => !same e) ++ [e]) })
  if held.all Option.isSome then .ok (keep s e0, held.map (fun b => b.getD 0))
  else
    match s.grpRead gid (vaAt h.base off) n with
    | .error e => .error e
    | .ok (s1, bs) =>
      let out := (held.zip bs).map (fun x => x.1.getD x.2)
      let data := (out.foldl (fun (a : SMap Byte × Nat) b => (SMap.set a.1 a.2 b, a.2 + 1)) (e0.data, o)).1
      .ok (keep s1 { e0 with data := data }, out)

/-- A span through the cache, unit by unit. -/
def State.cacheRead (core gid i : Nat) (h : Handle) : Nat → TileRd
  | 0, s, _, _ => .ok (s, [])
  | k + 1, s, off, n =>
    if n = 0 then .ok (s, [])
    else
      let len := min n (4096 - (off % 4096).toNat)
      match s.cacheSpan core gid i h off len with
      | .error e => .error e
      | .ok (s1, a) =>
        match State.cacheRead core gid i h k s1 (off + len) (n - len) with
        | .error e => .error e
        | .ok (s2, b) => .ok (s2, a ++ b)

/-- How a pass reads A (R319): local space at its slot, or global memory through the operand cache. -/
def aReader (core gid i : Nat) (h : Handle) : TileRd :=
  if inAperture h.base.toNat then h.plain gid else State.cacheRead core gid i h 8

/-! ### Values and sums (R88, R97, R112, R113) -/

/-- An element as the array takes it: its exact value, its code, and the magnitude of its scale. -/
structure MEl where
  v : Val
  c : Nat
  sm : Nat
  se : Int
  deriving DecidableEq, Repr

/-- Read an element through its slot, the NaN policy ZERO applied. -/
def FmtSlot.mel (f : FmtSlot) (e : TEl) : MEl :=
  let k := (f.scale e.scale).getD (false, 1, 0)
  { v := (f.policy (f.read e.scale e.code)).1, c := e.code % 32, sm := k.2.1, se := k.2.2 }

/-- A NaN read under the policy FAULT. -/
def FmtSlot.nanStop (f : FmtSlot) (es : List TEl) : Bool := f.nan == 2 && es.any (fun e => (f.read e.scale e.code).isNan)

def Val.isZero : Val → Bool
  | .fin _ m _ => m == 0
  | _ => false

/-- A product, formed exactly; two L6 codes multiply by the table of R87 at their log sum (R88). -/
def MEl.mul (l6 : Bool) (x y : MEl) : Val :=
  if x.v.isNan || y.v.isNan then Val.qnan
  else if l6 then
    match x.v, y.v with
    | .fin a m _, .fin b n _ =>
      if m = 0 ∨ n = 0 then Val.zero
      else .fin (a != b) (l6T (x.c + y.c) * x.sm * y.sm) (((x.c + y.c) / 4 : Nat) - 24 + x.se + y.se)
    | _, _ => Val.qnan
  else ((x.v.mul y.v).getD Val.qnan)

/-- The exact sum of a group's products; NaN as R112 gives, an exact zero is +0. -/
def groupSum (ps : List Val) : Val :=
  if ps.any Val.isNan then Val.qnan
  else
    match ps.foldl (fun (a : Option Val) p => a.bind (fun x => x.add p)) (some Val.zero) with
    | none => Val.qnan
    | some v => if v.isZero then Val.zero else v

/-- An accumulator word receives a group: FP32, or integers modulo 2^32 (R112, R113). -/
def accAdd (int : Bool) (acc : Word) (ps : List Val) : Word :=
  if int then
    match groupSum ps with
    | .fin n m e => acc + BitVec.ofInt 32 (Val.at n m e 0)
    | _ => acc
  else BitVec.ofNat 32 (addNum fp32 Rnd.rne (decodeNum fp32 acc.toNat) (groupSum ps)).1

/-! ### Banks (R106 to R108, R114, R120, R318) -/

/-- The banks that a tile of a slot takes from a bank on (R107). -/
def banksOf (f : FmtSlot) (bank : Nat) : List Nat := if f.fmt = 1 then [bank, bank + 1] else [bank]

def Core.bank (k : Core) (i : Nat) : Bank := k.banks[i]?.getD Bank.empty
def Core.setBank (k : Core) (i : Nat) (b : Bank) : Core := { k with banks := k.banks.setIfInBounds i b }

/-- Valid entries (i, K) of a duplication map (R102). -/
def dupEntries (bs : List Byte) : List (Nat × Nat) :=
  (List.range 32).filterMap (fun i =>
    let e := leNat ((bs.drop (2 * i)).take 2)
    if e / 2 ^ 15 = 1 then some (i, e % 512) else none)

/-- The map breaks R102. -/
def dupBad (bs : List Byte) : Bool :=
  (List.range 32).any (fun i => leNat ((bs.drop (2 * i)).take 2) / 512 % 64 != 0)
  || ((dupEntries bs).map Prod.snd).eraseDups.length != (dupEntries bs).length

/-- Elements of a bank row as cells of one byte of each: 0 for the low byte or a whole narrow code, 1 for the high
byte of BF16. -/
def rowCells (hi : Nat) (k : Nat) (es : List TEl) : SMap Byte :=
  (es.mapIdx (fun n e => (k * 1024 + n, BitVec.ofNat 8 (e.code / 256 ^ hi)))).filter (fun x => x.2 != 0)
def rowScaleCells (k : Nat) (es : List TEl) : SMap Byte :=
  (es.mapIdx (fun n e => (k * 1024 + n, BitVec.ofNat 8 e.scale))).filter (fun x => x.2 != 0)

/-- Rows of a tile, one after the other. -/
def State.tileRows (s : State) (gid : Nat) (h : Handle) (f : FmtSlot) (c0 : Nat) : List Nat → Except Stop (State × List (List TEl))
  | [] => .ok (s, [])
  | r :: t =>
    match s.tileRow gid (h.plain gid) h f r c0 1024 with
    | .error e => .error e
    | .ok (s1, x) =>
      match s1.tileRows gid h f c0 t with
      | .error e => .error e
      | .ok (s2, xs) => .ok (s2, x :: xs)

/-- The duplication map of a slot, empty without one. -/
def State.dupMap (s : State) (gid : Nat) (f : FmtSlot) : Except Stop (State × List (Nat × Nat)) :=
  if f.dupBase = 0 then .ok (s, [])
  else
    match s.grpRead gid f.dupBase.toNat 64 with
    | .error e => .error e
    | .ok (s1, bs) => if dupBad bs then .error (.badDupMap, f.dupBase.toNat) else .ok (s1, dupEntries bs)

/-- Load one core's bank with its part of a tile: 256 rows from `r0`, columns from `c0`, the spare rows that fall in
its K range, which starts at `k0`. The index plane returns to R120's reset. -/
def State.fillBank (s : State) (core bank gid : Nat) (h : Handle) (f : FmtSlot) (t : BankTag) (r0 c0 k0 : Nat) :
    Except Stop State :=
  match s.tileRows gid h f c0 ((List.range 256).map (fun k => r0 + k)) with
  | .error e => .error e
  | .ok (s1, rows) =>
    match s1.dupMap gid f with
    | .error e => .error e
    | .ok (s2, dups) =>
      if rows.any f.nanStop then .error (.nanOperand, 0)
      else
        let spare := (dups.filter (fun d => decide (k0 ≤ d.2) && decide (d.2 < k0 + 256))).map
          (fun d => (256 + d.1, (rows[d.2 - k0]?).getD []))
        let all := rows.mapIdx (fun k r => (k, r)) ++ spare
        .ok (s2.updCore core (fun k =>
          (banksOf f bank).foldl (fun k i =>
            let hi := if f.fmt = 1 ∧ i = bank then 1 else 0
            k.setBank i { tag := some t, busy := (k.bank i).busy, index := []
                          cells := all.flatMap (fun x => rowCells hi x.1 x.2)
                          scales := all.flatMap (fun x => rowScaleCells x.1 x.2) }) k))

/-- Take the tag off a bank. -/
def Core.untag (k : Core) (f : FmtSlot) (bank : Nat) : Core :=
  (banksOf f bank).foldl (fun k i => k.setBank i { k.bank i with tag := none }) k

/-- Fetch the tile of an entry into its bank, and for a pair into the follower's (R108, R115, R318): layout 0 single,
1 K512, 2 N2048. -/
def State.fetchBank (s : State) (core gid bank : Nat) (h : Handle) (f : FmtSlot) (t : BankTag) : Except Stop State :=
  let r0 := t.origin.1
  let c0 := t.origin.2
  match s.fillBank core bank gid h f t r0 c0 0 with
  | .error e => .error e
  | .ok s1 =>
    match t.layout with
    | 0 => .ok s1
    | 1 => s1.fillBank (core + 1) bank gid h f t (r0 + 256) c0 256
    | _ => s1.fillBank (core + 1) bank gid h f t r0 (c0 + 1024) 0

/-- A bank's element at a row and column (R107). -/
def Core.cell (k : Core) (f : FmtSlot) (bank row n : Nat) : TEl :=
  let key := row * 1024 + n
  let x := (SMap.get 0 (k.bank bank).cells key).toNat
  { code := if f.fmt = 1 then x * 256 + (SMap.get 0 (k.bank (bank + 1)).cells key).toNat else x
    scale := (SMap.get 0 (k.bank bank).scales key).toNat }

/-- The logical row within its eight of a stored row (R120). -/
def Core.idxAt (k : Core) (bank row n : Nat) : Nat :=
  (((k.bank bank).index.find (row * 1024 + n)).map BitVec.toNat).getD (row % 4)

/-! ### Entries (R117 to R121, R317) -/

def Rsv.load (r : Rsv) : Bool := r.op == 0x42
def Rsv.sparse (r : Rsv) : Bool := r.op == 0x44
def Rsv.x (r : Rsv) : Nat := r.words.2.toNat
def Rsv.pair (r : Rsv) : Bool := subOf r.x / 64 == 1
def Rsv.n2048 (r : Rsv) : Bool := subOf r.x / 32 % 2 == 1
def Rsv.layout (r : Rsv) : Nat := if r.pair then (if r.n2048 then 2 else 1) else 0
def Rsv.bank (r : Rsv) : Nat := if r.load then bits r.x 0 2 else bits r.x 12 2
def Rsv.rows (r : Rsv) : Nat := if r.load then 0 else fld r.gp 0 9
def Rsv.accBase (r : Rsv) : Nat := fld r.gacc 0 10
/-- Accumulator rows of a pass: N2048 takes two for each slot (R115). -/
def Rsv.accRows (r : Rsv) : Nat := if r.load then 0 else if r.n2048 then 2 * r.rows else r.rows
/-- The valid count (R71, R317). -/
def Rsv.valid (r : Rsv) : Nat := if fld r.gp 23 1 = 1 then min (fld r.gp 14 9) r.rows else r.rows
/-- K width of a chunk (R317). -/
def Rsv.kw (r : Rsv) : Nat :=
  if r.sparse then (if r.pair then 1024 else 512) else if r.pair && !r.n2048 then 512 else 256

/-- Clocks per A row (R109). -/
def planesOf (fmt : Nat) : Nat :=
  match fmt with
  | 7 | 8 => 2
  | 1 | 9 => 8
  | _ => 4

/-- The slots of an entry's operands: A's and B's. -/
def State.rsvSlots (s : State) (r : Rsv) : FmtSlot × FmtSlot :=
  match s.groups.find r.who.gid with
  | some g => (g.slotOf r.hA.2, g.slotOf r.hB.2)
  | none => (FmtSlot.zero, FmtSlot.zero)

/-- The tag that an entry's bank must carry. -/
def State.rsvTag (s : State) (r : Rsv) : Option BankTag :=
  (s.grpOf r.who.gid).map (fun x =>
    { func := x.2.func, aspace := x.2.aspace, handle := r.hB.2.bare, slot := x.1.slotOf r.hB.2, origin := r.origin, layout := r.layout })

/-- The entry's bank, and for a pair the follower's, holds its tile (R108, R115), and a restored pass has fetched B
again (R124). -/
def State.tagged (s : State) (core : Nat) (r : Rsv) : Bool :=
  let f := (s.rsvSlots r).2
  let ok : Nat → Bool := fun c => (banksOf f r.bank).all (fun i => ((s.core c).bank i).tag == s.rsvTag r)
  !r.refetch && ok core && (!r.pair || ok (core + 1))

/-- The slots of a running pass have all passed: the array is free of it (R110). -/
def Rsv.slotsOver (r : Rsv) (clk : Nat) : Bool :=
  match r.stage with
  | .running due => decide (r.rows ≤ r.next) && decide (due ≤ clk)
  | _ => false

/-- The entry occupies the compute array. -/
def Rsv.onArray (r : Rsv) (clk : Nat) : Bool := !r.load && r.stage != .waiting && !r.slotsOver clk

/-- The compute array is idle: no pass of the core's own runs; a follower serves no leader (R115, R118). -/
def State.ownIdle (s : State) (core : Nat) : Bool := !(s.core core).rsvs.any (fun r => r.onArray (s.clkOf core))
def State.arrayIdle (s : State) (core : Nat) : Bool := s.ownIdle core && (s.core core).slave.isNone

def Core.rsv (k : Core) (id : Nat) : Option Rsv := k.rsvs.find? (fun r => r.id == id)
def State.setRsv (s : State) (core : Nat) (r : Rsv) : State :=
  s.updCore core (fun k => { k with rsvs := k.rsvs.map (fun x => if x.id == r.id then r else x) })
def State.dropRsv (s : State) (core id : Nat) : State :=
  s.updCore core (fun k => { k with rsvs := k.rsvs.filter (fun x => x.id != id) })

/-- A group's halt has begun: nothing more of it starts (R124, R226). -/
def Group.halting (g : Group) : Bool :=
  match g.preempt with
  | .claimed _ _ _ | .saving .. => true
  | _ => false
/-- Its halt is over: its rows stay as they are. -/
def Group.saving (g : Group) : Bool :=
  match g.preempt with
  | .saving .. => true
  | _ => false
def State.halting (s : State) (gid : Nat) : Bool := ((s.groups.find gid).map Group.halting).getD false

/-- A gang's write whose T has not returned, before an instruction (R49, R66). -/
def State.unsettledBefore (s : State) (w : Who) (ins : Nat) : Bool :=
  s.reqs.any (fun r => r.noT && r.parts.any (fun p => p.ofGang w.gid w.gang && decide (p.ins < ins)))

/-- NOW() has reached the settled %wct that an entry carries. -/
def State.carried (s : State) (w : Who) (ins wct : Nat) : Bool := !s.unsettledBefore w ins && decide (wct ≤ s.now)

/-- Entries posted before on the core that name one of the banks, but for passes whose slots are over (R108). -/
def State.bankTurn (s : State) (core : Nat) (r : Rsv) : Bool :=
  let bs := banksOf (s.rsvSlots r).2 r.bank
  !(s.core core).rsvs.any (fun e => decide (e.id < r.id) && !e.slotsOver (s.clkOf core) &&
    (banksOf (s.rsvSlots e).2 e.bank).any (fun i => bs.contains i))

/-- Earlier passes of the group over some of the same accumulator rows have had their slots (R111;
log 96). -/
def State.rowsTurn (s : State) (core : Nat) (r : Rsv) : Bool :=
  !(s.core core).rsvs.any (fun e => decide (e.id < r.id) && e.who.gid == r.who.gid && !e.slotsOver (s.clkOf core) &&
    spansMeet e.accBase e.accRows r.accBase r.accRows)

/-- The banks of an entry are idle: no load is under way there. -/
def State.banksIdle (s : State) (core : Nat) (r : Rsv) : Bool :=
  let ok : Nat → Bool := fun c => (banksOf (s.rsvSlots r).2 r.bank).all (fun i => ((s.core c).bank i).busy.isNone)
  ok core && (!r.pair || ok (core + 1))

/-- A fetch is needed before the first slot: of B, or of a global A. -/
def State.fetches (s : State) (core : Nat) (r : Rsv) : Bool := !inAperture r.hA.2.base.toNat || !s.tagged core r

/-- A pass is eligible (R118). -/
def State.passTurn (s : State) (core : Nat) (r : Rsv) : Bool :=
  !s.halting r.who.gid && !r.load && r.stage == .waiting && !r.parked && s.bankTurn core r && s.rowsTurn core r && s.banksIdle core r
    && (!s.fetches core r || s.carried r.who r.ins r.wct)

/-! ### The tap unit at the arbiter (R117, R118, R135, R136, R141, R144, R147) -/

/-- Accumulator rows of a token row. -/
def TapBlock.nx (b : TapBlock) : Nat := (b.desc.head?.map (fun d => fld d 10 3 + 1)).getD 1
def TapBlock.bank (b : TapBlock) : Nat := (b.desc.head?.map (fun d => fld d 32 2)).getD 0

/-- The block of a row. -/
def Group.blockOf (g : Group) (t : TapRow) : Option TapBlock := g.tapBlocks.find? (fun b => b.tap == t.tap && b.number == t.number)

/-- Rows of the group that the tap unit owns (R135). -/
def Group.tapOwns (g : Group) (i : Nat) : Bool :=
  g.tapRows.any (fun t => t.state != .ready &&
    (match g.blockOf t with
     | some b => decide (b.accBase + t.row * b.nx ≤ i) && decide (i < b.accBase + t.row * b.nx + b.nx)
     | none => false))

/-- Another block's row still holds the accumulator rows of a row: TAP.ENC's at the same tap (R147). -/
def Group.heldFrom (g : Group) (b : TapBlock) (r : TapRow) : Bool :=
  let g1 : Group := { g with tapRows := g.tapRows.filter (fun t => t.id != r.id && !t.adapt) }
  (List.range b.nx).any (fun j => g1.tapOwns (b.accBase + r.row * b.nx + j))

/-- The rows of a core's tap unit, with their groups' numbers and blocks; a group whose halt has begun keeps its rows as
they are (R145). -/
def State.tapRowsOn (s : State) (core : Nat) : List (Nat × TapBlock × TapRow) :=
  (s.groups.filter (fun g => coreOf g.1 == core && !g.2.halting)).flatMap (fun g =>
    g.2.tapRows.filterMap (fun t => (g.2.blockOf t).map (fun b => (g.1, b, t))))

/-- A row waits for the tap unit, or is being encoded or adapted. -/
def TapRow.toDo (t : TapRow) : Bool := t.state == .waiting || t.state == .encoding

/-- A row of an earlier block of a row's tap context goes first (R144). -/
def TapRow.before (a b : TapRow) : Bool := a.tap == b.tap && decide (a.number < b.number) && a.toDo

/-- The core's pennant queue is full (R141). -/
def State.pennantsFull (s : State) (core : Nat) : Bool :=
  decide (256 ≤ ((s.core core).pennants.filter (fun p => !p.handling)).length)

/-- Rows that the tap unit may take next: not parked, first in their context; none is encoded while the pennant queue is
full, and none is adapted while TAP.ENC holds it. -/
def State.tapCan (s : State) (core : Nat) : List (Nat × TapBlock × TapRow) :=
  let rs := s.tapRowsOn core
  rs.filter (fun x => x.2.2.toDo && !x.2.2.parked && !rs.any (fun y => y.1 == x.1 && y.2.2.before x.2.2) &&
    (if x.2.2.adapt then !((s.groups.find x.1).map (fun g => g.heldFrom x.2.1 x.2.2)).getD true else !s.pennantsFull core))

/-- The tap unit takes a row before another: one under way; within a block of TAP.ADAPT the lower adapter id (R147); else
the one that came first (log 114). -/
def tapEarlier (x y : Nat × TapBlock × TapRow) : Bool :=
  let a := x.2.2
  let b := y.2.2
  if (a.state == .encoding) != (b.state == .encoding) then a.state == .encoding
  else if a.adapt && x.1 == y.1 && a.tap == b.tap && a.number == b.number && a.index != b.index then decide (a.index < b.index)
  else decide (a.id < b.id)

/-- The row whose passes the tap unit has entered in the reservation table (R117): it takes rows one at a time (R136). -/
def State.tapPost (s : State) (core : Nat) : Option (Nat × TapBlock × TapRow) :=
  (s.tapCan core).foldl (fun b x =>
    match b with
    | none => some x
    | some y => if tapEarlier x y then some x else b) none

/-- The class order of the arbiter. -/
def MClass.rank : MClass → Nat
  | .main => 0
  | .tapClass => 1
  | .background => 2

/-- The class of the tap unit's entry (R118). -/
def TapRow.cls (t : TapRow) (clk : Nat) : MClass := if t.since + 4096 ≤ clk then .main else .tapClass

/-- The arbiter prefers the higher class, then the entry posted earlier (R118). -/
def goesFirst (a b : MClass × Nat) : Bool := decide (a.1.rank < b.1.rank) || (a.1.rank == b.1.rank && decide (a.2 < b.2))

/-- Places of the reservation table that entries and a leader's hold take. -/
def Core.entries (k : Core) : Nat := k.rsvs.length + (if k.slave.isSome then 1 else 0)

/-- Places of the reservation table that are taken (R117). -/
def State.tableUse (s : State) (core : Nat) : Nat := (s.core core).entries + (if (s.tapPost core).isSome then 1 else 0)

/-- An active slot of the engine is free (R65, R72). -/
def State.slotFree (s : State) (core : Nat) : Bool :=
  decide (((s.core core).queue.filter (fun c => c.stage != .queued)).length < Config.engineSlots)

/-- TAP_BANK is free for the tap unit (R108, R118): nothing is loading there, no granted pass uses it. -/
def State.tapFree (s : State) (core : Nat) (b : TapBlock) (fs : List FmtSlot) : Bool :=
  let bs := (fs.flatMap (fun f => banksOf f b.bank)).eraseDups
  bs.all (fun i => ((s.core core).bank i).busy.isNone) &&
    !(s.core core).rsvs.any (fun e => e.stage != .waiting && !e.slotsOver (s.clkOf core) &&
      (banksOf (s.rsvSlots e).2 e.bank).any (fun i => bs.contains i))

/-- The slots whose tiles a row's passes bring into TAP_BANK: the encoder's; an adapter's is not known yet. -/
def State.tapSlots (s : State) (x : Nat × TapBlock × TapRow) : List FmtSlot :=
  if x.2.2.adapt then [FmtSlot.zero] else ((s.groups.find x.1).map (fun g => g.slotOf x.2.1.enc)).toList

/-- The tap unit's entry may be granted, and goes before an entry of the arbiter. -/
def State.tapFirst (s : State) (core : Nat) (r : Rsv) : Bool :=
  match s.tapPost core with
  | some x => decide ((s.core core).entries < Config.reservations) && s.tapFree core x.2.1 (s.tapSlots x) &&
      goesFirst (x.2.2.cls (s.clkOf core), x.2.2.id) (r.cls, r.id)
  | none => false

/-! ### Slots (R110, R112 to R116, R120) -/

/-- The products of one K group of a column in one core's bank: 32 dense rows from `k0`, or 16 stored ones (R112,
R120). `a` is the A row. -/
def Core.products (k : Core) (r : Rsv) (fb : FmtSlot) (l6 : Bool) (a : List MEl) (aOff n g : Nat) : List Val :=
  let el : Nat → MEl := fun i => (a[i]?).getD { v := Val.zero, c := 0, sm := 1, se := 0 }
  if r.sparse then
    (List.range 16).map (fun i =>
      let row := 16 * g + i
      (el (aOff + 8 * (row / 4) + k.idxAt r.bank row n)).mul l6 (fb.mel (k.cell fb r.bank row n)))
  else
    (List.range 32).map (fun i => (el (aOff + 32 * g + i)).mul l6 (fb.mel (k.cell fb r.bank (32 * g + i) n)))

/-- The spare group of a bank: its 32 spare rows against A's spare elements, from `sOff` on (R114, R116). -/
def Core.spares (k : Core) (r : Rsv) (fb : FmtSlot) (l6 : Bool) (a : List MEl) (sOff n : Nat) : List Val :=
  (List.range 32).map (fun i =>
    ((a[sOff + i]?).getD { v := Val.zero, c := 0, sm := 1, se := 0 }).mul l6 (fb.mel (k.cell fb r.bank (256 + i) n)))

/-- Groups of one bank: 8 of 32 dense K, 16 of 32 logical K in a sparse pass. -/
def Rsv.groups (r : Rsv) : Nat := if r.sparse then 16 else 8

/-- A column's new word: the groups of the leader's bank, then a K512 follower's, then the spare groups (R112, R116).
`far` takes the follower's bank alone, for the upper columns of N2048. -/
def State.column (s : State) (core : Nat) (r : Rsv) (a : List MEl) (far : Bool) (acc : Word) (n : Nat) : Word :=
  let fs := s.rsvSlots r
  let l6 := fs.1.fmt == 8 && fs.2.fmt == 8
  let int := decide (9 ≤ fs.1.fmt) && decide (9 ≤ fs.2.fmt) && fs.1.scaleSrc == 0 && fs.2.scaleSrc == 0
  let near := s.core (if far then core + 1 else core)
  let two := r.layout == 1
  let gs := List.range r.groups
  let half := r.kw / 2
  let mains := gs.map (fun g => near.products r fs.2 l6 a 0 n g)
    ++ (if two then gs.map (fun g => (s.core (core + 1)).products r fs.2 l6 a half n g) else [])
  let spares := if fs.2.dupBase = 0 then []
    else near.spares r fs.2 l6 a r.kw n :: (if two then [(s.core (core + 1)).spares r fs.2 l6 a r.kw n] else [])
  (mains ++ spares).foldl (accAdd int) acc

/-- An accumulator row: 1024 words. -/
def Group.accRow (g : Group) (i : Nat) : List Word := (g.acc.find i).getD (List.replicate 1024 0)
def State.setAcc (s : State) (gid i : Nat) (ws : List Word) : State := s.updGroup gid (fun g => { g with acc := g.acc.set i ws })

/-- One row of sums goes into an accumulator row (log 10). -/
def State.sumRow (s : State) (core : Nat) (r : Rsv) (a : List MEl) (far : Bool) (i : Nat) : State :=
  match s.groups.find r.who.gid with
  | none => s
  | some g => s.setAcc r.who.gid i ((g.accRow i).mapIdx (fun n w => s.column core r a far w n))

/-- The A row of a slot (R319): its chunk, then the spare columns. -/
def State.aRow (s : State) (core : Nat) (r : Rsv) (i : Nat) : Except Stop (State × List MEl) :=
  let fs := s.rsvSlots r
  let n := r.kw + (if fs.2.dupBase = 0 then 0 else 32)
  match s.tileRow r.who.gid (aReader core r.who.gid r.hA.1 r.hA.2) r.hA.2 fs.1 (fld r.gp 40 24 + i) (fld r.gp 32 8 * r.kw) n with
  | .error e => .error e
  | .ok (s1, es) => if fs.1.nanStop es then .error (.nanOperand, 0) else .ok (s1, es.map fs.1.mel)

/-- The bytes of a span are in the operand cache. -/
def State.cacheHas (s : State) (core gid i : Nat) (h : Handle) (off : Int) (n : Nat) : Bool :=
  (List.range n).all (fun (j : Nat) =>
    let o : Int := off + (j : Int)
    let base := o / 4096 * 4096
    (s.core core).opcache.any (fun e =>
      e.gid == gid && e.handle == i && e.gen == h.gen && e.off == base && (e.data.find (o - base).toNat).isSome))

/-- Slot i of a pass needs a fetch of A, which takes an active slot of the engine (R72, R319). -/
def State.aFetch (s : State) (core : Nat) (r : Rsv) (i : Nat) : Bool :=
  let h := r.hA.2
  let fs := s.rsvSlots r
  let c0 := fld r.gp 32 8 * r.kw
  let ce := min (c0 + r.kw + (if fs.2.dupBase = 0 then 0 else 32)) h.cols
  let row := fld r.gp 40 24 + i
  let lo := c0 * fs.1.bits / 8
  !inAperture h.base.toNat && decide (i < r.valid) && r.rr.getLsbD i && decide (row < h.rows) && decide (c0 < ce) &&
    !s.cacheHas core r.who.gid r.hA.1 h ((row : Int) * sval 64 h.stride.toNat + lo) ((ce * fs.1.bits + 7) / 8 - lo)

/-- A running pass waits at a due slot for an active slot of the engine, to fetch A. -/
def State.aWaits (s : State) (core : Nat) (r : Rsv) : Bool :=
  (match r.stage with
   | .running due => decide (due ≤ s.clkOf core)
   | _ => false) && decide (r.next < r.rows) && s.aFetch core r r.next

/-- Slot i of a pass: it runs below the valid count where its ready bit is set (R110). -/
def State.slotAt (s : State) (core : Nat) (r : Rsv) (i : Nat) : Except Stop State :=
  if r.valid ≤ i ∨ !r.rr.getLsbD i then .ok s
  else
    match s.aRow core r i with
    | .error e => .error e
    | .ok (s1, a) =>
      if r.layout = 2 then
        .ok ((s1.sumRow core r a false (r.accBase + 2 * i)).sumRow core r a true (r.accBase + 2 * i + 1))
      else .ok (s1.sumRow core r a false (r.accBase + i))

/-- A pass or load ends (R76, R115, R318, R319): its entry goes and its number completes, in error with a KIND 1
entry. -/
def State.endRsv (s : State) (core : Nat) (r : Rsv) (err : Option Stop) : State :=
  let s1 := s.dropRsv core r.id
  let s2 := if r.pair then s1.updCore (core + 1) (fun k => if k.slave == some r.id then { k with slave := none } else k) else s1
  let s3 := s2.finishNo (.matrix r.who.gid) r.number err.isSome
  match err with
  | some (q, a) => s3.recordUnit r.who r.pc r.quads (.matrix r.who.gid) r.number q q a 0
  | none => s3

/-- A fetch of an entry failed: a replayable fault parks it, any other ends it (R31, R319). -/
def State.failRsv (s : State) (core : Nat) (r : Rsv) (e : Stop) : State :=
  if e.1.replayable then
    match s.grpOf r.who.gid with
    | none => s.dropRsv core r.id
    | some (_, l) =>
      let s1 := if r.pair then s.updCore (core + 1) (fun k => if k.slave == some r.id then { k with slave := none } else k) else s
      (s1.setRsv core { r with parked := true, stage := .waiting }).park (dieOf core) l.func l.aspace e.2 .read e.1 (.pass core r.id)
  else s.endRsv core r (some e)

/-- The slots of an entry that are due (R110, R124); one whose A has to be fetched waits for an active slot of the engine
(R72). -/
def State.dueSlots (core id : Nat) : Nat → State → State
  | 0, s => s
  | n + 1, s =>
    match (s.core core).rsv id with
    | none => s
    | some r =>
      match r.stage with
      | .running due =>
        if r.rows ≤ r.next ∨ s.clkOf core < due then s
        else if s.aWaits core r && !s.slotFree core then s.setRsv core { r with stage := .running (s.clkOf core + 1) }
        else
          match s.slotAt core r r.next with
          | .error e => s.failRsv core r e
          | .ok s1 =>
            State.dueSlots core id n
              (s1.setRsv core { r with next := r.next + 1, stage := .running (due + planesOf (s.rsvSlots r).1.fmt) })
      | _ => s

/-- The running passes of a core take the slots that are due at its clk; one of a group whose halt has begun has stopped
at a row boundary (R124). -/
def State.runSlots (s : State) (core : Nat) : State :=
  ((s.core core).rsvs.filter (fun r => !r.load && !s.halting r.who.gid)).foldl (fun s r => State.dueSlots core r.id 257 s) s

/-- The metadata of an entry goes into the index planes (R121). -/
def Core.putHalves (k : Core) (bank : Nat) (hs : List (Nat × Nat × BitVec 12)) (j0 : Nat) : Core :=
  let b := k.bank bank
  let idx := hs.foldl (fun m h =>
    if j0 ≤ h.2.1 ∧ h.2.1 < j0 + 64 then
      (List.range 4).foldl (fun m i =>
        let row := 4 * (h.2.1 - j0) + i
        SMap.put (BitVec.ofNat 3 i) m (row * 1024 + h.1) (BitVec.ofNat 3 (fld h.2.2 (3 * i) 3))) m
    else m) b.index
  k.setBank bank { b with index := idx }

/-- A granted pass whose bank holds its tile starts (R110). -/
def State.startPass (s : State) (core : Nat) (r : Rsv) : State :=
  let s1 := s.updCore core (fun k => k.putHalves r.bank r.halves 0)
  let s2 := if r.pair then s1.updCore (core + 1) (fun k => k.putHalves r.bank r.halves 64) else s1
  s2.setRsv core { r with stage := .running (s.clkOf core) }

/-! ### Posting (R312, R317 to R320) -/

/-- Translate for an instruction: a walk or a fault stops it. -/
def State.opPa (s : State) (c : Ctx) (acc : Access) (va : Nat) : Except KvStop Nat :=
  let d : Detail := { addr := BitVec.ofNat 64 va, lanes := c.faultLanes 7 }
  match s.xl c.core c.lau.func c.lau.aspace va acc with
  | .ok pa => if acc != .write && s.ecc.contains (lineOf pa) then .error (.bad .uncorrectable { d with d0 := BitVec.ofNat 64 pa }) else .ok pa
  | .bad r => .error (.bad r d)
  | .miss => .error (.walk va acc)

/-- The fault that a walk, or a record answered by CANCEL, has given an instruction (R31): it comes before anything else
that the instruction meets. -/
def Ctx.answer (c : Ctx) : Option KvStop :=
  match c.frag.grant with
  | some (.walkFault r va) => some (.bad r { addr := BitVec.ofNat 64 va, lanes := c.faultLanes 7 })
  | _ => none

/-- Bytes that an instruction reads as it issues, within one line. -/
def State.opRead (s : State) (c : Ctx) (va n : Nat) : Except KvStop (State × List Byte) :=
  if inAperture va then
    match s.grpRead c.who.gid va n with
    | .ok r => .ok r
    | .error e => .error (.bad e.1 { addr := BitVec.ofNat 64 va, lanes := c.faultLanes 7 })
  else do
    let pa ← s.opPa c .read va
    .ok (s.unitRead c.lau.func pa n)

def mmBad : Except KvStop α := .error (.bad .matrixConfig {})

/-- The checks of R96, R107 and R125 on an operand slot; `bank` for B. -/
def slotCheck (f : FmtSlot) (bank : Option Nat) : Except KvStop Unit :=
  if !f.ok then .error (.bad .badFormatSlot {})
  else if f.fmt = 0 ∨ f.fmt = 2 then mmBad
  else if f.fmt = 1 ∧ ((bank.map (fun b => b % 2 == 1)).getD false) then mmBad
  else .ok ()

/-- .PAIR needs a leader's group launched in a cluster (R115). -/
def Ctx.pairOk (c : Ctx) : Bool := c.lau.rcd.cluster && !c.grp.handlerOf && c.core % 2 == 0

/-- The duplication map as an instruction checks it (R102, R114). -/
def State.dupCheck (s : State) (c : Ctx) (f : FmtSlot) (wide : Bool) : Except KvStop State :=
  if f.dupBase = 0 then .ok s
  else do
    let r ← s.opRead c f.dupBase.toNat 64
    if dupBad r.2 then .error (.bad .badDupMap {})
    else if !wide && (dupEntries r.2).any (fun e => decide (256 ≤ e.2)) then mmBad
    else .ok r.1

/-- Put a stop of an instruction where it belongs. -/
def State.stopped (s : State) (c : Ctx) (x : KvStop) : State :=
  match x with
  | .bad r d => s.put (c.fault s.now r d)
  | .walk va acc => s.stallWalk c { who := c.who, func := c.lau.func, aspace := c.lau.aspace, va := va, kind := acc }
  | .line l =>
    let s1 := s.arrive l
    s1.put (((s1.ctxOf c.who).getD c).stall .settle)
  | .until t => s.put (c.stall (.until t))

/-- The encoded words of an instruction, for the context image. -/
def lxWords (op : Nat) (o : LX) : Word × Word :=
  (BitVec.ofNat 32 ((128 + op) * 2 ^ 24 + o.w.g.toNat * 2 ^ 21 + o.w.d.toNat * 2 ^ 14 + o.w.a.toNat * 2 ^ 7 + o.w.b.toNat),
   BitVec.ofNat 32 (o.x.c.toNat * 2 ^ 25 + o.x.slot.toNat * 2 ^ 22 + o.x.rnd.toNat * 2 ^ 20 + o.x.sat.toNat * 2 ^ 19
     + o.x.sub.toNat * 2 ^ 12 + o.x.ty.toNat * 2 ^ 8 + o.x.imm.toNat))

/-- The fields of an instruction from its words. -/
def lxOf (w0 w1 : Word) : LX :=
  let f : (n : Nat) → Word → Nat → BitVec n := fun n w lo => BitVec.ofNat n (bits w.toNat lo n)
  { w := { g := f 3 w0 21, d := f 7 w0 14, a := f 7 w0 7, b := f 7 w0 0 }
    x := { c := f 7 w1 25, slot := f 3 w1 22, rnd := f 2 w1 20, sat := f 1 w1 19, sub := f 7 w1 12, ty := f 4 w1 8, imm := f 8 w1 0 } }

/-- A number goes to gN, zero-extended; 0 names none (R312). -/
def Gang.wrNo (g : Gang) (d : BitVec 7) (n : Nat) : Gang := if d = 0 then g else g.wrG d.toNat (BitVec.ofNat 64 n)

/-- Enter an operation in the group's matrix context: its number, gN, then the effect. -/
def Ctx.takeMatrix (c : Ctx) (d : BitVec 7) : Ctx × Nat :=
  let k := c.grp.matrix.take
  ({ c with grp := { c.grp with matrix := k.1 }, gang := c.gang.wrNo d k.2 }, k.2)

/-- An accumulator row that an access names is the tap unit's: a copy of %rready leaves rows out (R135). `per` rows
stand for each of the access's rows. -/
def Group.tapHolds (g : Group) (base rows per : Nat) (rr : BitVec 256) : Bool :=
  (List.range rows).any (fun i => rr.getLsbD i && (List.range per).any (fun j => g.tapOwns (base + per * i + j)))

/-- %rready as one mask, or all ones (R134). -/
def Ctx.readyCopy (c : Ctx) (sub : Nat) : BitVec 256 := if sub / 16 % 2 = 1 then c.grp.rready else BitVec.allOnes 256

/-- Enter the reservation table. -/
def State.postRsv (s : State) (c : Ctx) (d : BitVec 7) (r : Rsv) : State :=
  let f := s.fresh
  let t := c.takeMatrix d
  let g : Group := if r.load then
      { t.1.grp with origins := (r.bank, r.hB.2, r.origin) :: t.1.grp.origins.filter (fun x => !(x.1 == r.bank && x.2.1 == r.hB.2)) }
    else t.1.grp
  (f.1.updCore c.core (fun k => { k with rsvs := k.rsvs ++ [{ r with id := f.2, number := t.2 }] })).put
    (({ t.1 with grp := g } : Ctx).retire 2)

/-- A guarded instruction that posts: the answer to its walk, its checks, a stall while the table is full, then the entry;
the windows are written back before %wct is taken (R66). -/
def State.post2 (s : State) (o : LX) (mk : State → Ctx → Except KvStop (State × (Option Wait ⊕ Rsv))) :
    Host.Outcome State Fault Refusal :=
  s.onCtx (fun c =>
    if !c.gang.qpred o.w.g.toNat then s.put (c.retire 2)
    else
      match c.answer.elim (mk s c) .error with
      | .error x => s.stopped c x
      | .ok (s1, .inl w) => s1.put (((s1.ctxOf c.who).getD c).stall (w.getD .matrix))
      | .ok (s1, .inr r) =>
        if Config.reservations ≤ s1.tableUse c.core then s1.put (((s1.ctxOf c.who).getD c).stall .matrix)
        else
          let s2 := s1.writebackAll c.who.gid
          let c2 := (s2.ctxOf c.who).getD c
          s2.postRsv c2 o.w.d { r with ins := s2.nextIns, wct := c2.gang.wct })

/-- A new entry with what every entry copies. -/
def State.newRsv (s : State) (c : Ctx) (op : Nat) (o : LX) : Rsv :=
  { id := 0, op := op, who := c.who, pc := c.frag.pc, quads := c.frag.quads, words := lxWords op o, cls := .main,
    since := s.clkOf c.core, gacc := 0, gp := 0, hA := (0, Handle.zero), hB := (0, Handle.zero), origin := (0, 0),
    rr := BitVec.allOnes 256, number := 0, next := 0, halves := [], ins := 0, wct := 0, parked := false, refetch := false, stage := .waiting }

/-- MM.LOADB (R318). -/
def execMmLoadb (o : LX) (s : State) : Host.Outcome State Fault Refusal :=
  s.post2 o (fun s c => do
    let i := o.w.a.toNat
    let h := c.gang.handle i
    let f := c.grp.slotOf h
    let sub := o.x.sub.toNat
    let pair := sub / 64 == 1
    slotCheck f (some (o.x.imm.toNat % 4))
    if pair && !c.pairOk then mmBad
    else
      let s1 ← s.dupCheck c f (pair && sub / 32 % 2 == 0)
      let gO := if o.w.b = 0 then 0 else c.gang.rdG o.w.b.toNat
      .ok (s1, .inr { s1.newRsv c 0x42 o with gacc := gO, hB := (i, h), origin := (fld gO 32 32, fld gO 0 32) }))

/-- The origin that a pass takes (R108). -/
def Group.originOf (g : Group) (bank : Nat) (h : Handle) : Nat × Nat :=
  ((g.origins.find? (fun x => x.1 == bank && x.2.1 == h)).map (fun x => x.2.2)).getD (0, 0)

/-- An aperture tile's bytes for a pass lie in the partition, or the first address that does not (R319). -/
def State.tileIn (s : State) (c : Ctx) (h : Handle) (f : FmtSlot) (r0 rows c0 nc : Nat) : Option Nat :=
  if !inAperture h.base.toNat then none
  else
    let ce := min (c0 + nc) h.cols
    let lo := c0 * f.bits / 8
    let hi := (ce * f.bits + 7) / 8
    ((List.range rows).filter (fun i => decide (r0 + i < h.rows) && decide (c0 < ce))).findSome? (fun (i : Nat) =>
      let va := vaAt h.base (((r0 + i : Nat) : Int) * sval 64 h.stride.toNat + lo)
      if inAperture va && (s.localSpan c.who.gid va (hi - lo)).isSome then none else some va)

/-- The metadata of MM.SPASS (R121, R122): the halves, or the stop. -/
def Ctx.metadata (c : Ctx) (vm : Nat) (gacc : Reg) (wide : Bool) : Except KvStop (List (Nat × Nat × BitVec 12)) :=
  let nc := 2 ^ fld gacc 40 3
  let jb := fld gacc 32 7
  let nb := fld gacc 16 10
  let ls := c.contrib 7
  if c.width < nc then mmBad
  else if ls.any (fun l => decide (1023 < nb + l % nc) || decide ((if wide then 127 else 63) < jb + 2 * (l / nc) + 1)) then mmBad
  else
    let half : Nat → Nat → Nat := fun l h => fld (c.gang.rdV vm l) (12 * h) 12
    let rising : Nat → Bool := fun x => decide (x % 8 < x / 8 % 8) && decide (x / 8 % 8 < x / 64 % 8) && decide (x / 64 % 8 < x / 512)
    let bad : Nat → Option Nat := fun l =>
      if fld (c.gang.rdV vm l) 24 8 ≠ 0 then some 2
      else if !rising (half l 0) then some 0
      else if !rising (half l 1) then some 1
      else none
    match ls.findSome? (fun l => (bad l).map (fun g => (l, g))) with
    | some (l, g) => .error (.bad .sparseMetadata { lanes := BitVec.ofNat 64 (2 ^ l), d0 := BitVec.ofNat 64 (l + 256 * g) })
    | none =>
      .ok (ls.flatMap (fun l => [0, 1].map (fun h =>
        (nb + l % nc, jb + 2 * (l / nc) + h, BitVec.ofNat 12 (half l h)))))

/-- A TW.STORE.ACC of the group has still to read one of some rows: those set in a copy (R176). `per` rows stand for each
bit. -/
def State.accReads (s : State) (c : Ctx) (base rows per : Nat) (rr : BitVec 256) : Bool :=
  (s.core c.core).queue.any (fun x => x.acc && x.who.gid == c.who.gid &&
    (match x.stage with
     | .finishing _ => false
     | _ => true) &&
    (c.grp.accRowsOf c.accRows x).any (fun k => decide (base ≤ k) && decide (k < base + per * rows) && rr.getLsbD ((k - base) / per)))

/-- MM.PASS and MM.SPASS: the checks of R317, R96, R125, R114, R120 and R319, then the entry. -/
def State.mkPass (s : State) (c : Ctx) (op : Nat) (o : LX) : Except KvStop (State × (Option Wait ⊕ Rsv)) := do
  let sparse := op == 0x44
  let gacc := c.gang.rdG o.w.a.toNat
  let gp := c.gang.rdG o.w.b.toNat
  let sub := o.x.sub.toNat
  let iA := o.x.imm.toNat / 16
  let iB := o.x.imm.toNat % 16
  let hA := c.gang.handle iA
  let hB := c.gang.handle iB
  let fA := c.grp.slotOf hA
  let fB := c.grp.slotOf hB
  let r : Rsv := { s.newRsv c op o with
    cls := if sub / 8 % 2 = 1 then .background else .main, gacc := gacc, gp := gp, hA := (iA, hA), hB := (iB, hB)
    origin := c.grp.originOf (sub % 4) hB, rr := c.readyCopy sub }
  let resv := fld gacc 43 21 != 0 || fld gacc 39 1 != 0 || fld gacc 26 6 != 0 || fld gacc 10 6 != 0
    || fld gp 24 8 != 0 || fld gp 9 5 != 0
  let unused := !sparse && (fld gacc 40 3 != 0 || fld gacc 32 7 != 0 || fld gacc 16 10 != 0)
  if resv || unused then mmBad
  else do
    slotCheck fA none
    slotCheck fB (some r.bank)
    if (fA.fmt == 8) != (fB.fmt == 8) || decide (256 < r.rows) || (!sparse && r.rows == 0)
        || (r.rows != 0 && decide (c.accRows < r.accBase + r.accRows))
        || (r.pair && !c.pairOk) || (sparse && (fB.fmt == 1 || fB.dupBase != 0)) then mmBad
    else if fB.dupBase ≠ 0 ∧ fld gp 32 8 ≠ 0 then mmBad
    else do
      let s1 ← s.dupCheck c fB (r.pair && !r.n2048)
      let hs ← if sparse then c.metadata o.x.c.toNat gacc r.pair else .ok []
      match s1.tileIn c hA fA (fld gp 40 24) r.rows (fld gp 32 8 * r.kw) (r.kw + (if fB.dupBase = 0 then 0 else 32)) with
      | some va => .error (.bad .paUnbacked { addr := BitVec.ofNat 64 va })
      | none =>
        let per := if r.n2048 then 2 else 1
        if c.grp.tapHolds r.accBase r.rows per r.rr || s1.accReads c r.accBase r.rows per r.rr then .ok (s1, .inl (some .inUse))
        else .ok (s1, .inr { r with halves := hs })

def execMmPass (o : LX) (s : State) : Host.Outcome State Fault Refusal := s.post2 o (fun s c => s.mkPass c 0x43 o)
def execMmSpass (o : LX) (s : State) : Host.Outcome State Fault Refusal := s.post2 o (fun s c => s.mkPass c 0x44 o)

/-- A posted pass of the group writes one of some rows: those set in a copy (R111). -/
def State.passOver (s : State) (c : Ctx) (base rows per : Nat) (rr : BitVec 256) : Bool :=
  (s.core c.core).rsvs.any (fun e => e.who.gid == c.who.gid &&
    (List.range rows).any (fun i => rr.getLsbD i && spansMeet e.accBase e.accRows (base + per * i) per))

/-- MM.ZERO (R321). -/
def execMmZero (o : LX) (s : State) : Host.Outcome State Fault Refusal :=
  s.onCtx (fun c =>
    let gacc := c.gang.rdG o.w.a.toNat
    let base := fld gacc 0 10
    let rows := fld (c.gang.rdG o.w.b.toNat) 0 9
    let rr := c.readyCopy o.x.sub.toNat
    if !c.gang.qpred o.w.g.toNat then s.put (c.retire 2)
    else if fld gacc 10 54 ≠ 0 ∨ rows = 0 ∨ 256 < rows ∨ c.accRows < base + rows then s.put (c.fault s.now .matrixConfig)
    else if c.grp.tapHolds base rows 1 rr then s.put (c.stall .inUse)
    else if s.passOver c base rows 1 rr || s.accReads c base rows 1 rr then s.put (c.stall .inUse)
    else
      let t := c.takeMatrix o.w.d
      let g := (List.range rows).foldl (fun (g : Group) i => if rr.getLsbD i then { g with acc := g.acc.del (base + i) } else g) t.1.grp
      (s.put (({ t.1 with grp := g } : Ctx).retire 2)).finishNo (.matrix c.who.gid) t.2 false)

/-! ### MM.STORE (R322, R323) -/

/-- Where a store of the core goes: a partition, or a physical address. -/
inductive OutAt where
  | stash (gid off : Nat) (d : List Byte)
  | mem (pa : Nat) (d : List Byte)

/-- Translate a store of an instruction, split at 64 KiB. -/
def State.outAt (s : State) (c : Ctx) : Nat → Nat → List Byte → Except KvStop (List OutAt)
  | 0, _, _ => .ok []
  | k + 1, va, d =>
    if d.isEmpty then .ok []
    else if inAperture va then
      match s.localSpan c.who.gid va d.length with
      | some (g, off) => .ok [.stash g off d]
      | none => .error (.bad .paUnbacked { addr := BitVec.ofNat 64 va, lanes := c.faultLanes 7 })
    else do
      let pa ← s.opPa c .write va
      let n := 65536 - va % 65536
      let t ← s.outAt c k ((va + n) % 2 ^ 64) (d.drop n)
      .ok (.mem pa (d.take n) :: t)

def State.outsAt (s : State) (c : Ctx) : List (Nat × List Byte) → Except KvStop (List OutAt)
  | [] => .ok []
  | (va, d) :: t => do
    let a ← s.outAt c (d.length / 65536 + 2) va d
    let b ← s.outsAt c t
    .ok (a ++ b)

/-- Perform stores: the latest T, and the writes to host memory that await the host (R39). -/
def State.putOuts (s : State) (func : Nat) (lau : Option Nat) (os : List OutAt) : State × Nat × List Nat :=
  os.foldl (fun a o =>
    match o with
    | .stash g off d => (a.1.updGroup g (fun x => x.stashWrite off d), a.2)
    | .mem pa d =>
      let r := a.1.unitWrite func lau 0 (d.length / 64 + 2) pa d
      (r.1, max a.2.1 r.2.1, a.2.2 ++ r.2.2)) (s, s.now, [])

/-- Elements packed in a bit string of whole bytes (R85). -/
def packBytes (b : Nat) (es : List Nat) : List Byte := toLE ((es.length * b + 7) / 8) (packCodes b es)

/-- Lists of n elements from a list. -/
def chunks {α : Type} (n : Nat) : Nat → List α → List (List α)
  | 0, _ => []
  | k + 1, l => if l.isEmpty then [] else l.take n :: chunks n k (l.drop n)

/-- One row through a slot: element bits, block scale bytes, flags (R97, R99, R322). `pos` gives an element's
accumulator row. -/
def FmtSlot.rowOut (f : FmtSlot) (mode : Nat) (sat : Bool) (dix : Reg) (pos : Nat → Nat) (vals : List Val) :
    List Nat × List Byte × Flags :=
  let k : Nat → Rnd := fun j => { mode := mode, sat := sat, r := if mode = 2 then srBits f.seed dix (pos j) j else 0 }
  if f.block = 0 then
    let r := vals.mapIdx (fun j v => f.write (k j) 0 v)
    (r.map Prod.fst, [], r.foldl (fun a x => a ||| x.2) 0)
  else
    let bs := (chunks f.blockLen vals.length vals).mapIdx (fun b vs =>
      let ps := vs.map f.policy
      let code := blockCode f.fmt (ps.map Prod.fst)
      let fl := ps.foldl (fun a x => a ||| x.2 ||| Flags.when x.1.signals Flags.invalid) 0
      if code = 255 then (vs.map (fun _ => 0), BitVec.ofNat 8 255, fl)
      else
        let r := (ps.map Prod.fst).mapIdx (fun j v => f.write (k (b * f.blockLen + j)) code v)
        (r.map Prod.fst, BitVec.ofNat 8 code, r.foldl (fun a x => a ||| x.2) fl))
    (bs.flatMap (fun x => x.1), bs.map (fun x => x.2.1), bs.foldl (fun a x => a ||| x.2.2) 0)

/-- An accumulator word as a value (R113). -/
def accVal (i32 : Bool) (w : Word) : Val := if i32 then Val.ofInt (sval 32 w.toNat) else decodeNum fp32 w.toNat

/-- MM.STORE. -/
def execMmStore (o : LX) (s : State) : Host.Outcome State Fault Refusal :=
  s.onCtx (fun c =>
    let dst := c.gang.rdG o.w.a.toNat
    let gs := c.gang.rdG o.w.b.toNat
    let so := if o.x.c = 0 then 0 else c.gang.rdG o.x.c.toNat
    let sub := o.x.sub.toNat
    let pair := sub / 64 == 1
    let per := if pair then 2 else 1
    let stride := fld gs 32 32
    let cols := fld gs 20 12
    let base := fld gs 10 10
    let rows := fld gs 0 9
    let f := c.slot o.x.slot
    let rr := c.readyCopy sub
    let sel := (List.range rows).filter (fun i => rr.getLsbD i)
    if !c.gang.qpred o.w.g.toNat then s.put (c.retire 2)
    else if fld dst 0 2 ≠ 0 ∨ stride % 4 ≠ 0 then s.put (c.fault s.now .misaligned { addr := dst, lanes := c.faultLanes 7 })
    else if !f.ok then s.put (c.fault s.now .badFormatSlot)
    else if (pair && !c.pairOk) || fld gs 9 1 != 0 || cols == 0 || decide (1024 * per < cols) || rows == 0 || decide (256 < rows)
        || cols * f.bits % 32 != 0 || (f.block != 0 && cols % f.blockLen != 0)
        || decide (c.accRows < base + per * rows) then s.put (c.fault s.now .matrixConfig)
    else if s.memFull c then s.put (c.stall .memLimit)
    else if c.olderWaits then s.put (c.stall .older)
    else if c.grp.tapHolds base rows per rr then s.put (c.stall .inUse)
    else if s.passOver c base rows per rr then s.put (c.stall .inUse)
    else
      let data := sel.map (fun i =>
        let ws := (List.range per).flatMap (fun p => c.grp.accRow (base + per * i + p))
        (i, (ws.take cols).map (accVal (o.x.ty == 6))))
      if f.nan = 2 && data.any (fun d => d.2.any Val.isNan) then s.put (c.fault s.now .nanOperand)
      else
        let outs := data.map (fun d =>
          (d.1, f.rowOut o.x.rnd.toNat (o.x.sat == 1) c.lowQuad.dix (fun j => base + per * d.1 + j / 1024) d.2))
        let writes : List (Nat × List Byte) := outs.flatMap (fun x =>
          [(wrap 64 ((dst.toNat + x.1 * stride : Nat) : Int), packBytes f.bits x.2.1)] ++
          (if f.block = 0 then [] else
            [(wrap 64 ((f.scaleBase.toNat + so.toNat + x.1 * (cols / f.blockLen) : Nat) : Int), x.2.2.1)]))
        match c.answer.elim (s.outsAt c writes) .error with
        | .error x => s.stopped c x
        | .ok os =>
          let t := c.takeMatrix o.w.d
          let r := (s.put (t.1.retire 2)).putOuts c.lau.func (some c.grp.launch) os
          let n := r.1.fresh
          n.1.updCore c.core (fun k => { k with storeJobs := k.storeJobs ++
            [{ id := n.2, who := c.who, number := t.2, due := r.2.1, hosts := r.2.2
               flags := outs.foldl (fun a x => a ||| x.2.2.2) 0 }] }))

end Sys2Proof.Machine
end

