-- ==== Sys2Proof/Machine/EvMatrix.lean ====
section
/-!
DEFINITION. The steps of the matrix engine: its arbiter, bank loads, the operand fetcher, completions (R72, R110, R115,
R118, R318, R319, R323).
-/

namespace Sys2Proof.Machine

/-- The arbiter's choice: the highest class, then the entry posted earliest. -/
def bestOf (rs : List Rsv) : Option Rsv :=
  rs.foldl (fun b r =>
    match b with
    | none => some r
    | some x => if goesFirst (r.cls, r.id) (x.cls, x.id) then some r else b) none

/-- The granted pass that has not started. -/
def State.grantedPass (s : State) (core : Nat) : Option Rsv := (s.core core).rsvs.find? (fun r => !r.load && r.stage == .granted)

/-- Start the granted pass once its banks hold B and a follower is free. -/
def State.tryStart (s : State) (core : Nat) : Option State :=
  match s.grantedPass core with
  | none => none
  | some r => if s.tagged core r && (!r.pair || s.ownIdle (core + 1)) then some (s.startPass core r) else none

/-- A pair pass finds its follower free to serve it, with a place for its hold (R115, R117). -/
def State.holdOk (s : State) (core : Nat) (r : Rsv) : Bool :=
  !r.pair || ((s.core (core + 1)).slave.isNone && decide (s.tableUse (core + 1) < Config.reservations))

/-- MATRIX_GRANT (R118, R115). -/
def State.evMatrixGrant (s : State) (core : Nat) : Option State :=
  match s.grantedPass core with
  | some _ => s.tryStart core
  | none =>
    if !s.arrayIdle core then none
    else
      match bestOf ((s.core core).rsvs.filter (fun r => s.passTurn core r && s.holdOk core r)) with
      | none => none
      | some r =>
        if s.tapFirst core r then none
        else
          let s1 := s.setRsv core { r with stage := .granted }
          let s2 := if r.pair then s1.updCore (core + 1) (fun k => { k with slave := some r.id }) else s1
          some ((s2.tryStart core).getD s2)

/-- ARBITER_PROMOTION (R118): entry `id` moves up one class. -/
def State.evArbiterPromotion (s : State) (core id : Nat) : Option State :=
  match (s.core core).rsv id with
  | none => none
  | some r =>
    if r.cls == .main || r.load || r.stage != .waiting || decide (s.clkOf core < r.since + 4096) then none
    else
      let up : MClass := if r.cls == .background then .tapClass else .main
      some (s.setRsv core { r with cls := up, since := r.since + 4096 })

/-- Take the tags off an entry's banks. -/
def State.untagRsv (s : State) (core : Nat) (r : Rsv) : State :=
  let f := (s.rsvSlots r).2
  let s1 := s.updCore core (fun k => k.untag f r.bank)
  if r.pair then s1.updCore (core + 1) (fun k => k.untag f r.bank) else s1

/-- Fetch an entry's tile, or fail it with its banks untagged. -/
def State.fetchRsv (s : State) (core : Nat) (r : Rsv) (ok : State → State) : Option State :=
  match s.rsvTag r with
  | none => none
  | some t =>
    match s.fetchBank core r.who.gid r.bank r.hB.2 (s.rsvSlots r).2 t with
    | .error e => some ((s.untagRsv core r).failRsv core r e)
    | .ok s1 => some (ok s1)

/-- The granted pass whose bank has to be loaded, once it may be. -/
def State.fetchTurn (s : State) (core : Nat) : Option Rsv :=
  (s.grantedPass core).filter (fun r => !s.halting r.who.gid && !s.tagged core r && s.banksIdle core r && s.carried r.who r.ins r.wct &&
    (!r.pair || s.ownIdle (core + 1)))

/-- OPERAND_FETCH (R72, R108): the granted pass's bank is loaded from its handle. -/
def State.evOperandFetch (s : State) (core : Nat) : Option State :=
  match s.fetchTurn core with
  | none => none
  | some r =>
    if !s.slotFree core then none
    else s.fetchRsv core r (fun s1 => let s2 := s1.setRsv core { r with refetch := false }; (s2.tryStart core).getD s2)

/-- Set the load under way in an entry's banks. -/
def State.markBusy (s : State) (core : Nat) (r : Rsv) (b : Option Nat) : State :=
  let f := (s.rsvSlots r).2
  let set : State → Nat → State := fun s c =>
    s.updCore c (fun k => (banksOf f r.bank).foldl (fun k i => k.setBank i { k.bank i with busy := b }) k)
  let s1 := set s core
  if r.pair then set s1 (core + 1) else s1

/-- A load may be granted to its idle bank (R118, R318): a follower grants nothing while a pair pass holds it (R115), and a
pair load does not disturb a bank that the follower's pass uses. -/
def State.loadTurn (s : State) (core : Nat) (r : Rsv) : Bool :=
  let bs := banksOf (s.rsvSlots r).2 r.bank
  r.load && r.stage == .waiting && !r.parked && !s.halting r.who.gid && (s.core core).slave.isNone && s.bankTurn core r
    && s.banksIdle core r && s.carried r.who r.ins r.wct
    && (!r.pair || !(s.core (core + 1)).rsvs.any (fun e => e.onArray (s.clkOf core) &&
      (banksOf (s.rsvSlots e).2 e.bank).any (fun i => bs.contains i)))

/-- A fetch of the matrix engine waits for an active slot of the engine: it takes the next one (R72). -/
def State.fetchWaits (s : State) (core : Nat) : Bool :=
  (s.fetchTurn core).isSome || (s.core core).rsvs.any (fun r => s.loadTurn core r || s.aWaits core r)

/-- BANK_LOAD (R318): entry `id` is granted to its idle bank, and its tile fetched. -/
def State.evBankLoad (s : State) (core id : Nat) : Option State :=
  match (s.core core).rsv id with
  | none => none
  | some r =>
    if !s.loadTurn core r || !s.slotFree core then none
    else
      s.fetchRsv core r (fun s1 =>
        (s1.setRsv core { r with stage := .running (s.clkOf core) }).markBusy core r (some r.id))

/-- BANK_LOAD_COMPLETE (R318). -/
def State.evBankLoadComplete (s : State) (core bank : Nat) : Option State :=
  match ((s.core core).bank bank).busy.bind (fun i => (s.core core).rsv i) with
  | none => none
  | some r => some ((s.markBusy core r none).endRsv core r none)

/-- PASS_COMPLETE (R110): 24 clk after the slots, or at once when only metadata was written. -/
def State.evPassComplete (s : State) (core : Nat) : Option State :=
  match (s.core core).rsvs.find? (fun r => !r.load && r.slotsOver (s.clkOf core) &&
      (match r.stage with
       | .running due => decide (due + (if r.rows = 0 then 0 else 24) ≤ s.clkOf core)
       | _ => false)) with
  | none => none
  | some r => some (s.endRsv core r none)

/-- A write to host memory still awaits the host's acknowledgement (R39). -/
def State.hostsOut (s : State) (ids : List Nat) : Bool := s.reqs.any (fun r => ids.contains r.id)

/-- MM_STORE_COMPLETE (R323). -/
def State.evMmStoreComplete (s : State) (id : Nat) : Option State :=
  match s.cores.findSome? (fun k => (k.2.storeJobs.find? (fun j => j.id == id)).map (fun j => (k.1, j))) with
  | none => none
  | some (core, j) =>
    if s.now < j.due || s.hostsOut j.hosts then none
    else
      let s1 := s.updCore core (fun k => { k with storeJobs := k.storeJobs.filter (fun x => x.id != id) })
      let s2 := s1.updGang j.who.gid j.who.gang (fun g => { g with fsticky := g.fsticky ||| j.flags })
      some (s2.finishNo (.matrix j.who.gid) j.number false)

def execMatrixGrant (core : Nat) (s : State) := s.unitStep (s.evMatrixGrant core)
def execArbiterPromotion (core i : Nat) (s : State) := s.unitStep (s.evArbiterPromotion core i)
def execOperandFetch (core : Nat) (s : State) := s.unitStep (s.evOperandFetch core)
def execBankLoad (core i : Nat) (s : State) := s.unitStep (s.evBankLoad core i)
def execBankLoadComplete (core bank : Nat) (s : State) := s.unitStep (s.evBankLoadComplete core bank)
def execPassComplete (core : Nat) (s : State) := s.unitStep (s.evPassComplete core)
def execMmStoreComplete (id : Nat) (s : State) := s.unitStep (s.evMmStoreComplete id)

end Sys2Proof.Machine
end

