-- ==== Sys2Proof/Machine/Engine.lean ====
section
/-!
DEFINITION. The tile-walk engine: walk programs and their checks (R67 to R71, R327), and the instructions that issue its
commands and permits (R73, R324 to R331).
-/

namespace Sys2Proof.Machine

/-- Bytes of a partition of a size that lie in local space: in the partition and in no window (R67, R288). -/
def Group.isLocal (g : Group) (size off n : Nat) : Bool :=
  decide (off + n ≤ size) && !g.smap.toList.any (fun w => smapLen w != 0 && spansMeet off n (smapOff w) (smapLen w))
def Ctx.isLocal (c : Ctx) (off n : Nat) : Bool := c.grp.isLocal c.stashBytes off n

/-- Index vectors lie in local space, aligned to their width (R70). -/
def Ctx.indexOk (c : Ctx) (p : List Reg) : Bool :=
  (stepsOf p).all (fun x => match x with
    | .index l w _ _ off =>
      let n := (((loopsOf p).find? (fun y => y.1 == l)).map (fun y => y.2.1)).getD 0
      off % (w / 8) == 0 && c.isLocal off (n * (w / 8))
    | _ => true)

def hasIndex (p : List Reg) : Bool :=
  (stepsOf p).any (fun x => match x with
    | .index _ _ _ _ _ => true
    | _ => false)

/-- The walk program that gW names, with its checks (R70, R324). -/
def Ctx.walkProg (c : Ctx) (gw : Reg) : Option (List Reg) :=
  let off := fld gw 0 20
  if fld gw 54 2 ≠ 0 ∨ fld gw 20 12 ≠ 0 ∨ off % 8 ≠ 0 then none
  else
    let rd : Nat → Option Reg := fun i =>
      if c.isLocal (off + 8 * i) 8 then some (BitVec.ofNat 64 (leNat (c.grp.stashBytesAt (off + 8 * i) 8))) else none
    match progSteps rd 16 0 with
    | none => none
    | some p => if progOk p && c.indexOk p then some p else none

/-! ### Windows (R67, R289) -/

/-- The window of a modulo register: its base in the partition and its length; `none` where R289 or R67 refuses it. -/
def Group.winOf (g : Group) (size : Nat) (m : Reg) : Option (Nat × Nat) :=
  let len := fld m 32 21
  let base := fld m 0 20
  if fld m 53 11 ≠ 0 ∨ fld m 20 12 ≠ 0 ∨ len < 16 ∨ 2 ^ 20 < len ∨ len % 16 ≠ 0 ∨ base % 16 ≠ 0 then none
  else if g.isLocal size base len then some (base, len) else none
def Ctx.engineWin (c : Ctx) (m : Nat) : Option (Nat × Nat) := c.grp.winOf c.stashBytes (c.gang.m[m]?.getD 0)

/-- The partition offset of a signed offset into a window (R67). -/
def winAt (w : Nat × Nat) (o : Int) : Nat := w.1 + (o % (w.2 : Int)).toNat

/-- Bytes of a window, byte by byte around its end. -/
def Group.winRead (g : Group) (w : Nat × Nat) (o : Int) (n : Nat) : List Byte :=
  (List.range n).map (fun (i : Nat) => SMap.get 0 g.stash (winAt w (o + (i : Int))))
def Group.winWrite (g : Group) (w : Nat × Nat) (o : Int) (d : List Byte) : Group :=
  (d.foldl (fun (a : Group × Int) b => (a.1.stashWrite (winAt w a.2) [b], a.2 + 1)) (g, o)).1

/-! ### Issue (R65, R66, R312, R326) -/

/-- Enter the engine queue (R326): a ring's new write position, then the number, gN, the open batch; the command waits in the
queue. Also the fragment with its gang's registers written. -/
def State.enterCmd (s : State) (c : Ctx) (d : BitVec 7) (x : Cmd) : State × Ctx :=
  let k := (s.counter x.ctx).take
  let f := (s.setCounter x.ctx k.1).fresh
  let s1 := f.1.writebackAll c.who.gid
  let c1 := (s1.ctxOf c.who).getD c
  let x1 : Cmd := { x with id := f.2, number := k.2, batch := c1.gang.batchNo + 1, ins := s1.nextIns, wct := max x.wct c1.gang.wct }
  let gw : Gang := if x1.ring then
      let off := (x1.winOff + tileOf x1.prog) % x1.win.2
      let r := bits x1.words.1.toNat 0 7
      c1.gang.wrG r (BitVec.ofNat 64 ((c1.gang.rdG r).toNat - x1.winOff * 2 ^ 32 + off * 2 ^ 32))
    else c1.gang
  let c2 : Ctx := { c1 with gang := { gw.wrNo d k.2 with openCmds := c1.gang.openCmds ++ [(x.ctx, k.2)] } }
  (s1.updCore c.core (fun q => { q with queue := q.queue ++ [x1] }), c2)

/-- A command of the issuing fragment enters the queue, and the instruction retires. -/
def State.postCmd (s : State) (c : Ctx) (d : BitVec 7) (x : Cmd) : State :=
  let r := s.enterCmd c d x
  r.1.put (r.2.retire 2)

/-- A command of the fragment with its operands as read. -/
def Ctx.newCmd (c : Ctx) (op : Nat) (o : LX) : Cmd :=
  { id := 0, stage := .queued, op := op, who := c.who, pc := c.frag.pc, quads := c.frag.quads, dix := c.lowQuad.dix,
    words := lxWords op o, ga := c.gang.rdG o.w.a.toNat, gw := c.gang.rdG o.w.b.toNat
    gc := if o.x.c = 0 then 0 else c.gang.rdG o.x.c.toNat
    win := (0, 0), prog := [], pos := 0, batch := 0, ctx := .engine c.core, number := 0, ins := 0, wct := 0, err := none,
    addr := 0, flags := 0, due := 0, copies := [], data := [], idx := [], hosts := [], parked := false }

/-- Entries in the engine's queue that have no active slot (R65). -/
def Core.waitingCmds (k : Core) : Nat := (k.queue.filter (fun x => x.stage == .queued)).length

/-- The checks of a command with a walk program and a window. -/
def Ctx.walkChecks (c : Ctx) (x : Cmd) : Except Reason Cmd :=
  match c.walkProg x.gw, c.engineWin x.mreg with
  | some p, some w =>
    if x.ring && (decide (dstLow p < 0) || w.2 % tileOf p != 0) then .error .badWalk
    else .ok { x with prog := p, win := w }
  | _, _ => .error .badWalk

/-- The checks of TW.STORE.ACC (R96, R327). -/
def Ctx.accChecks (c : Ctx) (o : LX) (x : Cmd) : Except Reason Cmd :=
  let f := c.slot o.x.slot
  match c.walkProg x.gw with
  | none => .error .badWalk
  | some p =>
    if !f.ok then .error .badFormatSlot
    else if runOf p % 4 ≠ 0 ∨ (loopsOf p).any (fun l => l.2.2.1 % 4 != 0) ∨ runOf p / 4 * f.bits % 8 ≠ 0 ∨ c.accRows = 0 then
      .error .badWalk
    else if f.block ≠ 0 then .error .badFormatSlot
    else .ok { x with prog := p }

/-- The checks of TW.LOAD and TW.GATHER: an INDEX step is for a gather alone (R324). -/
def Ctx.loadChecks (c : Ctx) (gather : Bool) (x : Cmd) : Except Reason Cmd :=
  match c.walkChecks x with
  | .ok y => if hasIndex y.prog = gather then .ok y else .error .badWalk
  | e => e

/-- The checks of TW.MCAST (R74, R330): the mask names cores of the issuing die. -/
def Ctx.castChecks (c : Ctx) (x : Cmd) : Except Reason Cmd :=
  match c.walkChecks x with
  | .ok y =>
    if hasIndex y.prog then .error .badWalk
    else if fld y.gc 32 32 ≠ 0 then .error .badMcast
    else .ok { y with copies := ((List.range 24).filter (fun i => y.gc.getLsbD i)).map (fun i => 24 * dieOf c.core + i) }
  | e => e

/-- The checks of TW.RED (R329): the window of mW and the element count. -/
def Ctx.redChecks (c : Ctx) (o : LX) (x : Cmd) : Except Reason Cmd :=
  match c.engineWin x.mreg with
  | none => .error .badWalk
  | some w =>
    let n := fld x.ga 0 32
    if fld x.gw 54 10 ≠ 0 ∨ fld x.gw 0 32 ≠ 0 ∨ n = 0 ∨ w.2 / tyBytes x.ty < n then .error .badWalk
    else .ok { x with win := w, ctx := .coll c.lau.func (o.x.imm.toNat / 16) }

/-- The checks of an engine command, by its opcode. -/
def Ctx.cmdChecks (c : Ctx) (op : Nat) (o : LX) (x : Cmd) : Except Reason Cmd :=
  match op with
  | 0x50 => c.loadChecks false x
  | 0x51 => if x.acc then c.accChecks o x else c.walkChecks x
  | 0x52 => c.castChecks x
  | 0x53 => c.loadChecks true x
  | _ => c.redChecks o x

/-- An engine command: its checks, a stall while an older access of the gang has still to be translated (R161), while its
accumulator rows are in use, or while the queue is full, then the queue. -/
def State.engine (s : State) (op : Nat) (o : LX) : Host.Outcome State Fault Refusal :=
  s.onCtx (fun c =>
    if !c.gang.qpred o.w.g.toNat then s.put (c.retire 2)
    else
      match c.cmdChecks op o (c.newCmd op o) with
      | .error r => s.put (c.fault s.now r)
      | .ok x =>
        let rows := if x.acc then c.grp.accRowsOf c.accRows x else []
        if c.olderWaits then s.put (c.stall .older)
        else if rows.any c.grp.tapOwns then s.put (c.stall .inUse)
        else if rows.any (fun i => s.passOver c i 1 1 (BitVec.allOnes 256)) then s.put (c.stall .inUse)
        else if Config.engineQueue ≤ (s.core c.core).waitingCmds then s.put (c.stall (.engineFull x.words.1 x.words.2 (c.nextPc 2)))
        else s.postCmd c o.w.d x)

def execTwLoad (o : LX) (s : State) : Host.Outcome State Fault Refusal := s.engine 0x50 o
def execTwStore (o : LX) (s : State) : Host.Outcome State Fault Refusal := s.engine 0x51 o
def execTwMcast (o : LX) (s : State) : Host.Outcome State Fault Refusal := s.engine 0x52 o
def execTwGather (o : LX) (s : State) : Host.Outcome State Fault Refusal := s.engine 0x53 o
def execTwRed (o : LX) (s : State) : Host.Outcome State Fault Refusal := s.engine 0x54 o

/-! ### Permits (R73, R331) -/

/-- The gang has a load or an atomic from before an instruction that has not returned. -/
def State.loadsBefore (s : State) (gid gang ins : Nat) : Bool :=
  s.reqs.any (fun r => (r.isLoad || r.isAtomic) && r.parts.any (fun p => p.ofGang gid gang && decide (p.ins < ins)))

def Group.halyardAt (g : Group) (k : Nat) : Nat := (g.halyard[k]?.getD 0).toNat
def Group.addHalyard (g : Group) (k n : Nat) : Group :=
  { g with halyard := g.halyard.setIfInBounds k (BitVec.ofNat 12 (g.halyardAt k + n)) }

/-- Permits of a register that wait for their gangs' loads. -/
def Group.permitsFor (g : Group) (k : Nat) : Nat := (g.permits.filter (fun p => p.2.1 == k)).foldl (fun n p => n + p.2.2.1) 0

/-- TW.PERMIT: at once where no earlier load of the gang is out, else when they have returned. Permits that wait for their
loads count toward the limit (log 109). -/
def execTwPermit (o : UI) (s : State) : Host.Outcome State Fault Refusal :=
  s.onCtx (fun c =>
    let k := o.d.toNat
    let n := o.imm.toNat
    if 4095 < c.grp.halyardAt k + c.grp.permitsFor k + n then s.put (c.fault s.now .permitOverflow)
    else
      let g : Group := if s.loadsBefore c.who.gid c.who.gang s.nextIns
        then { c.grp with permits := c.grp.permits ++ [(c.who.gang, k, n, s.nextIns)] }
        else c.grp.addHalyard k n
      s.put (({ c with grp := g } : Ctx).retire 1))

end Sys2Proof.Machine
end

