-- ==== Sys2Proof/Machine/EvEngine.lean ====
section
/-!
DEFINITION. The steps of the tile-walk engine: slots, walks, permits, multicast copies, reductions and completion (R65,
R66, R69, R73 to R76, R103, R104).
-/

namespace Sys2Proof.Machine

def Core.cmd (k : Core) (id : Nat) : Option Cmd := k.queue.find? (fun x => x.id == id)
def State.setCmd (s : State) (core : Nat) (x : Cmd) : State :=
  s.updCore core (fun k => { k with queue := k.queue.map (fun y => if y.id == x.id then x else y) })

/-- ENGINE_SLOT_START (R65): a fetch of the matrix engine that waits takes the slot first (R72). -/
def State.evEngineSlotStart (s : State) (core : Nat) : Option State :=
  match (s.core core).queue.find? (fun x => x.stage == .queued) with
  | none => none
  | some x => if s.slotFree core && !s.fetchWaits core then some (s.setCmd core { x with stage := .active }) else none

/-! ### Destination lines (R66) -/

/-- The receivers of a multicast on a core (R74). -/
def State.receivers (s : State) (x : Cmd) (target : Nat) : List (Nat × Group) :=
  s.groups.filter (fun g => coreOf g.1 == target && !g.2.draining && some g.2.launch == s.launchOf x.who.gid
    && g.2.mcast.getLsbD 12 && fld g.2.mcast 0 8 == fld x.gc 24 8)

/-- The window where a receiver takes its copy: that of its gang 0's modulo register, as it stands (log 30); without a valid
one the copy is dropped (log 110). -/
def State.receiverWin (s : State) (x : Cmd) (g : Group) : Option (Nat × Nat) :=
  match s.launches.find g.launch, g.gangs.head? with
  | some l, some q => g.winOf (l.rcd.stash4k * 4096) (q.m[x.mreg]?.getD 0)
  | _, _ => none

/-- Keys of the 64-byte lines of window bytes. -/
def winLines (gid : Nat) (w : Nat × Nat) (o : Int) (n : Nat) : List Nat :=
  ((List.range n).map (fun (i : Nat) => 2 ^ 50 + gid * 2 ^ 14 + winAt w (o + (i : Int)) / 64)).eraseDups

/-- The destination lines that a command has still to write: a global byte names its line by its virtual address, and by
its physical one where it is translated (log 111); a multicast's copies are written when they land. -/
def State.cmdLines (s : State) (x : Cmd) : List Nat :=
  let its := ((List.range (itersOf x.prog)).drop (if x.op = 0x52 then 0 else x.pos)).filter (underCount x.prog x.vcount)
  let run := runOf x.prog
  match x.op with
  | 0x51 =>
    match s.grpOf x.who.gid with
    | none => []
    | some (_, l) =>
      its.flatMap (fun t =>
        (List.range run).flatMap (fun (i : Nat) =>
          let va := vaAt x.ga (dstOff x.prog t + (i : Int))
          (2 ^ 70 + (l.func * 16 + l.aspace) * 2 ^ 58 + va / 64) ::
            (match s.xlNow (coreOf x.who.gid) l.func l.aspace va .write with
             | .ok pa => [lineOf pa]
             | _ => [])))
  | 0x52 =>
    x.copies.flatMap (fun k => (s.receivers x k).flatMap (fun g =>
      match s.receiverWin x g.2 with
      | some w => its.flatMap (fun t => winLines g.1 w ((x.winOff : Int) + dstOff x.prog t) run)
      | none => []))
  | 0x54 => winLines x.who.gid x.win (x.winOff : Int) (fld x.ga 0 32 * tyBytes x.ty)
  | _ => its.flatMap (fun t => winLines x.who.gid x.win ((x.winOff : Int) + dstOff x.prog t) run)

/-- No earlier command of the queue has still to write one of a command's lines (R66). -/
def State.linesTurn (s : State) (core : Nat) (x : Cmd) : Bool :=
  let es := (s.core core).queue.filter (fun e => decide (e.id < x.id) &&
    (match e.stage with
     | .finishing _ => !e.copies.isEmpty
     | _ => true))
  es.isEmpty ||
    (let mine := s.cmdLines x
     !es.any (fun e => (s.cmdLines e).any (fun l => mine.contains l)))

/-! ### Walks (R69, R328) -/

/-- Global bytes of a command of a group; an address in the aperture is no global address (log 31). -/
def State.cmdRead (s : State) (l : Launch) (gid va n : Nat) : Except Stop (State × List Byte) :=
  if inAperture va then .error (.paUnbacked, va) else s.unitLoad l.func l.aspace va n .read 0 (coreOf gid)
def State.cmdWrite (s : State) (l : Launch) (gid lau va : Nat) (d : List Byte) : Except Stop (State × Nat × List Nat) :=
  if inAperture va then .error (.paUnbacked, va) else s.unitStore l.func l.aspace (some lau) va d 0 (coreOf gid)

/-- A byte of the accumulator allocation. -/
def Group.accByte (g : Group) (accRows o : Nat) : Byte :=
  let i := o % (accRows * 4096)
  BitVec.ofNat 8 (((g.accRow (i / 4096))[i % 4096 / 4]?.getD 0).toNat / 256 ^ (i % 4))

/-- One run of accumulator words through a slot: elements and flags, or a NaN under the policy FAULT. -/
def Group.accRun (g : Group) (x : Cmd) (accRows o n : Nat) : Option (List Byte × Flags) :=
  let f := g.slots[bits x.xa 22 3]?.getD FmtSlot.zero
  let mode := bits x.xa 20 2
  let es := (List.range (n / 4)).map (fun i =>
    let a := (o + 4 * i) % (accRows * 4096)
    let w := leNat ((List.range 4).map (fun j => g.accByte accRows (a + j)))
    let v := accVal (x.ty == 6) (BitVec.ofNat 32 w)
    let k : Rnd := { mode := mode, sat := bits x.xa 19 1 == 1,
                     r := if mode = 2 then srBits f.seed x.dix (a / 4096) (a % 4096 / 4) else 0 }
    (v.isNan, f.write k 0 v))
  if f.nan = 2 ∧ es.any Prod.fst then none
  else some (packBytes f.bits (es.map (fun e => e.2.1)), es.foldl (fun a e => a ||| e.2.2) 0)

/-- One iteration of a walk; its index elements are those in hand as it begins (R74). -/
def State.walkIter (s : State) (l : Launch) (x : Cmd) (t : Nat) : Except Stop (State × Cmd) :=
  match s.groups.find x.who.gid with
  | none => .ok (s, x)
  | some g =>
    let run := runOf x.prog
    let idx := g.indexIn x.prog t x.idx
    let src := srcOffIn x.prog t idx
    let dst := dstOff x.prog t
    let fill := List.replicate run (BitVec.ofNat 8 (fld x.gw 56 8))
    let x : Cmd := { x with idx := idx }
    if !underCount x.prog x.vcount t then .ok (s, x)
    else if x.op = 0x51 then
      let out : Option (List Byte × Flags) :=
        if padded x.prog t then some (fill, 0)
        else if x.acc then
          g.accRun x l.rcd.accRows (((x.winOff : Int) + src) % ((l.rcd.accRows * 4096 : Nat) : Int)).toNat run
        else some (g.winRead x.win ((x.winOff : Int) + src) run, 0)
      match out with
      | none => .error (.nanOperand, 0)
      | some (d, fl) =>
        match s.cmdWrite l x.who.gid g.launch (vaAt x.ga dst) d with
        | .error e => .error e
        | .ok (s1, due, hs) => .ok (s1, { x with due := max x.due due, hosts := x.hosts ++ hs, flags := x.flags ||| fl })
    else
      match (if padded x.prog t then .ok (s, fill) else s.cmdRead l x.who.gid (vaAt x.ga src) run) with
      | .error e => .error e
      | .ok (s1, d) =>
        let o := (x.winOff : Int) + dst
        if x.op = 0x52 then .ok (s1, { x with data := x.data ++ [(o, d)] })
        else .ok (s1.updGroup x.who.gid (fun g => g.winWrite x.win o d), x)

/-- The iterations that are left, until one fails. -/
def State.walkFrom (l : Launch) : Nat → State → Cmd → State × Cmd × Option Stop
  | 0, s, x => (s, x, none)
  | n + 1, s, x =>
    match s.walkIter l x x.pos with
    | .error e => (s, x, some e)
    | .ok (s1, y) => State.walkFrom l n s1 { y with pos := x.pos + 1 }

/-- A walk ran to its end, or failed: a replayable fault parks the command, any other ends it in error (R31, R76). What a
multicast has read till then lands in its receivers (log 112). -/
def State.walkCmd (s : State) (core : Nat) (x : Cmd) : State :=
  match s.grpOf x.who.gid with
  | none => s
  | some (_, l) =>
    let r := State.walkFrom l (itersOf x.prog - x.pos) s x
    let y := r.2.1
    match r.2.2 with
    | none => r.1.setCmd core { y with stage := .finishing (max y.due r.1.now) }
    | some e =>
      if e.1.replayable then
        (r.1.setCmd core { y with stage := .walking, parked := true }).park (dieOf core) l.func l.aspace e.2
          (if x.op = 0x51 then .write else .read) e.1 (.engine core x.id)
      else r.1.setCmd core { y with stage := .finishing (max y.due r.1.now), err := some e.1, addr := e.2 }

/-! ### Reductions (R103, R104, R329) -/

/-- Pairs combine in order; an odd last element passes up. -/
def redPairs {α : Type} (f : α → α → α) : List α → List α
  | a :: b :: t => f a b :: redPairs f t
  | l => l

/-- The fixed tree of R103. -/
def redTree {α : Type} (f : α → α → α) (z : α) : Nat → List α → α
  | 0, l => l.head?.getD z
  | n + 1, l =>
    match l with
    | [] => z
    | [x] => x
    | l => redTree f z n (redPairs f l)

/-- One element reduced: its bits and flags, those of the tree's additions and of the last rounding among them (R94);
`ty` 8 F32, 9 BF16, 6 I32, 2 N32; `op` 0 SUM, 1 MIN, 2 MAX (log 116). -/
def redElem (op ty : Nat) (vs : List Nat) : Nat × Flags :=
  if ty = 8 ∨ ty = 9 then
    let f := if ty = 8 then fp32 else bf16
    let wide := vs.map (fun v => ((if ty = 8 then v else v * 65536, 0) : Nat × Flags))
    let snan := Flags.when (vs.any (fun v => (decodeNum f v).signals)) Flags.invalid
    match vs.find? (fun v => (decodeNum f v).isNan) with
    | some v => (v ||| (if ty = 8 then 0x400000 else 0x40), snan)
    | none =>
      let comb : Nat × Flags → Nat × Flags → Nat × Flags := fun a b =>
        let c := if op = 0 then fadd32 a.1 b.1 else minmaxNum fp32 (op == 2) false a.1 b.1
        (c.1, a.2 ||| b.2 ||| c.2)
      let x := redTree comb (0, 0) wide.length wide
      if (decodeNum fp32 x.1).isNan then (if ty = 8 then 0x7FC00000 else 0x7FC0, x.2 ||| Flags.invalid)
      else if ty = 8 then x
      else
        let y := encodeNum bf16 Rnd.rne (decodeNum fp32 x.1)
        (y.1, x.2 ||| y.2)
  else
    let comb : Nat → Nat → Nat := fun a b => atomNew (if op = 0 then 0 else if op = 1 then 2 else 3) ty a b 0
    (redTree comb 0 vs.length vs, 0)

/-- The first contribution of a rank. -/
def Coll.first (c : Coll) (r : Nat) : Option (List Byte) := (c.got.find? (fun x => x.1 == r)).map Prod.snd

/-- Take the first contribution of each rank out. -/
def Coll.takeFirst (c : Coll) : Coll :=
  { c with got := (List.range c.n).foldl (fun l r => l.eraseP (fun x => x.1 == r)) c.got }

/-- The reduction that a command waits for, once every other member's contribution is there. -/
def State.reduce (s : State) (core : Nat) (x : Cmd) (func k : Nat) : State :=
  let c := (s.fn func).coll k
  let n := fld x.ga 0 32
  let w := tyBytes x.ty
  let own := (x.data.head?.map Prod.snd).getD []
  let ranks := List.range (max c.n 1)
  let ds := ranks.map (fun r => if r = c.rank ∨ c.n ≤ 1 then some own else c.first r)
  if ds.any Option.isNone then s
  else
    let s1 := s.updFn func (fun f => { f with colls := f.colls.set k c.takeFirst })
    let all := ds.map (fun d => d.getD [])
    let fin : Cmd := { x with stage := .finishing s.now }
    if all.any (fun d => d.length != own.length) then s1.setCmd core { fin with err := some .badWalk }
    else
      let es := (List.range n).map (fun i => redElem (x.sub % 4) x.ty (all.map (fun d => leNat ((d.drop (i * w)).take w))))
      (s1.updGroup x.who.gid (fun g => g.winWrite x.win (x.winOff : Int) (es.flatMap (fun e => toLE w e.1)))).setCmd core
        { fin with flags := es.foldl (fun a e => a ||| e.2) 0 }

/-- A reduction begins: its bytes are read and sent with a stamp to the other members (R75, R401, R410). -/
def State.startRed (s : State) (core : Nat) (x : Cmd) (func k : Nat) : State :=
  match s.groups.find x.who.gid with
  | none => s
  | some g =>
    let d := g.winRead x.win (x.winOff : Int) (fld x.ga 0 32 * tyBytes x.ty)
    let st := s.stamp 4
    let y : Cmd := { x with stage := .walking, data := [((x.winOff : Int), d)] }
    let s1 := st.1.setCmd core y
    let c := (s.fn func).coll k
    let others := (c.peers.zipIdx.filter (fun p => p.2 != c.rank)).map Prod.fst
    State.reduce { s1 with out := s1.out ++ others.map (fun p => Output.contribution func ((s.fn func).portTo p) p k d (st.2 % 2 ^ 64)) }
      core y func k

/-- ENGINE_WALK_START (R66): the settled %wct has passed, and no earlier command has a line of this one to write. -/
def State.evEngineWalkStart (s : State) (core id : Nat) : Option State :=
  match (s.core core).cmd id with
  | none => none
  | some x =>
    if x.parked || !s.carried x.who x.ins x.wct then none
    else
      match x.stage, x.ctx with
      | .active, .coll f k =>
        if x.number = ((s.fn f).coll k).ctr.count + 1 ∧ s.linesTurn core x then some (s.startRed core x f k) else none
      | .active, _ =>
        if x.ring then some (s.setCmd core { x with stage := .permit })
        else if s.linesTurn core x then some (s.walkCmd core x) else none
      | .walking, .coll _ _ => none
      | .walking, _ => if s.linesTurn core x then some (s.walkCmd core x) else none
      | _, _ => none

/-- RING_TILE_START (R73): a permit is taken, and the tile written. -/
def State.evRingTileStart (s : State) (core id : Nat) : Option State :=
  match (s.core core).cmd id with
  | none => none
  | some x =>
    match s.groups.find x.who.gid with
    | none => none
    | some g =>
      if x.stage != .permit || g.halyardAt x.mreg == 0 || !s.linesTurn core x then none
      else
        let s1 := s.updGroup x.who.gid (fun g =>
          { g with halyard := g.halyard.setIfInBounds x.mreg (BitVec.ofNat 12 (g.halyardAt x.mreg - 1)) })
        some (s1.walkCmd core x)

/-- PERMIT_EFFECT (R73): the first permit whose gang's earlier loads have returned. -/
def State.evPermitEffect (s : State) (gid : Nat) : Option State :=
  match s.groups.find gid with
  | none => none
  | some g =>
    match g.permits.find? (fun p => !s.loadsBefore gid p.1 p.2.2.2) with
    | none => none
    | some p => some (s.updGroup gid (fun g => { g.addHalyard p.2.1 p.2.2.1 with permits := g.permits.erase p }))

/-- MCAST_COPY_LAND (R74): the copy lands in the one receiver's window, or is dropped with an entry. -/
def State.evMcastCopyLand (s : State) (core id target : Nat) : Option State :=
  match (s.core core).cmd id with
  | none => none
  | some x =>
    let walked : Bool := match x.stage with
      | .finishing _ => true
      | _ => false
    if x.op != 0x52 || !walked || !x.copies.contains target || !s.linesTurn core x then none
    else
      let y : Cmd := { x with copies := x.copies.filter (fun k => k != target) }
      let drop : State :=
        (s.setCmd core { y with err := some (y.err.getD .mcastDrop) }).recordUnit x.who x.pc x.quads x.ctx x.number .mcastDrop
          .mcastDrop 0 0
      match s.receivers x target with
      | [(gid, g)] =>
        match s.receiverWin x g with
        | none => some drop
        | some w =>
          let s1 := s.updGroup gid (fun g => x.data.foldl (fun g d => g.winWrite w d.1 d.2) g)
          some ((s1.setCmd core y).engineArrive gid (fld g.mcast 8 4) y.err.isSome x.who x.pc x.quads x.ctx x.number
            (y.err.getD .barrierOverflow))
      | _ => some drop

/-- ENGINE_COMMAND_COMPLETE (R76, R79, R94). -/
def State.evEngineCommandComplete (s : State) (core id : Nat) : Option State :=
  match (s.core core).cmd id with
  | none => none
  | some x =>
    match x.stage with
    | .finishing due =>
      if s.now < due || s.hostsOut x.hosts || !x.copies.isEmpty then none
      else
        let s1 := s.updCore core (fun k => { k with queue := k.queue.filter (fun y => y.id != id) })
        let s2 := s1.updGang x.who.gid x.who.gang (fun g => { g with fsticky := g.fsticky ||| x.flags })
        let s3 := s2.finishNo x.ctx x.number x.err.isSome
        let s4 := match x.err with
          | some r => if r == .mcastDrop then s3 else s3.recordUnit x.who x.pc x.quads x.ctx x.number r r x.addr 0
          | none => s3
        some (match x.bar with
          | some k => s4.engineArrive x.who.gid k x.err.isSome x.who x.pc x.quads x.ctx x.number (x.err.getD .barrierOverflow)
          | none => s4)
    | _ => none

/-- TW_RED_CONTRIBUTION (R329, R411): a peer's data of a rank, with its stamp. -/
def State.evTwRedContribution (s : State) (func k rank : Nat) (data : List Byte) (mp mc : Nat) : State :=
  let s1 := s.updDie 4 (fun d => { d with hlc := d.hlc.merge s.now mp mc })
  let s2 := s1.updFn func (fun f =>
    { f with colls := f.colls.set k { f.coll k with got := (f.coll k).got ++ [(rank, data)] } })
  match s2.cores.findSome? (fun c =>
      (c.2.queue.find? (fun x => x.ctx == .coll func k && x.stage == .walking)).map (fun x => (c.1, x))) with
  | some (core, x) => s2.reduce core x func k
  | none => s2

def execEngineSlotStart (core : Nat) (s : State) := s.unitStep (s.evEngineSlotStart core)
def execEngineWalkStart (core i : Nat) (s : State) := s.unitStep (s.evEngineWalkStart core i)
def execPermitEffect (gid : Nat) (s : State) := s.unitStep (s.evPermitEffect gid)
def execRingTileStart (core i : Nat) (s : State) := s.unitStep (s.evRingTileStart core i)
def execEngineCommandComplete (core i : Nat) (s : State) := s.unitStep (s.evEngineCommandComplete core i)
def execMcastCopyLand (core i target : Nat) (s : State) := s.unitStep (s.evMcastCopyLand core i target)
def execTwRedContribution (func k rank : Nat) (data : List Byte) (mp mc : Nat) (s : State) :=
  s.unitStep (some (s.evTwRedContribution func k rank data mp mc))

end Sys2Proof.Machine
end

