-- ==== Sys2Proof/Machine/Sync.lean ====
section
/-!
DEFINITION. Batches, barriers and timelines (R77 to R82, R332 to R334).
-/

namespace Sys2Proof.Machine

/-! ### Batches (R77, R332) -/

/-- A numbered command has completed, or ended in error. -/
def State.cmdDone (s : State) (x : CtxRef × Nat) : Bool :=
  let k := s.counter x.1
  decide (x.2 ≤ k.count) || k.done.contains x.2
def State.cmdErr (s : State) (x : CtxRef × Nat) : Bool := (s.counter x.1).errs.contains x.2

def State.batchDone (s : State) (b : Batch) : Bool := b.cmds.all s.cmdDone
def State.batchErr (s : State) (b : Batch) : Bool := b.cmds.any s.cmdErr

/-- A gang's closed batches that are incomplete: from the first one on that has a command at work. -/
def State.openBatches (s : State) (g : Gang) : List Batch := g.batches.dropWhile s.batchDone

/-- CBATCH: batch numbers go on by one; a completed batch is kept while it holds an error. -/
def execCbatch (o : LR) (s : State) : Host.Outcome State Fault Refusal :=
  s.onCtx (fun c =>
    let g := c.gang
    let open0 := s.openBatches g
    if !g.qpred o.g.toNat then s.put (c.retire 1)
    else if 8 ≤ open0.length then s.put (c.stall (.batch 0))
    else
      let n := g.batchNo + 1
      let kept := (g.batches.takeWhile s.batchDone).filter s.batchErr
      let g1 := { g.wrG o.d.toNat (BitVec.ofNat 64 n) with
        batchNo := n, openCmds := [], batches := kept ++ open0 ++ [{ no := n, cmds := g.openCmds }] }
      s.put (({ c with gang := g1 } : Ctx).retire 1))

/-- CWAIT waits on its batch: a number above the last closed one stands for that one. -/
def State.batchWaits (s : State) (g : Gang) (n : Nat) : Bool := (s.openBatches g).any (fun b => decide (b.no ≤ min n g.batchNo))

/-- No command in the batches up to a number ended in error. -/
def State.batchesOk (s : State) (g : Gang) (n : Nat) : Bool := !g.batches.any (fun b => decide (b.no ≤ n) && s.batchErr b)

/-- CWAIT. -/
def execCwait (o : LR) (s : State) : Host.Outcome State Fault Refusal :=
  s.onCtx (fun c =>
    let n := min (c.src.rdG o.a.toNat).toNat c.gang.batchNo
    let done : Bool → State := fun q => s.put (({ c with gang := c.gang.setQ o.d.toNat q } : Ctx).retire 1)
    if !c.src.qpred o.g.toNat then s.put (c.retire 1)
    else
      match c.frag.grant with
      | some (.reached ok) => done ok
      | _ => if s.batchWaits c.gang n then s.put (c.sleep (.batch n)) else done (s.batchesOk c.gang n))

/-! ### Barriers (R78, R79, R333) -/

def Group.bar (g : Group) (k : Nat) : Barrier := g.bars[k]?.getD Barrier.zero
def Group.setBar (g : Group) (k : Nat) (b : Barrier) : Group := { g with bars := g.bars.setIfInBounds k b }

/-- BAR.INIT. -/
def execBarInit (o : LR) (s : State) : Host.Outcome State Fault Refusal :=
  s.runU o.g 1 (fun c =>
    let k := o.d.toNat
    let b := c.grp.bar k
    .ok { c with grp := c.grp.setBar k { b with expected := (c.gang.rdG o.a.toNat).setWidth 12, arrived := 0, bad := false } })

/-- BAR.ARRIVE. -/
def execBarArrive (o : LR) (s : State) : Host.Outcome State Fault Refusal :=
  s.onCtx (fun c =>
    if !c.gang.qpred o.g.toNat then s.put (c.retire 1)
    else if s.stashOut c.who.gid c.who.gang then s.put (c.stall .stash)
    else
      let k := o.a.toNat
      let n := if o.b = 0 then 1 else fld (c.gang.rdG o.b.toNat) 0 12
      let b := c.grp.bar k
      let r := b.arrive n false
      let phase : Reg := if b.phase then 1 else 0
      let gang := if o.d = 0 then c.gang else c.gang.wrG o.d.toNat phase
      let s0 := s.put (({ c with grp := c.grp.setBar k r.1, gang := gang } : Ctx).retire 1)
      let s1 := if r.1.phase = b.phase then s0 else s0.wakeBarrier c.who.gid k (!r.1.lastBad)
      if r.2 = 0 then s1
      else
        s1.append c.grp.launch c.core
          { reason := .barrierOverflow, kind := 0, gang := c.who.gang, quads := c.frag.quads, group := c.grp.indexReg
            pc := c.frag.pc, lanes := c.faultLanes 7, tick := s.now, d0 := BitVec.ofNat 64 k, d1 := BitVec.ofNat 64 n
            d2 := BitVec.ofNat 64 r.2, nested := c.frag.handler })

/-- BAR.WAIT: a deterministic launch does not sleep (R207). -/
def execBarWait (o : LR) (s : State) : Host.Outcome State Fault Refusal :=
  s.onCtx (fun c =>
    let k := o.a.toNat
    let b := c.grp.bar k
    let done : Bool → State := fun q => s.put (({ c with gang := c.gang.setQ o.d.toNat q } : Ctx).retire 1)
    if !c.src.qpred o.g.toNat then s.put (c.retire 1)
    else
      match c.frag.grant with
      | some (.pred q) => done q
      | _ =>
        if b.phase != (c.src.rdG o.b.toNat).getLsbD 0 then done (!b.lastBad)
        else if c.lau.rcd.det then s.put ({ c with gang := c.gang.setQ o.d.toNat false } : Ctx).detRetry
        else s.put (c.sleep (.barrier k)))

/-! ### Timelines (R80 to R82, R334) -/

/-- The mirror word of a binding of KIND 5. -/
def mirrorOf (v : Reg) : Nat := fld v 10 54 * 8

/-- The access to a mirror word that an instruction makes: its physical address, or what stops it. -/
def State.mirrorAcc (s : State) (c : Ctx) (v : Reg) : Prep := s.prep c 8 .read (fun _ => c.faultLanes 7) [(64, mirrorOf v)]

/-- The wait of TWAIT on a mirror word: as WAITCMP for an unsigned value of at least n (R58, R82). -/
def State.waitMirror (s : State) (c : Ctx) (pa n : Nat) (done : State → Ctx → State) : State :=
  let mon : Monitor := { slice := 64, who := .frag c.who, since := s.now, func := c.lau.func, pa := pa, ty := 3, rel := 5, value := n }
  if regionOf pa = 4 then State.put { s with monitors := s.monitors ++ [mon] } (c.sleep (.mirrorFull (s.now + 2048)))
  else if s.ownWrite c.who.gid c.who.gang (lineOf pa) then s.put (c.linger (.ownStore (lineOf pa)))
  else
    let s1 := s.monitorRead c.who.gid pa
    let c1 := (s1.ctxOf c.who).getD c
    if monHolds 5 3 (s1.readVis pa 8) n then done s1 c1
    else
      let m := s1.armMonitor mon
      m.1.put (((m.1.ctxOf c.who).getD c).sleep (match m.2 with | .monitorFull due => .mirrorFull due | _ => .mirror))

/-- TWAIT. A wait that has ended returns what its wake found, whatever %tcbind holds by then (R358). The predicate of a wait
on a mirror word is true: the word does not show errors (log 113). -/
def execTwait (o : LR) (s : State) : Host.Outcome State Fault Refusal :=
  s.onCtx (fun c =>
    let v := c.grp.tcbind[o.a.toNat]?.getD 0
    let n := (c.src.rdG o.b.toNat).toNat
    let done : State → Ctx → Bool → State := fun s c b => s.put (({ c with gang := c.gang.setQ o.d.toNat b } : Ctx).retire 1)
    let fence : State → Ctx → State := fun s c =>
      if s.loadsOut c.who.gid c.who.gang || c.otherMonitors then
        s.put ({ c with frag := { c.frag with grant := some (.pred true) } }.linger .fenceL)
      else done s c true
    if !c.src.qpred o.g.toNat then s.put (c.retire 1)
    else
      match c.frag.grant with
      | some (.reached ok) => done s c ok
      | some (.pred true) => fence s c
      | _ =>
        match boundCtx c.lau.func c.who.gid v with
        | some x =>
          let k := s.counter x
          if k.count < n then s.put (c.sleep (.timeline (some x) n)) else done s c (!k.errUpTo n)
        | none =>
          if fld v 4 4 ≠ 5 then s.put (c.fault s.now .badTcbind)
          else
            match s.mirrorAcc c v with
            | .bad r d => s.put (c.fault s.now r d)
            | .walk w => s.stallWalk c w
            | .go xs =>
              match xs.head?.map Acc.route with
              | some (.home pa) | some (.window _ pa) => s.waitMirror c pa n fence
              | _ => s.put (c.fault s.now .paUnbacked { addr := BitVec.ofNat 64 (mirrorOf v), lanes := c.faultLanes 7 }))

/-- TREAD: COUNT or ISSUED; for KIND 5 an ordinary 8-byte load of the mirror word. -/
def execTread (o : LR) (s : State) : Host.Outcome State Fault Refusal :=
  s.onCtx (fun c =>
    let v := c.grp.tcbind[o.a.toNat]?.getD 0
    if !c.gang.qpred o.g.toNat then s.put (c.retire 1)
    else
      match boundCtx c.lau.func c.who.gid v with
      | some x =>
        let k := s.counter x
        s.put (({ c with gang := c.gang.wrG o.d.toNat (BitVec.ofNat 64 (if o.b = 0 then k.count else k.issued)) } : Ctx).retire 1)
      | none =>
        if fld v 4 4 ≠ 5 ∨ o.b ≠ 0 then s.put (c.fault s.now .badTcbind)
        else if c.skipped then s.put ((c.enter s 0).retire 1)
        else if s.memFull c then s.put (c.stall .memLimit)
        else
          match s.mirrorAcc c v with
          | .bad r d => s.put (c.fault s.now r d)
          | .walk w => s.stallWalk c w
          | .go xs =>
            let r := s.loadAccs c xs o.d.toNat 8 false
            { r.1.put ((r.2.enter r.1 (r.1.nextIns + 1)).retire 1) with nextIns := r.1.nextIns + 1 })

end Sys2Proof.Machine
end

