-- ==== Sys2Proof/Machine/Tap.lean ====
section
/-!
DEFINITION. The tap unit: descriptors, request slots and row descriptors, encoding, rules, deltas, adapters, the row
states, and the tap instructions (R126 to R148, R335 to R339, R425).
-/

namespace Sys2Proof.Machine

/-! ### Descriptors and blocks (R126, R127, R335) -/

def TapBlock.word (b : TapBlock) (i : Nat) : Reg := b.desc[i]?.getD 0
def TapBlock.layer (b : TapBlock) : Nat := fld (b.word 0) 48 16
def TapBlock.threshold (b : TapBlock) : Bool := fld (b.word 0) 31 1 == 1
def TapBlock.ksel (b : TapBlock) : Nat := fld (b.word 0) 24 7
def TapBlock.encH (b : TapBlock) : Nat := fld (b.word 0) 20 4
def TapBlock.decH (b : TapBlock) : Nat := fld (b.word 0) 16 4
def TapBlock.aSlot (b : TapBlock) : Nat := fld (b.word 0) 13 3
def TapBlock.theta (b : TapBlock) : Nat := fld (b.word 1) 32 32
def TapBlock.feats (b : TapBlock) : Nat := fld (b.word 1) 0 17
/-- The model width d. -/
def TapBlock.d (b : TapBlock) : Nat := b.enc.rows

/-- A descriptor or block that R127 or R335 refuses, its format slots apart. -/
def TapBlock.bad (b : TapBlock) (accRows : Nat) : Bool :=
  fld (b.word 0) 34 14 != 0 || fld (b.word 0) 0 10 != 0 || fld (b.word 1) 17 15 != 0
  || fld (b.word 5) 0 64 != 0 || fld (b.word 6) 0 64 != 0 || fld (b.word 7) 0 64 != 0
  || (if b.threshold then b.ksel != 0 || b.theta == 0 || decide (0x7F800000 ≤ b.theta) else b.ksel == 0 || decide (64 < b.ksel))
  || b.feats == 0 || decide (65536 < b.feats)
  || b.enc.cols != b.feats || b.dec.rows != b.feats || b.dec.cols != b.d
  || b.d % 256 != 0 || decide (1024 * b.nx < b.d)
  || b.rows == 0 || decide (256 < b.rows) || decide (accRows < b.accBase + b.rows * b.nx)
  || (b.adapt && b.word 4 == 0)

/-- Formats that no tap pass takes (R127). -/
def tapFmtBad (sa se sd : FmtSlot) (bank : Nat) : Bool :=
  [sa, se, sd].any (fun f => f.fmt == 0 || f.fmt == 2)
  || (sa.fmt == 8) != (se.fmt == 8) || (sa.fmt == 8) != (sd.fmt == 8)
  || (bank % 2 == 1 && (se.fmt == 1 || sd.fmt == 1))

/-- What a tap instruction finds for a row of its block (R128 to R130): its request slot, POSITION, and its rule set or
adapter, `none` for a row with nothing to do; `bad` is a row of R130. -/
structure TapPlan where
  row : Nat
  slot : Nat
  bad : Bool
  position : Nat
  index : Option Nat

/-- Read the rows' request slots. -/
def State.tapPlan (s : State) (c : Ctx) (t : Nat) (adapt : Bool) (descOff : Nat) : List Nat → Except KvStop (State × List TapPlan)
  | [] => .ok (s, [])
  | i :: rest => do
    let e := leNat (c.grp.stashBytesAt (descOff + 4 * i) 4)
    let slot := e % 4096
    let r ← if e / 4096 % 16 ≠ 0 ∨ c.lau.rcd.reqCount ≤ slot then .ok (s, { row := i, slot := slot, bad := true, position := 0, index := none : TapPlan })
      else do
        let r ← s.opRead c (c.lau.rcd.reqBase.toNat + 64 * slot) 64
        let w := leNat (r.2.take 8)
        let x := if adapt then leNat ((r.2.drop (0x20 + 4 * t)).take 4) else leNat ((r.2.drop (0x10 + 2 * t)).take 2)
        let bad := bits w 0 1 == 0 || bits w 16 9 != c.lau.func
        let none0 := if adapt then x == 0xFFFFFFFF else x == 0xFFFF
        .ok (r.1, { row := i, slot := slot, bad := bad, position := bits w 32 32
                    index := if none0 then none else some (x % 65536) })
    let q ← r.1.tapPlan c t adapt descOff rest
    .ok (q.1, r.2 :: q.2)

/-- Write a row's STATUS and ENC_COUNT (R129). -/
def Group.tapStatus (g : Group) (descOff row status count : Nat) : Group :=
  g.stashWrite (descOff + 4 * row + 2) [BitVec.ofNat 8 count, BitVec.ofNat 8 status]

/-- Bit of a block row in the masks (R132). -/
def rowBit (i : Nat) : BitVec 256 := BitVec.ofNat 256 (2 ^ i)

/-- A KIND 2 entry (R219). -/
def State.recordRow (s : State) (gid : Nat) (b : TapBlock) (row slot : Nat) (r : Reason) : State :=
  match s.groups.find gid with
  | none => s
  | some g =>
    s.append g.launch (coreOf gid)
      { reason := r, kind := 2, gang := b.gang, quads := b.quads, group := g.indexReg, pc := b.pc, tick := s.now
        d0 := BitVec.ofNat 64 (slot + row * 2 ^ 16 + b.tap * 2 ^ 24), d1 := BitVec.ofNat 64 (b.layer * 2 ^ 48) }

/-- A block whose rows are all READY completes its number (R144). -/
def State.endBlock (s : State) (gid : Nat) (b : TapBlock) : State :=
  match s.groups.find gid with
  | none => s
  | some g =>
    let mine : TapRow → Bool := fun t => t.tap == b.tap && t.number == b.number
    if g.tapRows.any (fun t => mine t && t.state != .ready) then s
    else
      (s.updGroup gid (fun g => { g with
        tapRows := g.tapRows.filter (fun t => !mine t)
        tapBlocks := g.tapBlocks.filter (fun x => !(x.tap == b.tap && x.number == b.number)) })).finishNo (.tap gid b.tap) b.number false

/-- A rule set or adapter to apply: the row waits for the tap unit. -/
def TapPlan.work (p : TapPlan) (id clk tap number : Nat) (adapt : Bool) (x : Nat) : TapRow :=
  { id := id, since := clk, tap := tap, number := number, row := p.row, slot := p.slot, adapt := adapt, state := .waiting, status := 0,
    encCount := 0, pennant := 0, position := BitVec.ofNat 32 p.position, index := x, feats := [], trunc := false, delta := [],
    unhandled := false, parked := false }

/-- Rows of a block that another instruction's work holds: TAP.ADAPT waits in the tap unit for TAP.ENC's rows of its tap
(R135, R147). -/
def Group.tapBlocked (g : Group) (b : TapBlock) : Bool :=
  let g1 : Group := if b.adapt then { g with tapRows := g.tapRows.filter (fun t => t.tap != b.tap || t.adapt) } else g
  (List.range (b.rows * b.nx)).any (fun i => g1.tapOwns (b.accBase + i))

/-- Apply R133 to a row: nothing to do, or work for the tap unit. -/
def State.tapEnter (s : State) (gid : Nat) (b : TapBlock) (p : TapPlan) : State :=
  match if p.bad then none else p.index with
  | none =>
    let s1 := s.updGroup gid (fun g =>
      { g.tapStatus b.descOff p.row (if p.bad then 5 else 0) 0 with rready := g.rready ||| rowBit p.row })
    if p.bad then s1.recordRow gid b p.row p.slot .badSlot else s1
  | some x =>
    let f := s.fresh
    f.1.updGroup gid (fun g =>
      { g with rready := g.rready &&& ~~~(rowBit p.row)
               tapRows := g.tapRows ++ [p.work f.2 (s.clkOf (coreOf gid)) b.tap b.number b.adapt x] })

/-- TAP.ENC and TAP.ADAPT (R336): the checks, the number, R133 for each row, then the rows are the tap unit's. -/
def State.tapIssue (s : State) (o : LX) (adapt : Bool) : Host.Outcome State Fault Refusal :=
  s.onCtx (fun c =>
    let t := o.x.imm.toNat % 8
    let r := c.gang.rdG o.w.a.toNat
    let bad : Reason → State := fun q => s.put (c.fault s.now q)
    if !c.gang.qpred o.w.g.toNat then s.put (c.retire 2)
    else if bits c.lau.rcd.tapMask t 1 = 0 then bad .tapConfig
    else
      match c.answer.elim (s.opRead c (c.lau.rcd.tapBase.toNat + 64 * t) 64) .error with
      | .error x => s.stopped c x
      | .ok (s1, bs) =>
        let desc := (List.range 8).map (fun i => BitVec.ofNat 64 (leNat ((bs.drop (8 * i)).take 8)))
        let b0 : TapBlock :=
          { tap := t, number := 0, gang := c.who.gang, pc := c.frag.pc, quads := c.frag.quads, dix := c.lowQuad.dix, desc := desc
            enc := Handle.zero, dec := Handle.zero, rows := fld r 32 9, accBase := fld r 20 10, descOff := fld r 0 20, adapt := adapt }
        let b : TapBlock := { b0 with enc := c.gang.handle b0.encH, dec := c.gang.handle b0.decH }
        let off := fld r 41 23 != 0 || fld r 30 2 != 0 || b.descOff % 4 != 0 || decide (c.stashBytes < b.descOff + 4 * b.rows)
        let read : Except KvStop (State × List TapPlan) :=
          if off || decide (256 < b.rows) then .ok (s1, []) else s1.tapPlan c t adapt b.descOff (List.range b.rows)
        match read with
        | .error x => s.stopped c x
        | .ok (s2, plan) =>
          let c2 := (s2.ctxOf c.who).getD c
          let sa := c.grp.slots[b.aSlot]?.getD FmtSlot.zero
          let se := c.grp.slotOf b.enc
          let sd := c.grp.slotOf b.dec
          if off || b.bad c.accRows then bad .tapConfig
          else if !sa.ok || !se.ok || !sd.ok then bad .badFormatSlot
          else if tapFmtBad sa se sd b.bank then bad .tapConfig
          else if c2.grp.tapBlocked b then s2.put (c2.stall .inUse)
          else if s2.passOver c2 b.accBase b.rows b.nx (BitVec.allOnes 256) || s2.accReads c2 b.accBase b.rows b.nx (BitVec.allOnes 256) then
            s2.put (c2.stall .inUse)
          else
            let k := (c2.grp.taps[t]?.getD Counter.zero).take
            let b1 := { b with number := k.2 }
            let g : Group := { c2.grp with taps := c2.grp.taps.setIfInBounds t k.1, tapBlocks := c2.grp.tapBlocks ++ [b1] }
            let s3 := s2.put (({ c2 with grp := g, gang := c2.gang.wrNo o.w.d k.2 } : Ctx).retire 2)
            (plan.foldl (fun s p => s.tapEnter c.who.gid b1 p) s3).endBlock c.who.gid b1)

def execTapEnc (o : LX) (s : State) : Host.Outcome State Fault Refusal := s.tapIssue o false
def execTapAdapt (o : LX) (s : State) : Host.Outcome State Fault Refusal := s.tapIssue o true

/-! ### Rows (R129, R139, R143) -/

/-- The FP32 elements of a token row. -/
def Group.tapX (g : Group) (b : TapBlock) (row : Nat) : List Word :=
  ((List.range b.nx).flatMap (fun i => g.accRow (b.accBase + row * b.nx + i))).take b.d

/-- Commit a row's elements. -/
def Group.tapCommit (g : Group) (b : TapBlock) (row : Nat) (xs : List Word) : Group :=
  (chunks 1024 b.nx xs).zipIdx.foldl (fun (g : Group) x =>
    let i := b.accBase + row * b.nx + x.2
    { g with acc := g.acc.set i (x.1 ++ (g.accRow i).drop x.1.length) }) g

/-- Change a row of a group. -/
def State.setRow (s : State) (gid : Nat) (r : TapRow) : State :=
  s.updGroup gid (fun g => { g with tapRows := g.tapRows.map (fun x => if x.id == r.id then r else x) })

/-- A row is released (R143): STATUS and ENC_COUNT, then its %rpend bit; its block completes with its last row. -/
def State.releaseRow (s : State) (gid : Nat) (b : TapBlock) (r : TapRow) (status : Nat) : State :=
  ((s.setRow gid { r with state := .ready, status := status, parked := false }).updGroup gid (fun g =>
    { g.tapStatus b.descOff r.row status r.encCount with rpend := g.rpend ||| rowBit r.row })).endBlock gid b

/-- A read of the tap unit failed (R425). -/
def State.failRow (s : State) (gid : Nat) (b : TapBlock) (r : TapRow) (e : Stop) : State :=
  match s.grpOf gid with
  | none => s
  | some (_, l) =>
    if e.1.replayable then
      (s.setRow gid { r with parked := true }).park (dieOf (coreOf gid)) l.func l.aspace e.2 .read e.1 (.tapRow gid r.id)
    else (s.recordRow gid b r.row r.slot e.1).releaseRow gid b r 10

/-! ### Conversion and tap passes (R136, R112) -/

/-- A value that passes on as a NaN. -/
def MEl.nan : MEl := { v := Val.qnan, c := 0, sm := 1, se := 0 }

/-- Values through A_SLOT into an A row (R136 step 2): `none` for a NaN under its FAULT policy. `off` is ELEM of the
first (R99). -/
def FmtSlot.tapConv (f : FmtSlot) (dix : Reg) (row off : Nat) (xs : List Val) : Option (List MEl) :=
  if f.nan = 2 && xs.any Val.isNan then none
  else
    let k : Nat → Rnd := fun j => { mode := f.round, sat := f.sat, r := if f.round = 2 then srBits f.seed dix row (off + j) else 0 }
    let ps := xs.map (fun v => (f.policy v).1)
    let el : Nat → Nat → Val → MEl := fun code j v =>
      if v.isNan || (f.block != 0 && code == 255) then MEl.nan else f.mel { code := (f.write (k j) code v).1, scale := code }
    if f.block = 0 then some (ps.mapIdx (fun j v => el 0 j v))
    else some (((chunks f.blockLen ps.length ps).mapIdx (fun b vs =>
      let code := blockCode f.fmt vs
      vs.mapIdx (fun j v => el code (b * f.blockLen + j) v))).flatten)

/-- Products of one group of K: for each column, those of its rows (R112). -/
def tapGroup (l6 : Bool) (f : FmtSlot) (nc : Nat) (rows : List (MEl × List TEl)) : List (List Val) :=
  rows.foldr (fun r acc => (r.2.zip acc).map (fun x => r.1.mul l6 (f.mel x.1) :: x.2)) (List.replicate nc [])

/-- A row of A against a tile: for each column the FP32 sum, groups of 32 in order (R112, R136). -/
def tapSum (l6 : Bool) (f : FmtSlot) (nc : Nat) (a : List MEl) (rows : List (List TEl)) : List Word :=
  (chunks 32 (a.length + 1) (a.zip rows)).foldl (fun acc g =>
    (acc.zip (tapGroup l6 f nc g)).map (fun x => accAdd false x.1 x.2)) (List.replicate nc 0)

/-- Rows of a tile of weights, whose lines enter L2 in a class; a NaN under its slot's FAULT policy ends the read in NAN_OPERAND. -/
def State.tapTile (s : State) (gid : Nat) (rd : TileRd) (h : Handle) (f : FmtSlot) (cls : Nat) :
    List Nat → Except Stop (State × List (List TEl))
  | [] => .ok (s, [])
  | r :: t =>
    match s.tileRow gid rd h f r 0 h.cols cls with
    | .error e => .error e
    | .ok (s1, x) =>
      if f.nanStop x then .error (.nanOperand, vaAt h.base ((r : Int) * sval 64 h.stride.toNat))
      else
        match s1.tapTile gid rd h f cls t with
        | .error e => .error e
        | .ok (s2, xs) => .ok (s2, x :: xs)

/-- x + d × c, rounded once; the first NaN in that order (R139). -/
def tapFma (x : Word) (d c : Val) : Word :=
  let v := decodeNum fp32 x.toNat
  BitVec.ofNat 32 (((nanOf fp32 [v, d, c]).getD (arithOut fp32 Rnd.rne ((d.mul c).bind (fun p => v.add p)))).1)

/-! ### Selection and rules (R136 to R138) -/

/-- Keep a feature among the n largest, ties to the lower index; features come in ascending order. -/
def keepTop (n : Nat) (x : Nat × Nat) (l : List (Nat × Nat)) : List (Nat × Nat) :=
  ((l.takeWhile (fun y => decide (x.2 ≤ y.2))) ++ x :: l.dropWhile (fun y => decide (x.2 ≤ y.2))).take n

/-- Insert by feature. -/
def insertFeat (x : Nat × Nat) : List (Nat × Nat) → List (Nat × Nat)
  | [] => [x]
  | y :: t => if x.1 < y.1 then x :: y :: t else y :: insertFeat x t

/-- The features that a row keeps, as (feature, FP32 bits), and whether some were cut (R136 step 5): positive FP32 bits
order as their values. -/
def TapBlock.select (b : TapBlock) (es : List Nat) : List (Nat × Nat) × Bool :=
  let ok : Nat → Bool := fun e => if b.threshold then decide (b.theta ≤ e) else decide (0 < e)
  let n := if b.threshold then 64 else b.ksel
  let q := (es.zipIdx.filter (fun x => ok x.1)).map (fun x => (x.2, x.1))
  ((q.foldl (fun l x => keepTop n x l) []).foldl (fun l x => insertFeat x l) [], b.threshold && decide (64 < q.length))

/-- A rule (R137). -/
structure Rule where
  kind : Nat
  opa : Nat
  opb : Nat
  feature : Nat

/-- The rules before END, `none` for a bad set: END itself is checked like any rule (R137). -/
def parseRules (m : Nat) (bs : List Byte) : Nat → Nat → Option (List Rule)
  | 0, _ => some []
  | n + 1, i =>
    let w0 := leNat ((bs.drop (16 * i)).take 8)
    let w1 := leNat ((bs.drop (16 * i + 8)).take 8)
    let kind := bits w1 32 4
    let r : Rule := { kind := kind, opa := bits w0 32 32, opb := bits w0 0 32, feature := bits w1 0 16 }
    let a := decodeNum fp32 r.opa
    let b := decodeNum fp32 r.opb
    if bits w1 36 28 ≠ 0 ∨ bits w1 16 16 ≠ 0 then none
    else if 5 < kind ∨ (r.opb ≠ 0 ∧ kind ≠ 4) ∨ m ≤ r.feature ∨ a.isNan ∨ b.isNan ∨ (kind = 4 ∧ a.cmp false b = 1) then none
    else if kind = 0 then some []
    else (parseRules m bs n (i + 1)).map (fun t => r :: t)

/-- Working values that rules changed, by feature. -/
abbrev Working := List (Nat × Nat)

def featVal (l : List (Nat × Nat)) (f : Nat) : Nat := ((l.find? (fun x => x.1 == f)).map Prod.snd).getD 0

/-- Apply a row's rules in order (R138): the numbers of the WATCH rules that hit, and the working values. -/
def applyRules (feats : List (Nat × Nat)) : Nat → List Rule → List Nat × Working → List Nat × Working
  | _, [], a => a
  | n, r :: t, a =>
    let e := featVal feats r.feature
    let w := ((a.2.find? (fun x => x.1 == r.feature)).map Prod.snd).getD e
    let c := (decodeNum fp32 e).cmp false (decodeNum fp32 r.opa)
    let put : Nat → Working := fun v => insertFeat (r.feature, v) (a.2.filter (fun x => x.1 != r.feature))
    let hit : Bool → List Nat × Working := fun b => (if b then a.1 ++ [n] else a.1, a.2)
    applyRules feats (n + 1) t
      (match r.kind with
       | 1 => hit (c == 1)
       | 2 => hit (c == -1)
       | 3 => hit (c == 1)
       | 4 => (a.1, put (minmaxNum fp32 false false (minmaxNum fp32 true false w r.opa).1 r.opb).1)
       | _ => (a.1, put (fadd32 w r.opa).1))

/-- The deltas of the features that rules changed (R138), those that are zero left out (R139). -/
def ruleDeltas (feats : List (Nat × Nat)) (w : Working) : List (Nat × Word) :=
  (w.map (fun x => (x.1, BitVec.ofNat 32 (subNum fp32 Rnd.rne (decodeNum fp32 x.2) (decodeNum fp32 (featVal feats x.1))).1))).filter
    (fun x => x.2.toNat % 2 ^ 31 != 0)

/-- A pennant's four words (R140). -/
def TapBlock.pennant (b : TapBlock) (r : TapRow) (gid id n : Nat) (rule : Rule) (hits : List Nat) (value : Nat) : List Reg :=
  [BitVec.ofNat 64 (r.position.toNat * 2 ^ 32 + rule.feature * 2 ^ 16 + r.slot),
   BitVec.ofNat 64 (value * 2 ^ 32 + rule.opa),
   BitVec.ofNat 64 (b.layer * 2 ^ 48 + b.tap * 2 ^ 45 + n * 2 ^ 40 + r.encCount * 2 ^ 37 + gid % Config.groupsPerCore * 2 ^ 32
     + r.row * 2 ^ 24),
   BitVec.ofNat 64 (hits.foldl (fun m k => m + 2 ^ k) 0 * 2 ^ 32 + id)]

/-! ### The handler's instructions (R141, R142, R337 to R339) -/

/-- The handler gang's launch has no other group left on the core (R142). -/
def State.aloneOn (s : State) (c : Ctx) : Bool :=
  !s.groups.any (fun g => coreOf g.1 == c.core && g.1 != c.who.gid && g.2.launch == c.grp.launch && !g.2.draining)

/-- An access of a handler to its partition by offset: alignment first, then the instruction's own checks, then the
bounds. -/
def Ctx.offFault (c : Ctx) (off : Nat) : Detail :=
  { addr := BitVec.ofNat 64 (Config.localBase + off), lanes := c.faultLanes 7 }

/-- TAP.NEXT. -/
def execTapNext (o : LR) (s : State) : Host.Outcome State Fault Refusal :=
  s.onCtx (fun c =>
    let off := (c.src.rdG o.b.toNat).toNat
    let k := s.core c.core
    let mine : Pennant → Bool := fun p => p.launch == c.grp.launch
    let none0 : State := s.put (({ c with gang := c.gang.setQ o.a.toNat false } : Ctx).retire 1)
    if !c.src.qpred o.g.toNat then s.put (c.retire 1)
    else if off % 8 ≠ 0 then s.put (c.fault s.now .misaligned (c.offFault off))
    else if !c.grp.handlerOf then s.put (c.fault s.now .tapConfig)
    else if c.stashBytes < off + 32 then s.put (c.fault s.now .paUnbacked (c.offFault off))
    else if !c.grp.handlerLive then none0
    else if 16 ≤ (k.pennants.filter (fun p => p.handling && p.holder == some c.who.gid)).length then s.put (c.fault s.now .pennantLimit)
    else
      match k.pennants.find? (fun p => mine p && !p.handling) with
      | some p =>
        let s1 := s.updCore c.core (fun k => { k with pennants := k.pennants.map (fun x => if x.id == p.id then { x with handling := true, holder := some c.who.gid } else x) })
        let s2 := s1.updGroup p.gid (fun g => { g with tapRows := g.tapRows.map (fun t =>
          if t.state == .held && t.pennant == p.id then { t with state := .handling } else t) })
        s2.put (({ c with grp := c.grp.stashWrite off (wordBytes p.words)
                          gang := (c.gang.wrG o.d.toNat (BitVec.ofNat 64 p.id)).setQ o.a.toNat true } : Ctx).retire 1)
      | none =>
        if s.aloneOn c then s.put (({ c with grp := { c.grp with handlerLive := false }, gang := c.gang.setQ o.a.toNat false } : Ctx).retire 1)
        else if c.lau.rcd.det then s.put ({ c with gang := c.gang.setQ o.a.toNat false } : Ctx).detRetry
        else s.put (c.sleep .tapNext))

/-- The row of a pennant that this handler holds in HANDLING: its group, block and row. -/
def State.handled (s : State) (c : Ctx) (id : Nat) : Option (Nat × TapBlock × TapRow) :=
  if !c.grp.handlerOf then none
  else
    match (s.core c.core).pennants.find? (fun p => p.holder == some c.who.gid && p.handling && p.id == id) with
    | none => none
    | some p =>
      match s.groups.find p.gid with
      | none => none
      | some g =>
        match g.tapRows.find? (fun t => t.state == .handling && t.pennant == id) with
        | some t => (g.blockOf t).map (fun b => (p.gid, b, t))
        | none => none

/-- The bytes of a feature record and x (R142); bytes 0x008 to 0x03F have no contents in the spec (log 83). -/
def TapRow.record (t : TapRow) (gap : List Byte) (xs : List Word) : List Byte :=
  toLE 4 t.feats.length ++ toLE 4 (if t.trunc then 1 else 0) ++ gap
  ++ (List.range 64).flatMap (fun i =>
      match t.feats[i]? with
      | some f => toLE 8 (f.2.toNat * 2 ^ 32 + f.1)
      | none => toLE 8 0)
  ++ xs.flatMap (fun x => toLE 4 x.toNat)

/-- TAP.READ. -/
def execTapRead (o : LR) (s : State) : Host.Outcome State Fault Refusal :=
  s.onCtx (fun c =>
    let off := (c.gang.rdG o.b.toNat).toNat
    if !c.gang.qpred o.g.toNat then s.put (c.retire 1)
    else if off % 8 ≠ 0 then s.put (c.fault s.now .misaligned (c.offFault off))
    else
      match s.handled c (c.gang.rdG o.a.toNat).toNat with
      | none => s.put (c.fault s.now .badPennant)
      | some (gid, b, t) =>
        if c.stashBytes < off + 0x240 + 4 * b.d then s.put (c.fault s.now .paUnbacked (c.offFault off))
        else
          let xs := ((s.groups.find gid).map (fun g => g.tapX b t.row)).getD []
          let h := s.hostBytes 56
          h.1.put (({ c with grp := c.grp.stashWrite off (t.record h.2 xs) } : Ctx).retire 1))

/-- The pennant of a row leaves the core. -/
def State.dropPennant (s : State) (core id : Nat) : State :=
  s.updCore core (fun k => { k with pennants := k.pennants.filter (fun p => p.id != id) })

/-- TAP.RESUME: what becomes of the row (R143). -/
def State.tapResume (s : State) (o : LX) (f : State → Nat → TapBlock → TapRow → Ctx → State) (elems : Bool) :
    Host.Outcome State Fault Refusal :=
  s.onCtx (fun c =>
    let off := (c.gang.rdG o.w.b.toNat).toNat
    let id := (c.gang.rdG o.w.a.toNat).toNat
    if !c.gang.qpred o.w.g.toNat then s.put (c.retire 2)
    else if elems && off % 4 != 0 then s.put (c.fault s.now .misaligned (c.offFault off))
    else
      match s.handled c id with
      | none => s.put (c.fault s.now .badPennant)
      | some (gid, b, t) =>
        if elems && decide (c.stashBytes < off + 4 * b.d) then s.put (c.fault s.now .paUnbacked (c.offFault off))
        else f ((s.put (c.retire 2)).dropPennant c.core id) gid b t c)

def execTapResumeApply (o : LX) (s : State) : Host.Outcome State Fault Refusal :=
  s.tapResume o (fun s gid _ t _ => s.setRow gid { t with state := .applying }) false

def execTapResumeSkip (o : LX) (s : State) : Host.Outcome State Fault Refusal :=
  s.tapResume o (fun s gid b t _ => s.releaseRow gid b t 2) false

/-- REWRITTEN: the handler's elements replace x; the row is encoded again, or released after four. -/
def execTapResumeRewritten (o : LX) (s : State) : Host.Outcome State Fault Refusal :=
  s.tapResume o (fun s gid b t c =>
    let off := (c.gang.rdG o.w.b.toNat).toNat
    let xs := (List.range b.d).map (fun j => BitVec.ofNat 32 (leNat (c.grp.stashBytesAt (off + 4 * j) 4)))
    let s1 := s.updGroup gid (fun g => g.tapCommit b t.row xs)
    if t.encCount < 4 then s1.setRow gid { t with state := .encoding, encCount := t.encCount + 1 }
    else (s1.recordRow gid b t.row t.slot .rewriteLimit).releaseRow gid b t 3) true

end Sys2Proof.Machine
end

