-- ==== Sys2Proof/Machine/EvTap.lean ====
section
/-!
DEFINITION. The steps of the tap unit (R136 to R139, R141, R146, R147, R425). Each takes one row and does its work in
one step.
-/

namespace Sys2Proof.Machine

/-- The array and TAP_BANK are free for tap-class work of a row, and no pass that may be granted goes before it (R108,
R118). -/
def State.tapTurn (s : State) (core : Nat) (b : TapBlock) (r : TapRow) (fs : List FmtSlot) : Bool :=
  s.arrayIdle core && s.slotFree core && s.tapFree core b fs &&
    !(s.core core).rsvs.any (fun e => s.passTurn core e && s.holdOk core e && goesFirst (e.cls, e.id) (r.cls (s.clkOf core), r.id))

/-- The row that the tap unit's entry of the reservation table stands for, of TAP.ENC or of TAP.ADAPT; it needs a place
there (R117). -/
def State.nextRow (s : State) (core : Nat) (adapt : Bool) : Option (Nat × TapBlock × TapRow) :=
  if (s.core core).entries < Config.reservations then (s.tapPost core).filter (fun x => x.2.2.adapt == adapt) else none

/-- TAP_BANK holds the tap unit's tiles: no main pass finds its own there. -/
def State.tapUntag (s : State) (core : Nat) (f : FmtSlot) (b : TapBlock) : State := s.updCore core (fun k => k.untag f b.bank)

/-- The encoded values of a row (R136 steps 3 and 4): `none` for a NaN. -/
def State.tapEncoded (s : State) (gid : Nat) (b : TapBlock) (se : FmtSlot) (l6 : Bool) (a : List MEl) :
    Except Stop (State × Option (List Nat)) :=
  match s.tapTile gid (b.enc.plain gid) b.enc se 0 (List.range b.d) with
  | .error e => .error e
  | .ok (s1, rows) =>
    match s1.grpRead gid (b.word 2).toNat (4 * b.feats) with
    | .error e => .error e
    | .ok (s2, bs) =>
      let bias := (chunks 4 b.feats bs).map leNat
      let pre := ((tapSum l6 se b.feats a rows).zip bias).map (fun x => (fadd32 x.1.toNat x.2).1)
      .ok (s2, if pre.any (fun p => (decodeNum fp32 p).isNan) then none
        else some (pre.map (fun p => if 0 < p ∧ p < 2 ^ 31 then p else 0)))

/-- What follows the rules of a row: it applies its deltas, or it is held with a pennant (R139, R141). -/
def State.tapRuled (s : State) (gid : Nat) (b : TapBlock) (r : TapRow) (es : List Nat) (rules : List Rule) : State :=
  match s.grpOf gid with
  | none => s
  | some (g, l) =>
    let core := coreOf gid
    let sel := b.select es
    let res := applyRules sel.1 0 rules ([], [])
    let r1 : TapRow := { r with feats := sel.1.map (fun x => (x.1, BitVec.ofNat 32 x.2)), trunc := sel.2, delta := ruleDeltas sel.1 res.2
                                unhandled := false, parked := false }
    match res.1.head?.bind (fun n => (rules[n]?).map (fun q => (n, q))) with
    | none => s.setRow gid { r1 with state := .applying }
    | some (n, q) =>
      if l.rcd.tapEntry = 0 then (s.setRow gid { r1 with state := .applying, unhandled := true }).recordRow gid b r.row r.slot .unhandled
      else
        let n0 := (s.core core).nextPennant
        let id := (core * 2 ^ 25 + n0) % 2 ^ 32
        let p : Pennant := { id := id, gid := gid, row := r.row, handling := false, launch := g.launch
                             words := b.pennant r1 gid id n q res.1 (featVal sel.1 q.feature), holder := none }
        ((s.setRow gid { r1 with state := .held, pennant := id }).updCore core (fun k =>
          { k with pennants := k.pennants ++ [p], nextPennant := (n0 + 1) % 2 ^ 32 })).trace l.func core 7 b.tap id

/-- TAP_ENCODE_ROW (R136 to R138). -/
def State.evTapEncodeRow (s : State) (core : Nat) : Option State :=
  match s.nextRow core false with
  | none => none
  | some (gid, b, r) =>
    match s.groups.find gid with
    | none => none
    | some g =>
      let sa := g.slots[b.aSlot]?.getD FmtSlot.zero
      let se := g.slotOf b.enc
      let l6 := sa.fmt == 8
      if !s.tapTurn core b r [se] then none
      else
        let r := { r with state := .encoding }
        match s.grpRead gid ((b.word 3).toNat + 512 * r.index) 512 with
        | .error e => some (s.failRow gid b r e)
        | .ok (s1, bs) =>
          match parseRules b.feats bs 32 0 with
          | none => some ((s1.recordRow gid b r.row r.slot .badRule).releaseRow gid b r 6)
          | some rules =>
            match sa.tapConv b.dix r.row 0 ((g.tapX b r.row).map (fun x => decodeNum fp32 x.toNat)) with
            | none => some ((s1.recordRow gid b r.row r.slot .nanOperand).releaseRow gid b r 4)
            | some a =>
              match s1.tapEncoded gid b se l6 a with
              | .error e => some ((s1.tapUntag core se b).failRow gid b r e)
              | .ok (s2, none) => some (((s2.tapUntag core se b).recordRow gid b r.row r.slot .nanFeature).releaseRow gid b r 4)
              | .ok (s2, some es) => some ((s2.tapUntag core se b).tapRuled gid b r es rules)

/-- The row of a group by its number. -/
def State.tapRowAt (s : State) (gid i : Nat) : Option (Group × TapBlock × TapRow) :=
  match s.groups.find gid with
  | none => none
  | some g => (g.tapRows.find? (fun t => t.id == i)).bind (fun t => (g.blockOf t).map (fun b => (g, b, t)))

/-- TAP_COMMIT (R139): the deltas go into x in one commit, and the row is released. -/
def State.evTapCommit (s : State) (gid i : Nat) : Option State :=
  match s.tapRowAt gid i with
  | none => none
  | some (g, b, r) =>
    let sd := g.slotOf b.dec
    let core := coreOf gid
    let done := if r.unhandled then 7 else if r.delta.isEmpty then 0 else 1
    if r.state != .applying || r.parked || g.saving then none
    else if r.delta.isEmpty then some (s.releaseRow gid b r done)
    else if !s.tapTurn core b r [sd] then none
    else
      match s.tapTile gid (b.dec.plain gid) b.dec sd 0 (r.delta.map Prod.fst) with
      | .error e => some ((s.tapUntag core sd b).failRow gid b r e)
      | .ok (s1, rows) =>
        let x := (r.delta.zip rows).foldl (fun xs d =>
          (xs.zip d.2).map (fun y => tapFma y.1 (decodeNum fp32 d.1.2.toNat) (sd.mel y.2).v)) (g.tapX b r.row)
        some (((s1.tapUntag core sd b).updGroup gid (fun g => g.tapCommit b r.row x)).releaseRow gid b r done)

/-! ### Adapters (R146 to R148) -/

/-- A projection as a tile: its rows follow one another at whole bytes (log 19). -/
def adaptTile (va rows cols slot bits : Nat) : Handle :=
  { base := BitVec.ofNat 64 va, dims := BitVec.ofNat 64 (rows * 2 ^ 20 + cols), stride := BitVec.ofNat 64 ((cols * bits + 7) / 8)
    genSlot := BitVec.ofNat 64 slot }

/-- A row's new x (R147), its weights and scales read in the function's ADAPT ways (R148): the down pass, its sums through A_SLOT, the up pass, and the scaled addition; `none` for a NaN
under A_SLOT's FAULT policy. -/
def State.adapted (s : State) (gid : Nat) (g : Group) (b : TapBlock) (r : TapRow) (sa : FmtSlot) (down up alpha slot rank : Nat) :
    Except Stop (State × Option (List Word)) :=
  let f := g.slots[slot]?.getD FmtSlot.zero
  let l6 := sa.fmt == 8
  let x := g.tapX b r.row
  let rd : Handle → TileRd := fun h s off n => s.grpRead gid (vaAt h.base off) n 2
  let hd := adaptTile down b.d rank slot f.bits
  let hu := adaptTile up rank b.d slot f.bits
  match sa.tapConv b.dix r.row 0 (x.map (fun v => decodeNum fp32 v.toNat)) with
  | none => .ok (s, none)
  | some a =>
    match s.tapTile gid (rd hd) hd f 2 (List.range b.d) with
    | .error e => .error e
    | .ok (s1, rows) =>
      match sa.tapConv b.dix r.row 65536 ((tapSum l6 f rank a rows).map (fun v => decodeNum fp32 v.toNat)) with
      | none => .ok (s1, none)
      | some h =>
        match s1.tapTile gid (rd hu) hu f 2 (List.range rank) with
        | .error e => .error e
        | .ok (s2, rows) =>
          let z := tapSum l6 f b.d h rows
          .ok (s2, some ((x.zip z).map (fun y => tapFma y.1 (decodeNum fp32 alpha) (decodeNum fp32 y.2.toNat))))

/-- TAP_ADAPT_ROW (R147). -/
def State.evTapAdaptRow (s : State) (core : Nat) : Option State :=
  match s.nextRow core true with
  | none => none
  | some (gid, b, r) =>
    match s.groups.find gid with
    | none => none
    | some g =>
      let sa := g.slots[b.aSlot]?.getD FmtSlot.zero
      let r := { r with state := .encoding }
      let bad : State → Reason → Nat → State := fun s q status => (s.recordRow gid b r.row r.slot q).releaseRow gid b r status
      if !s.tapTurn core b r [FmtSlot.zero] then none
      else
        match s.grpRead gid ((b.word 4).toNat + 32 * r.index) 32 2 with
        | .error e => some (s.failRow gid b r e)
        | .ok (s1, bs) =>
          let w : Nat → Nat := fun i => leNat ((bs.drop (8 * i)).take 8)
          let rank := bits (w 2) 0 7
          let slot := bits (w 2) 8 3
          let f := g.slots[slot]?.getD FmtSlot.zero
          if rank = 0 ∨ 64 < rank ∨ bits (w 2) 11 21 ≠ 0 ∨ bits (w 2) 7 1 ≠ 0 ∨ w 3 ≠ 0 ∨ !f.ok ∨ f.fmt = 0 ∨ f.fmt = 2
              ∨ (f.fmt = 1 ∧ b.bank % 2 = 1) ∨ (sa.fmt == 8) ≠ (f.fmt == 8) then some (bad s1 .badAdapter 8)
          else
            match s1.adapted gid g b r sa (w 0) (w 1) (bits (w 2) 32 32) slot rank with
            | .error e => some ((s1.tapUntag core f b).failRow gid b r e)
            | .ok (s2, none) => some (bad (s2.tapUntag core f b) .nanOperand 4)
            | .ok (s2, some x) => some (((s2.tapUntag core f b).updGroup gid (fun g => g.tapCommit b r.row x)).releaseRow gid b r 9)

def execTapEncodeRow (core : Nat) (s : State) := s.unitStep (s.evTapEncodeRow core)
def execTapCommit (gid i : Nat) (s : State) := s.unitStep (s.evTapCommit gid i)
def execTapAdaptRow (core : Nat) (s : State) := s.unitStep (s.evTapAdaptRow core)

end Sys2Proof.Machine
end

