-- ==== Sys2Proof/Machine/GainQ.lean ====
section
/-!
DEFINITION. The gain-queue pools: opening, closing and their operations (R160, R209 to R214, R340, R341).
-/

namespace Sys2Proof.Machine

/-! ### Tasks and the residual (R210, R211) -/

def Task.zero : Task := { gain := 0, pending := 0, runs := 0, state := 0 }
def Pool.task (p : Pool) (i : Nat) : Task := p.tasks[i]?.getD Task.zero
def Pool.setTask (p : Pool) (i : Nat) (t : Task) : Pool := { p with tasks := listSet p.tasks i t }

/-- |x| of a finite FP32 in units of 2^-149. -/
def mag149 (x : Nat) : Nat :=
  match decodeNum fp32 x with
  | .fin _ m e => m * 2 ^ (e + 149).toNat
  | _ => 0

def Pool.residual (p : Pool) : Nat := p.tasks.foldl (fun n t => n + mag149 t.gain.toNat + mag149 t.pending.toNat) 0
/-- The residual is below TOLERANCE: an open pool is paused. -/
def Pool.low (p : Pool) : Bool := decide (p.residual < mag149 p.tolerance.toNat)

/-- |x| ≥ THRESHOLD. -/
def Pool.above (p : Pool) (x : Word) : Bool := decide (p.threshold.toNat ≤ x.toNat % 2 ^ 31)

/-- The QUEUED task of largest |GAIN|, ties to the lower index (R212). -/
def Pool.best (p : Pool) : Option (Nat × Task) :=
  (p.tasks.zipIdx).foldl (fun b x =>
    if x.1.state != 1 then b
    else
      match b with
      | some y => if y.2.gain.toNat % 2 ^ 31 < x.1.gain.toNat % 2 ^ 31 then some (x.2, x.1) else b
      | none => some (x.2, x.1)) none

/-- Pop a task (R212): the pool, the index and the gain. -/
def Pool.pop (p : Pool) : Option (Pool × Nat × Word) :=
  if p.low then none
  else p.best.map (fun x =>
    (p.setTask x.1 { gain := 0, pending := 0, runs := min (x.2.runs + 1) 0xFFFFFFFF, state := 2 }, x.1, x.2.gain))

/-- An operand that R213 refuses. -/
def gqOperand (v : Word) : Option Reason :=
  match decodeNum fp32 v.toNat with
  | .nan _ _ _ => some .gqNan
  | .inf _ => some .gqRange
  | .fin _ _ _ => none

/-- GQ.ADD or GQ.MAX at its serialisation point (R212, R213, R214): whether it was applied. -/
def Pool.update (p : Pool) (max : Bool) (i : Nat) (v : Word) : Except Reason (Pool × Bool) :=
  if p.state ≠ 1 then .ok (p, false)
  else
    let t := p.task i
    let old := if t.state = 2 then t.pending else t.gain
    let new : Word := BitVec.ofNat 32 (if max then (minmaxNum fp32 true false old.toNat v.toNat).1 else (fadd32 old.toNat v.toNat).1)
    match gqOperand new with
    | some r => .error r
    | none =>
      if t.state = 2 then .ok (p.setTask i { t with pending := new }, true)
      else .ok (p.setTask i { t with gain := new, state := if t.state = 1 ∨ p.above new then 1 else t.state }, true)

/-- GQ.INS. -/
def Pool.insert (p : Pool) (i : Nat) (v : Word) : Pool × Bool :=
  let t := p.task i
  if p.state ≠ 1 ∨ t.state = 2 then (p, false) else (p.setTask i { t with gain := v, state := 1 }, true)

/-- GQ.DONE: a CLOSED pool does not requeue, and the predicate is false. -/
def Pool.finish (p : Pool) (i : Nat) : Except Reason (Pool × Bool) :=
  let t := p.task i
  if t.state ≠ 2 then .error .gqState
  else .ok (p.setTask i { t with gain := t.pending, pending := 0, state := if p.state = 1 ∧ p.above t.pending then 1 else 3 }, p.state == 1)

/-! ### Closing and opening (R210, R211, R214) -/

/-- A task table entry's bytes (R210). -/
def Task.bytes (t : Task) : List Byte := toLE 8 (t.gain.toNat * 2 ^ 32 + t.pending.toNat) ++ toLE 8 (t.runs * 256 + t.state)

/-- Write entries back to the task table from an index on; a store that fails translation is lost (log 18). -/
def State.gqWriteBack (s : State) (k i : Nat) (ts : List Task) : State :=
  let p := s.pool k
  match s.unitStore p.owner p.aspace none (p.base.toNat + 16 * i) (ts.flatMap Task.bytes) with
  | .ok r => r.1
  | .error _ => s

/-- Close a pool: queued tasks are abandoned, the table is written back, and sleeping pops return. -/
def State.gqClose (s : State) (k reason : Nat) : State :=
  let p := s.pool k
  let ts := p.tasks.map (fun t => if t.state = 1 then { t with state := 4 } else t)
  let s1 := s.setPool k { p with state := 2, closeReason := reason, tasks := ts, sleepers := [] }
  p.sleepers.foldl (fun s w => s.wake w (some .closed)) (s1.gqWriteBack k 0 ts)

/-- Serve sleeping pops in arrival order while a task can be returned (R212). -/
def State.gqServe (k : Nat) : Nat → State → State
  | 0, s => s
  | n + 1, s =>
    let p := s.pool k
    match p.sleepers, p.pop with
    | w :: t, some r => State.gqServe k n ((s.setPool k { r.1 with sleepers := t }).wake w (some (.popped r.2.1 r.2.2)))
    | _, _ => s

/-- What follows an operation of an open pool (R211, R212). -/
def State.gqSettle (s : State) (k : Nat) : State :=
  let p := s.pool k
  let running := p.tasks.any (fun t => t.state == 2)
  if p.state ≠ 1 then s
  else if p.low && !running then s.gqClose k 1
  else if !running && !p.tasks.any (fun t => t.state == 1) then s.gqClose k 2
  else State.gqServe k p.sleepers.length s

/-- A positive finite FP32 (R209). -/
def posFin (x : Nat) : Bool := decide (0 < x) && decide (x < 0x7F800000)

/-- The entries of a task table, `none` where one is refused (R210). -/
def parseTasks (bs : List Byte) : Nat → Nat → Option (List Task)
  | 0, _ => some []
  | n + 1, i =>
    let w0 := leNat ((bs.drop (16 * i)).take 8)
    let w1 := leNat ((bs.drop (16 * i + 8)).take 8)
    let g : Word := BitVec.ofNat 32 (bits w0 32 32)
    if 1 < bits w1 0 3 ∨ bits w0 0 32 ≠ 0 ∨ bits w1 40 24 ≠ 0 ∨ bits w1 3 5 ≠ 0 ∨ (gqOperand g).isSome then none
    else (parseTasks bs n (i + 1)).map (fun t => { gain := g, pending := 0, runs := bits w1 8 32, state := bits w1 0 3 } :: t)

/-- OPEN by the owner (R209, R210). -/
def State.gqOpen (s : State) (k : Nat) : State :=
  let p := s.pool k
  let bad := s.setPool k { p with err := true }
  if p.state = 1 then bad
  else if p.ntasks = 0 ∨ 2 ^ 20 < p.ntasks ∨ p.base.toNat % 16 ≠ 0 ∨ p.spill.toNat % 16 ≠ 0 ∨ 2 ^ 38 < p.spill.toNat + 16 * p.ntasks
      ∨ !posFin p.tolerance.toNat ∨ !posFin p.threshold.toNat then bad
  else
    match s.unitLoad p.owner p.aspace p.base.toNat (16 * p.ntasks) .read with
    | .error _ => bad
    | .ok (s1, bs) =>
      match parseTasks bs p.ntasks 0 with
      | none => bad
      | some ts =>
        (s1.setPool k { p with tasks := ts, err := false, state := 1, closeReason := 0 }).gqSettle k

/-- A register bit of GQP_CTL acts only for the owning function (R209). -/
def State.gqOwned (s : State) (func k : Nat) : Bool := (s.pool k).owner == func && (s.pool k).owner != 0x1FF

def State.evGqPoolOpen (s : State) (func k : Nat) : State := if k < 16 ∧ s.gqOwned func k then s.gqOpen k else s
def State.evGqPoolClose (s : State) (func k : Nat) : State :=
  if k < 16 ∧ s.gqOwned func k ∧ (s.pool k).state = 1 then s.gqClose k 3 else s

/-! ### Instructions (R340, R341) -/

/-- The checks of R213 in its order (R216): a value operand, the task index, the pool. -/
def State.gqCheck (s : State) (c : Ctx) (k : Nat) (task : Option Nat) (v : Option Word) : Option Reason :=
  let p := s.pool k
  match v.bind gqOperand with
  | some r => some r
  | none =>
    if (task.map (fun i => decide (p.ntasks ≤ i))).getD false then some .gqRange
    else if p.owner ≠ c.lau.func ∨ p.state = 0 then some .gqPool
    else none

/-- Pool number and task of an instruction word. -/
def poolOf (o : LX) : Nat := o.x.imm.toNat % 16
def Ctx.taskOf (c : Ctx) (o : LX) : Nat := (c.src.rdG o.w.a.toNat).toNat
def Ctx.valueOf (c : Ctx) (o : LX) : Word := (c.src.rdG o.w.b.toNat).setWidth 32

/-- An operation at its serialisation point: its predicate, then what follows in the pool; or its fault. -/
def State.gqDo (s : State) (c : Ctx) (o : LX) (r : Except Reason (Pool × Bool)) : State :=
  match r with
  | .error q => s.put (c.fault s.now q)
  | .ok (p, b) => ((s.setPool (poolOf o) p).put (({ c with gang := c.gang.setQ o.w.d.toNat b } : Ctx).retire 2)).gqSettle (poolOf o)

/-- GQ.INS. -/
def execGqIns (o : LX) (s : State) : Host.Outcome State Fault Refusal :=
  s.onCtx (fun c =>
    let i := c.taskOf o
    let v := c.valueOf o
    if !c.gang.qpred o.w.g.toNat then s.put (c.retire 2)
    else
      match s.gqCheck c (poolOf o) (some i) (some v) with
      | some r => s.put (c.fault s.now r)
      | none => s.gqDo c o (.ok ((s.pool (poolOf o)).insert i v)))

/-- GQ.DONE; on a CLOSED pool the entry is written back. -/
def execGqDone (o : LX) (s : State) : Host.Outcome State Fault Refusal :=
  s.onCtx (fun c =>
    let i := c.taskOf o
    let k := poolOf o
    if !c.gang.qpred o.w.g.toNat then s.put (c.retire 2)
    else
      match s.gqCheck c k (some i) none with
      | some r => s.put (c.fault s.now r)
      | none =>
        let r := (s.pool k).finish i
        let s1 := s.gqDo c o r
        if (s.pool k).state = 2 ∧ r.isOk then s1.gqWriteBack k i [(s1.pool k).task i] else s1)

/-- GQ.ADD and GQ.MAX (R160, R340): a release; the update is applied at once, or held for its marker and its place
among the gang's updates. -/
def State.gqUpdate (s0 : State) (o : LX) (max : Bool) : Host.Outcome State Fault Refusal :=
  s0.onCtx (fun c0 =>
    if !c0.src.qpred o.w.g.toNat then s0.put (c0.retire 2)
    else
      match c0.frag.grant with
      | some (.pred b) => s0.put (({ c0 with gang := c0.gang.setQ o.w.d.toNat b } : Ctx).retire 2)
      | _ =>
        let k := poolOf o
        let s := s0.writebackAll c0.who.gid
        let c := (s.ctxOf c0.who).getD c0
        let i := c.taskOf o
        let v := c.valueOf o
        match s.gqCheck c k (some i) (some v) with
        | some r => s.put (c.fault s.now r)
        | none =>
          let p := s.pool k
          if s.unsettled c.who.gid c.who.gang then s.put (c.linger .settle)
          else if s.now < c.gang.wct ∨ p.held.any (fun u => u.who.gid == c.who.gid && u.who.gang == c.who.gang) then
            (s.setPool k { p with held := p.held ++ [{ who := c.who, task := i, value := v, max := max, marker := c.gang.wct }] }).put
              (c.linger (.gqHeld k))
          else s.gqDo c o (p.update max i v))

def execGqAdd (o : LX) (s : State) : Host.Outcome State Fault Refusal := s.gqUpdate o false
def execGqMax (o : LX) (s : State) : Host.Outcome State Fault Refusal := s.gqUpdate o true

/-- GQ_UPDATE_APPLY (R160): a held update takes its place; its fragment goes on with its answer. -/
def State.evGqUpdateApply (s : State) (k i : Nat) : Option State :=
  let p := s.pool k
  match p.held[i]? with
  | none => none
  | some u =>
    if s.now < u.marker || (p.held.take i).any (fun x => x.who.gid == u.who.gid && x.who.gang == u.who.gang) then none
    else
      let p1 := { p with held := p.held.eraseIdx i }
      match s.ctxOf u.who with
      | none => some (s.setPool k p1)
      | some c =>
        match s.gqCheck c k (some u.task) (some u.value) with
        | some r => some ((s.setPool k p1).put (c.fault s.now r))
        | none =>
          match p1.update u.max u.task u.value with
          | .error r => some ((s.setPool k p1).put (c.fault s.now r))
          | .ok (p2, b) => some (((s.setPool k p2).wake u.who (some (.pred b))).gqSettle k)

/-- GQ.POP. -/
def execGqPop (o : LX) (s : State) : Host.Outcome State Fault Refusal :=
  s.onCtx (fun c =>
    let k := poolOf o
    let p := s.pool k
    let give : Nat → Word → Ctx := fun i g =>
      (({ c with gang := ((c.gang.wrG o.w.a.toNat (BitVec.ofNat 64 i)).wrG o.w.b.toNat (g.setWidth 64)).setQ o.w.d.toNat true } : Ctx).enter s 0).retire 2
    let no : State := s.put ((({ c with gang := c.gang.setQ o.w.d.toNat false } : Ctx).enter s 0).retire 2)
    if !c.src.qpred o.w.g.toNat then s.put (c.retire 2)
    else if c.skipped then s.put ((c.enter s 0).retire 2)
    else
      match c.frag.grant with
      | some (.popped i g) => s.put (give i g)
      | some .closed => no
      | _ =>
        match s.gqCheck c k none none with
        | some r => s.put (c.fault s.now r)
        | none =>
          if p.state = 2 then no
          else
            match p.pop with
            | some r => ((s.setPool k r.1).put (give r.2.1 r.2.2)).gqSettle k
            | none =>
              if c.lau.rcd.det then s.put ({ c with gang := c.gang.setQ o.w.d.toNat false } : Ctx).detRetry
              else (s.setPool k { p with sleepers := p.sleepers ++ [c.who] }).put (c.sleep (.gqPop k)))

/-- GQ.READ. -/
def execGqRead (o : LR) (s : State) : Host.Outcome State Fault Refusal :=
  s.runU o.g 1 (fun c =>
    let a := c.gang.rdG o.a.toNat
    let k := fld a 60 4
    let i := fld a 0 20
    if fld a 20 40 ≠ 0 then .bad .gqRange {}
    else
      match s.gqCheck c k (some i) none with
      | some r => .bad r {}
      | none =>
        let t := (s.pool k).task i
        let w0 : Reg := BitVec.ofNat 64 (t.gain.toNat * 2 ^ 32 + t.pending.toNat)
        let w1 : Reg := BitVec.ofNat 64 (t.runs * 2 ^ 32 + t.state)
        .ok { c with gang := (c.gang.wrG o.d.toNat w0).wrG (o.d.toNat + 1) w1 })

/-- GQ.RESID: the residual rounded toward zero. -/
def execGqResid (o : LR) (s : State) : Host.Outcome State Fault Refusal :=
  s.runU o.g 1 (fun c =>
    let x := c.gang.rdG o.d.toNat
    let k := fld x 0 4
    if fld x 4 60 ≠ 0 then .bad .gqRange {}
    else
      match s.gqCheck c k none none with
      | some r => .bad r {}
      | none =>
        let p := s.pool k
        let v := (encodeNum fp32 { mode := 1, sat := false, r := 0 } (.fin false p.residual (-149))).1
        .ok { c with gang := (c.gang.wrG o.d.toNat (BitVec.ofNat 64 v)).setQ o.a.toNat p.low })

def execGqUpdateApply (pool i : Nat) (s : State) := s.unitStep (s.evGqUpdateApply pool i)
def execGqPoolOpen (func k : Nat) (s : State) := s.unitStep (some (s.evGqPoolOpen func k))
def execGqPoolClose (func k : Nat) (s : State) := s.unitStep (some (s.evGqPoolClose func k))

end Sys2Proof.Machine
end

