-- ==== Sys2Proof/Machine/Issue.lean ====
section
/-!
DEFINITION. Issue (R203, R204), deterministic turns (R205 to R208), the waits that end by themselves, what happens
before and after an instruction (R165, R176, R189, R252, R406, R409), the split table's refills (R172) and the
profile counters (R416, R417).
-/

namespace Sys2Proof.Machine

/-! ### Waits (R171, R176) -/

/-- The registers that a part of a load or atomic has still to write (R176). -/
def Req.dests (r : Req) (p : ReqPart) : List Nat :=
  let pick : Bool → List Nat := fun wide =>
    if p.lane = 64 then [p.dst] else if wide then [p.dst + p.off / 4, p.dst + p.off / 4 + 1] else [p.dst]
  match r.kind with
  | .load size _ _ => pick (decide (8 ≤ size))
  | .atomic _ ty _ _ => pick (tyBytes ty == 8)
  | _ => []

/-- The metadata register of a sparse pass, which is held until it retires (R320). -/
def Rsv.heldReg (r : Rsv) : Option Nat := if r.sparse then some (bits r.words.2.toNat 25 7) else none

/-- The registers that an instruction has to find free (R176): those it names and, counted from 128 on, the lane
registers that it writes; `wd` is its first word. -/
def scoreRegs (i : Instr) (ext : List Nat) : List Nat :=
  i.regsNamed ++ ext ++ (((i.fields.take 1).flatMap (fun f => f.1.regs f.2)).filter (fun r => decide (r < 96))).map (fun r => r + 128)

/-- A register is in flight: a lane register in a lane of the fragment, a uniform one anywhere in the gang; a lane
register to be written (128 on) that a pass of those lanes holds (R320). -/
def State.regsBusy (s : State) (c : Ctx) (rs : List Nat) : Bool :=
  s.reqs.any (fun r => r.parts.any (fun p => p.ofGang c.who.gid c.who.gang &&
    (p.lane == 64 || c.frag.quads.contains (p.lane / 4)) && (r.dests p).any (fun x => rs.contains x)))
  || (s.core c.core).rsvs.any (fun r => r.who.gid == c.who.gid && r.who.gang == c.who.gang &&
    r.quads.any (fun q => c.frag.quads.contains q) && (r.heldReg.map (fun v => rs.contains (v + 128))).getD false)

/-- An ownership request of the fragment is on its way (R44). -/
def State.ownOut (s : State) (c : Ctx) : Bool :=
  s.reqs.any (fun r => r.who == some c.who && (match r.kind with | .own _ _ => true | _ => false))

/-- An atomic of the gang with .ACQ has not returned (R155). -/
def State.acqOut (s : State) (c : Ctx) : Bool :=
  s.reqs.any (fun r => r.ofGang c.who.gid c.who.gang && (match r.kind with | .atomic _ _ _ acq => acq | _ => false))

/-- TAP.NEXT has something to return (R142). -/
def State.tapNextReady (s : State) (c : Ctx) : Bool :=
  !c.grp.handlerLive || s.aloneOn c || (s.core c.core).pennants.any (fun p => p.launch == c.grp.launch && !p.handling)

/-- A wait that has ended. The waits that are not named here end by an event, which makes the fragment
eligible (log 78). -/
def State.waitOver (s : State) (c : Ctx) (w : Wait) : Bool :=
  let g := c.who.gid
  let k := c.who.gang
  match w with
  | .scoreboard rs => !s.regsBusy c rs
  | .memLimit => !s.memFull c
  | .ownership => !s.ownOut c
  | .acquire => !s.acqOut c
  | .fenceW => !(s.loadsOut g k || s.unsettled g k)
  | .fenceL => !(s.loadsOut g k || c.otherMonitors)
  | .stash => !s.stashOut g k
  | .settle => !s.unsettled g k
  | .batch 0 => decide ((s.openBatches c.gang).length < 8)
  | .batch n => !s.batchWaits c.gang n
  | .timeline (some x) n => decide (n ≤ (s.counter x).count)
  | .timeline none _ => s.depComplete c.lau
  | .missFull => decide ((s.missesOf c.core).length < 64)
  | .older => !c.olderWaits
  | .ownStore l => !s.ownWrite g k l
  | .until t => decide (t ≤ s.now)
  | .engineFull _ _ _ => decide ((s.core c.core).waitingCmds < Config.engineQueue)
  | .matrix => decide (s.tableUse c.core < Config.reservations)
  | .inUse => true
  | .tapNext => s.tapNextReady c
  | .hwait t =>
    match (s.core c.core).tokenSlot t with
    | some i => ((s.core c.core).res i).state != 1 || ((s.core c.core).res i).revoked
    | none => true
  | .codeLoad => match s.fetchAt c with | .wait .codeLoad => false | _ => true
  | .dictLoad => c.grp.dictReady
  | _ => false

/-- Another fragment of the gang holds its issue: in a fence, or behind an atomic with .ACQ (R153 to R155). -/
def Ctx.held (c : Ctx) : Bool :=
  c.gang.frags.any (fun f => f.id != c.frag.id &&
    (match f.state with
     | .stalled .fenceW | .stalled .fenceL | .stalled (.wct _ true) | .stalled .acquire => true
     | _ => false))

/-- Under focus only one fragment is eligible, until focus ends (R408, R409). -/
def Ctx.inFocus (c : Ctx) : Bool :=
  match c.grp.focus with
  | none => true
  | some f => f.ended == 0 && f.gang == c.who.gang && f.frag == c.who.frag

/-- A core that issues: its logical number is placed and its die runs (R412, R420). -/
def State.coreRuns (s : State) (core : Nat) : Bool := !(s.core core).unplaced && !(s.die (dieOf core)).stopped

/-- A fragment of a group being halted ends the instruction whose answer has come (R60, R226). -/
def Ctx.finishing (c : Ctx) : Bool :=
  match c.grp.preempt, c.frag.grant with
  | .claimed _ _ _, some (.pred _) | .claimed _ _ _, some (.popped _ _) | .claimed _ _ _, some .closed => true
  | _, _ => false

/-- The fragment may issue its next instruction. -/
def State.mayIssue (s : State) (c : Ctx) : Bool :=
  c.frag.state == .eligible && c.frag.entry.isSome && decide (c.frag.busy ≤ s.clkOf c.core) && !c.grp.draining
  && (if c.grp.halting then c.finishing else c.inFocus) && !c.held && !s.ownOut c && !s.acqOut c && s.coreRuns c.core

/-! ### The next instruction's word and port (R203) -/

/-- The word of the next instruction: a dictionary pair stands for its entry (R195). -/
def State.nextWord (s : State) (c : Ctx) : Option Word :=
  match s.fetchAt c with
  | .words w _ _ _ =>
    if isPair w then s.dictEntry c (if c.frag.pc.toNat % 4 = 0 then bits w.toNat 16 10 else bits w.toNat 0 10) else some w
  | _ => none

/-- The port of the next instruction; what cannot be issued goes by port 4. -/
def State.portOf (s : State) (c : Ctx) : Nat :=
  match s.nextWord c with
  | some w => if 2 ^ 31 ≤ w.toNat then 4 else c.gang.slot % 4
  | none => 4

/-- The opcodes of the synchronising operations (R205): ATOM, WAITCMP, BAR.ARRIVE, BAR.WAIT, TAP.NEXT, GQ.INS to GQ.DONE. -/
def syncKey (k : Nat) : Bool :=
  k == 108 || k == 170 || k == 171 || k == 217 || k == 218 || k == 226 || (decide (232 ≤ k) && decide (k ≤ 236))

/-- The fragment of a deterministic launch stands at a synchronising operation that acts (log 88). -/
def State.syncing (s : State) (c : Ctx) : Bool :=
  c.lau.rcd.det &&
  (match s.nextWord c with
   | some w => syncKey (w.toNat / 2 ^ 24) && (decide (w.toNat < 2 ^ 31) || c.gang.qpred (bits w.toNat 21 3))
   | none => false)

/-! ### Deterministic turns (R206, R207) -/

/-- The fragments of a launch that live on the cores. -/
def State.fragsOfLaunch (s : State) (l : Nat) : List Ctx :=
  (List.range Config.cores).flatMap (fun k => (s.fragsOn k).filter (fun c => c.grp.launch == l && !c.grp.draining))

/-- The fragments of a launch that live in saved groups. -/
def State.savedFrags (s : State) (l : Nat) : List Ctx :=
  match s.launches.find l with
  | none => []
  | some lau =>
    (s.saves.filter (fun x => x.launch == l)).flatMap (fun x =>
      (x.grp.gangs.mapIdx (fun i g => g.frags.map (fun f =>
        { who := { gid := x.gid, gang := i, frag := f.id }, lau := lau, grp := x.grp, gang := g, frag := f : Ctx }))).flatten)

/-- The key of a fragment (R206). -/
def State.detKey (s : State) (c : Ctx) : List Nat :=
  let q := c.frag.quads.head?.getD 0
  let x := c.gang.quad q
  let n := if s.syncing c then x.dix.toNat else x.lclk.toNat
  if c.grp.handlerOf then [n, 0xFFFFFFFF, c.core, q] else [n, c.grp.index, c.who.gang, q]

/-- Keys compare word by word. -/
def keyLt : List Nat → List Nat → Bool
  | a :: s, b :: t => decide (a < b) || (a == b && keyLt s t)
  | _, _ => false

/-- A synchronising operation of the launch has not reached its serialisation point (R206). -/
def State.detBusy (s : State) (l : Nat) (fs : List Ctx) : Bool :=
  fs.any (fun c => c.frag.grant.isSome && s.syncing c)
  || s.reqs.any (fun r => (match r.kind with | .atomic _ _ _ _ | .compare _ _ _ => true | _ => false)
      && (r.who.bind (fun w => s.launchOf w.gid)) == some l)
  || s.pools.any (fun p => p.2.held.any (fun u => s.launchOf u.who.gid == some l))

/-- DET_TURN: the operation of the lowest key among all fragments of the launch that live performs. -/
def State.evDetTurn (s : State) (w : Who) : Option State :=
  match s.ctxOf w with
  | none => none
  | some c =>
    let fs := s.fragsOfLaunch c.grp.launch
    if c.frag.state != .sleeping .det || s.detBusy c.grp.launch fs then none
    else if fs.all (fun d => d.who == w || keyLt (s.detKey c) (s.detKey d))
        && (s.savedFrags c.grp.launch).all (fun d => keyLt (s.detKey c) (s.detKey d)) then some (s.wake w (some .turn))
    else none

/-- The fragment of lowest key among some. -/
def State.lowestKey (s : State) (fs : List Ctx) : Option Ctx :=
  fs.foldl (fun b c =>
    match b with
    | some d => if keyLt (s.detKey c) (s.detKey d) then some c else b
    | none => some c) none

/-- DET_STALL (R207): the waiting operation of lowest key faults (log 72). -/
def State.evDetStall (s : State) (l : Nat) : Option State :=
  let ws := (s.fragsOfLaunch l).filter (fun c => c.frag.state == .sleeping .det)
  match s.lowestKey ws, s.launches.find l with
  | some c, some lau =>
    if s.now < lau.lastSync + 2 ^ 20 then none
    else some ((s.put (c.fault s.now .detStall)).updLaunch l (fun x => { x with lastSync := s.now }))
  | _, _ => none

/-- A fragment at a synchronising operation waits for its turn; the first to wait starts the time of R207. -/
def State.awaitTurn (s : State) (c : Ctx) : State :=
  let first := !(s.fragsOfLaunch c.grp.launch).any (fun d => d.frag.state == .sleeping .det)
  let s1 := s.put { c with frag := { c.frag with state := .sleeping .det, code := none } }
  if first then s1.updLaunch c.grp.launch (fun x => { x with lastSync := max x.lastSync s.now }) else s1

/-! ### Profile counters (R416, R417) -/

/-- The reason of a wait. The waits that the table does not name count where their cause belongs (log 39). -/
def Wait.reason : Wait → Nat
  | .codeAbsent => 1
  | .hwait _ | .codeLoad => 2
  | .dictLoad => 3
  | .scoreboard _ | .inUse | .det => 4
  | .memLimit | .walk | .missFull | .older | .ownStore _ | .until _ | .parked | .rewalk _ | .ownership | .acquire | .fenceW
  | .fenceL | .stash | .settle | .wct _ _ => 5
  | .monitor | .monitorFull _ | .hostRead => 6
  | .barrier _ => 7
  | .batch _ => 8
  | .timeline _ _ | .mirror | .mirrorFull _ => 9
  | .matrix => 10
  | .tapNext => 11
  | .gqPop _ | .gqHeld _ => 12
  | .engineFull _ _ _ => 13
  | .sleep _ | .yield _ => 14

/-- The reason that applies to a fragment alone, 0 for one that is ELIGIBLE. -/
def Frag.reason (f : Frag) : Nat :=
  match f.state with
  | .eligible => if f.entry.isNone then 13 else 0
  | .stalled w | .sleeping w => w.reason
  | .regangWait => 7
  | .faulted i _ => if i.reason == .codeAbsent then 1 else 15

/-- A granted pass of the group has B to fetch again: the wait for it is a matrix wait (R108). -/
def State.reloads (s : State) (c : Ctx) : Bool :=
  (s.core c.core).rsvs.any (fun r => r.who.gid == c.who.gid && !r.load && r.stage == .granted && !s.tagged c.core r)

/-- Rows of the group wait for the pennant queue, or for an adapter's bytes: a tap hold (R141, R148). -/
def State.tapWaits (s : State) (c : Ctx) : Bool :=
  c.grp.tapRows.any (fun t => t.toDo && (if t.adapt then t.parked else s.pennantsFull c.core))

/-- The reason that applies to a fragment where its core's state tells it: its own, or the cause of a wait for
accumulator rows (R108, R141, R148); pipe busy while it serves a spill, a refill or a compaction (R172, R197). -/
def State.reasonOf (s : State) (c : Ctx) : Nat :=
  if c.frag.state = .stalled .inUse then (if s.tapWaits c then 11 else if s.reloads c then 10 else 4)
  else if c.frag.reason ≠ 0 then c.frag.reason
  else if s.clkOf c.core < c.frag.busy then 13
  else 0

/-- The reason that a clock of a port is charged to the oldest fragment. -/
def State.chargeOf (s : State) (c : Ctx) (port : Nat) : Nat :=
  if s.reasonOf c ≠ 0 then s.reasonOf c
  else if c.held || s.ownOut c || s.acqOut c then 5
  else if s.portOf c ≠ port then 16
  else 0

/-- The oldest resident fragment of a core (R417). -/
def State.oldestFrag (s : State) (core : Nat) : Option Ctx :=
  let key : Ctx → List Nat := fun c => [c.grp.placedAt, c.who.gid, c.who.gang, c.frag.entry.getD Config.splitEntries]
  (s.fragsOn core).foldl (fun b c =>
    match b with
    | some d => if keyLt (key c) (key d) then some c else b
    | none => some c) none

/-- The histogram bin of a count. -/
def histBin (n : Nat) : Nat := if n < 4 then n else if n < 8 then 4 else if n < 16 then 5 else if n < 64 then 6 else 7

/-- Places of the counters in `prof`: HIST, ISSUE, STALL, WAIT. -/
def histKey (p b : Nat) : Nat := p * 8 + b
def issueKey (p : Nat) : Nat := 40 + p
def stallKey (p r : Nat) : Nat := 64 + 32 * p + r
def waitKey (r : Nat) : Nat := 256 + r

/-- Count one clock, saturating. -/
def bump (m : SMap Nat) (k : Nat) : SMap Nat := SMap.put 0 m k (min (SMap.get 0 m k + 1) (2 ^ 64 - 1))

/-- The counters of a core for one clock: `cands` are the eligible fragments with their ports, `picks` what issued,
`busy` the ports that are occupied. -/
def State.profile (s : State) (core : Nat) (cands : List (Nat × Ctx)) (picks : List (Nat × Ctx)) (busy : Nat → Bool) : State :=
  let k := s.core core
  if k.profFreeze then s
  else
    let all := k.profFunc == 0x1FF
    let old := s.oldestFrag core
    let m1 := (List.range 5).foldl (fun m p =>
      let bin := histKey p (histBin (cands.filter (fun x => x.1 == p)).length)
      match picks.find? (fun x => x.1 == p), old with
      | some x, _ => if all || x.2.lau.func == k.profFunc then bump (bump m bin) (issueKey p) else m
      | none, some c =>
        if all || c.lau.func == k.profFunc then
          let r := if busy p then 13 else s.chargeOf c p
          if r = 0 then bump m bin else bump (bump m bin) (stallKey p r)
        else m
      | none, none => if all then bump (bump m bin) (stallKey p 17) else m) k.prof
    let m2 := (s.fragsOn core).foldl (fun m c =>
      if s.reasonOf c ≠ 0 && (all || c.lau.func == k.profFunc) then bump m (waitKey (s.reasonOf c)) else m) m1
    s.setCore core { k with prof := m2 }

/-! ### A clk (R203, R204) -/

/-- The focus of a group ends with a fault of its fragment (R409). -/
def State.focusFault (s : State) (w : Who) : State :=
  s.updGroup w.gid (fun g =>
    match g.focus with
    | some f =>
      if f.ended = 0 ∧ f.gang = w.gang ∧ f.frag = w.frag then
        match (g.gangs[w.gang]?).bind (fun x => x.frag w.frag) with
        | some x => (match x.state with | .faulted _ _ => { g with focus := some { f with ended := 3 } } | _ => g)
        | none => g
      else g
    | none => g)

/-- How a fragment goes on whose wait has ended: with what its wait found, where it is asked for (R82, R332); a FENCE.W
whose loads and writes have returned goes on to wait for its %wct, and holds its gang (R153). -/
def State.waitNext (s : State) (c : Ctx) (w : Wait) (f : Frag) : Frag :=
  match w with
  | .timeline (some x) n => { f with state := .eligible, grant := some (.reached (!(s.counter x).errUpTo n)) }
  | .batch n => { f with state := .eligible, grant := if n = 0 then f.grant else some (.reached (s.batchesOk c.gang n)) }
  | .fenceW =>
    if s.now < c.gang.wct then { f with state := .stalled (.wct c.gang.wct true) }
    else { f with state := .eligible, grant := some .passed }
  | _ => { f with state := .eligible }

/-- Fragments whose wait has ended go on. -/
def State.endWaits (s : State) (core : Nat) : State :=
  (s.fragsOn core).foldl (fun s c =>
    match c.frag.state with
    | .stalled w | .sleeping w => if s.waitOver c w then s.updFrag c.who (s.waitNext c w) else s
    | _ => s) s

/-! ### Accesses that fail at their home slices (R24, R161, R234) -/

/-- The oldest access of a fragment that has failed at its home slice, with its reason. -/
def State.badOf (s : State) (c : Ctx) : Option (Reason × Req × ReqPart) :=
  let mine : ReqPart → Bool := fun p => p.ofGang c.who.gid c.who.gang &&
    (if p.lane = 64 then p.who == some c.who || (c.gang.frags.head?.map Frag.id) == some c.frag.id && !c.gang.frags.any (fun f => (p.who.map Who.frag) == some f.id)
     else c.frag.quads.contains (p.lane / 4))
  (s.reqs.filterMap (fun r =>
    match r.stage with
    | .bad q => (r.parts.find? mine).map (fun p => (q, r, p))
    | _ => none)).foldl (fun b x =>
      match b with
      | some y => if x.2.2.ins < y.2.2.ins then some x else b
      | none => some x) none

/-- A fragment takes the precise fault of an access that failed (R161, R216, R219): what it has issued since stays; the
access is sent again on REPLAY (log 27). -/
def Ctx.badFault (c : Ctx) (now : Nat) (q : Reason) (r : Req) (p : ReqPart) : Ctx :=
  let ls := (r.parts.filter (fun x => x.ofGang c.who.gid c.who.gang && x.ins == p.ins &&
    (x.lane == 64 || c.frag.quads.contains (x.lane / 4)))).map ReqPart.lane
  let i : FaultInfo :=
    { reason := q, addr := BitVec.ofNat 64 p.va, lanes := if p.lane = 64 then c.faultLanes 7 else laneMask ls, pc := p.pc
      tick := now, d0 := if q = .uncorrectable then BitVec.ofNat 64 p.pa else 0, d1 := 0, d2 := 0 }
  { c with frag := { c.frag with state := .faulted i none } }

/-- A fragment that may take the fault of an access: not one whose instruction an event has to answer. -/
def FState.open : FState → Bool
  | .eligible => true
  | .stalled w =>
    (match w with
     | .walk | .missFull | .parked | .rewalk _ | .codeAbsent | .gqHeld _ | .hostRead => false
     | _ => true)
  | _ => false

/-- A failed access that no fragment is left to take ends: uncorrectable data is reported (R234), and the host's AtomicOp
is aborted (R384). -/
def State.sweepBad (s : State) : State :=
  let live : ReqPart → Bool := fun p =>
    (p.who.map (fun w => ((s.gangAt w.gid w.gang).map (fun g => !g.frags.isEmpty)).getD false)).getD false
  (s.reqs.filter (fun r => (match r.stage with | .bad _ => true | _ => false) && !r.parts.any live)).foldl (fun s r =>
    let s1 := s.dropReq r.id
    let s2 := if r.parts.any (fun p => p.who.isNone) && r.isAtomic then { s1 with out := s1.out ++ [Output.bar2 r.func none] } else s1
    if r.stage = .bad .uncorrectable then s2.event Config.physFn 5 (BitVec.ofNat 64 (r.line * 64)) 0 0 else s2) s

/-- The fragments of a core take the faults of their failed accesses. -/
def State.takeBad (s : State) (core : Nat) : State :=
  if !s.reqs.any (fun r => match r.stage with | .bad _ => true | _ => false) then s
  else
    (s.fragsOn core).foldl (fun s c =>
      match (if c.frag.state.open then s.badOf c else none) with
      | some (q, r, p) => (s.put (c.badFault s.now q r p)).focusFault c.who
      | none => s) s

/-- What fetch gives an eligible fragment: a fault or a wait. -/
def State.fetchStep (s : State) (w : Who) : State :=
  match s.ctxOf w with
  | none => s
  | some c =>
    if !s.mayIssue c then s
    else
      match s.fetchAt c with
      | .fault r => (s.put (c.fault s.now r)).focusFault w
      | .wait x => s.put (c.stall x)
      | .words _ _ _ _ => s

/-- The fragment that a port picks: the promoted first, else the first entry after the rotation pointer. -/
def pickOf (cands : List Ctx) (ptr : Nat) : Option Ctx :=
  let prom := cands.filter (fun c => c.frag.promoted.isSome)
  let key : Ctx → List Nat := fun c =>
    if prom.isEmpty then [if ptr < c.frag.entry.getD 0 then 0 else 1, c.frag.entry.getD 0] else [c.frag.promoted.getD 0]
  (if prom.isEmpty then cands else prom).foldl (fun b c =>
    match b with
    | some d => if keyLt (key c) (key d) then some c else b
    | none => some c) none

/-- The firmware agent of a core works: it takes port 4 on the next clk, at most one in four (R204). -/
def State.agentWorks (s : State) (core : Nat) : State :=
  s.updCore core (fun k => { k with agentClk := max (s.clkOf core + 1) (k.agentClk + 4) })

/-- One clk of a core: each free port picks; 64 lanes occupy a lane pipe for 2 clk, the agent holds port 4 on its clk; who
is not picked has waited (log 77). -/
def State.selectCore (s : State) (core : Nat) : State :=
  if !s.coreRuns core then s
  else
    let s1 := (((s.takeBad core).endWaits core).runSlots core)
    let s2 := ((s1.fragsOn core).map Ctx.who).foldl State.fetchStep s1
    let cands := ((s2.fragsOn core).filter (fun c => s2.mayIssue c && !s2.issuing.contains c.who)).map (fun c => (s2.portOf c, c))
    let k := s2.core core
    let clk := s2.clkOf core
    let busy : Nat → Bool := fun p => decide (clk < k.portBusy[p]?.getD 0) || (p == 4 && k.agentClk == clk)
    let picks := (List.range 5).filterMap (fun p =>
      if busy p then none
      else (pickOf ((cands.filter (fun x => x.1 == p)).map Prod.snd) (k.rotate[p]?.getD 0)).map (fun c => (p, c)))
    let k1 := picks.foldl (fun (k : Core) x =>
      let r := if x.2.frag.promoted.isSome then k.rotate else k.rotate.setIfInBounds x.1 (x.2.frag.entry.getD 0)
      let n := if x.1 < 4 ∧ x.2.width = 64 then 2 else 1
      { k with rotate := r, portBusy := k.portBusy.setIfInBounds x.1 (clk + n) }) k
    let s3 := cands.foldl (fun s x =>
      if picks.any (fun y => y.2.who == x.2.who) then s
      else s.updFrag x.2.who (fun f => { f with waited := f.waited + 1 })) (s2.setCore core k1)
    let s4 := s3.profile core cands picks busy
    { s4 with issuing := s4.issuing ++ picks.map (fun x => x.2.who) }

/-- The clock of a pair under stretch skips every other clk (R423, R424; log 76). -/
def State.pairTick (s : State) (p : Nat) : State :=
  let x := s.pair p
  if x.stretched || s.powerStretch then
    if x.skip then s.setPair p { x with skip := false, lag := x.lag + 1 }
    else s.setPair p { x with skip := true, above := if x.stretched then x.above + 1 else x.above }
  else if x.skip then s.setPair p { x with skip := false } else s

/-- The pair skips the clk that begins. -/
def State.pairSkips (s : State) (p : Nat) : Bool := (s.pair p).skip && ((s.pair p).stretched || s.powerStretch)

/-- Events that waited for their time, or for space, enter their rings. -/
def State.drainAll (s : State) : State := (s.funcs.map Prod.fst).foldl (fun s f => s.drainEvents f drainFuel) s

/-- ISSUE_SELECT: one clk, 5/7 of a tick. -/
def State.evIssueSelect (s : State) : State :=
  let p := s.phase + Config.clkUnits
  let s1 := State.drainAll <| State.sweepBad { s with clk := s.clk + 1, phase := p % Config.tickUnits, now := s.now + p / Config.tickUnits }
  let skips := (List.range (Config.cores / 2)).filter (fun i => s1.pairSkips i)
  let s2 := (List.range (Config.cores / 2)).foldl State.pairTick s1
  (List.range Config.cores).foldl (fun s c => if skips.contains (c / 2) then s else s.selectCore c) s2

/-! ### Before and after an instruction -/

/-- The link register that calls and returns name by 0 (R348). -/
def implicitRegs (w : Word) : List Nat :=
  let k := w.toNat / 2 ^ 24
  if k = 179 ∨ k = 180 ∨ ((k = 181 ∨ k = 183) ∧ bits w.toNat 14 7 = 0) ∨ (k = 184 ∧ bits w.toNat 7 7 = 0) then [127] else []

/-- REGANG or EXIT (R409). -/
def joinKey (w : Word) : Bool := w.toNat / 2 ^ 24 == 185 || w.toNat / 2 ^ 24 == 186

/-- What a fragment's turn to issue comes to: nothing, or an instruction to run. -/
inductive Pre where
  | drop (s : State)
  | go (i : Instr) (s : State)

/-- The fragment issues from a slot: its entry is used and charged (R186, R189, R192). -/
def State.issueFrom (s : State) (c : Ctx) (slot : Option Nat) : State :=
  let s1 := match slot with
    | some i => s.updCore c.core (fun k => k.setRes i { (k.res i).charge c.lau.func with used := s.clkOf c.core })
    | none => s
  let s2 := if s.syncing c then s1.updLaunch c.grp.launch (fun x => { x with lastSync := s.now }) else s1
  State.updFrag { s2 with cur := some c.who } c.who (fun f =>
    { f with overlay := if slot.isSome then slot else f.overlay, lastIssue := s.clkOf c.core, waited := 0, promoted := none, ret := none })

/-- The checks of an instruction before it issues: fetch, its form and R165's registers (R260), the end of focus, its turn
in a deterministic launch (R206), the scoreboard. -/
noncomputable def State.preIssue (s : State) (w : Who) : Pre :=
  match s.ctxOf w with
  | none => .drop s
  | some c =>
    if !s.mayIssue c then .drop s
    else
      match s.fetchAt c with
      | .fault r => .drop ((s.put (c.fault s.now r)).focusFault w)
      | .wait x => .drop (s.put (c.stall x))
      | .words wd x y slot =>
        match decodeWords wd x y with
        | .error _ => .drop ((s.put (c.fault s.now .illegalInstruction)).focusFault w)
        | .ok (i, _) =>
          if c.lau.rcd.regs < i.regsNeeded then .drop ((s.put (c.fault s.now .illegalInstruction)).focusFault w)
          else if c.grp.focus.isSome && joinKey wd then
            .drop ((s.put { c with frag := { c.frag with code := none } }).updGroup w.gid (fun g =>
              { g with focus := g.focus.map (fun f => { f with ended := 2 }) }))
          else if c.frag.grant.isNone && s.syncing c && !isPair wd then .drop (s.awaitTurn c)
          else if s.regsBusy c (scoreRegs i (implicitRegs wd)) then .drop (s.put (c.stall (.scoreboard (scoreRegs i (implicitRegs wd)))))
          else .go i (s.issueFrom c slot)

/-- An armed breakpoint of the function matches a retired address (R406). -/
def State.breaks (s : State) (c : Ctx) (pc : Reg) : Bool :=
  (s.fn c.lau.func).bps.toList.any (fun b =>
    b.getLsbD 63 && fld b 57 4 == c.lau.aspace && fld b 1 56 == pc.toNat / 2 % 2 ^ 56)

/-- One step of the focus counts; after the last, focus ends (R409). -/
def Focus.count (f : Focus) : Focus :=
  { f with left := f.left - 1, steps := f.steps + 1, ended := if f.left ≤ 1 ∧ f.ended = 0 then 1 else f.ended }

/-- After an instruction: the second part of a dictionary pair issues next; a retired instruction meets breakpoints
and counts in a focus. -/
def State.postIssue (s : State) (w : Who) : State :=
  let s0 := { s with cur := none }
  match s0.ctxOf w with
  | none => s0
  | some c =>
    if c.frag.code.isSome then { s0 with issuing := w :: s0.issuing }
    else
      match c.frag.ret with
      | none => s0.focusFault w
      | some pc =>
        let c1 : Ctx := { c with frag := { c.frag with ret := none } }
        let running : Bool := match c1.frag.state with | .regangWait | .faulted _ _ => false | _ => true
        let c2 : Ctx :=
          if running && s0.breaks c1 pc then
            let f := c1.fault s0.now .debug
            { f with frag := { f.frag with state := .faulted { reason := .debug, addr := 0, lanes := 0, pc := pc, tick := s0.now, d0 := 0, d1 := 0, d2 := 0 } none } }
          else c1
        let c3 : Ctx :=
          if c2.inFocus then { c2 with grp := { c2.grp with focus := c2.grp.focus.map Focus.count } } else c2
        (s0.put c3).focusFault w

/-! ### Events of the issue logic (R172, R204, R363) -/

/-- FRAGMENT_PROMOTION. -/
def State.evFragmentPromotion (s : State) (w : Who) : Option State :=
  match s.fragOf w with
  | some f =>
    if f.state == .eligible && decide (64 ≤ f.waited) && f.promoted.isNone then
      some (State.updFrag { s with nextId := s.nextId + 1 } w (fun x => { x with promoted := some s.nextId }))
    else none
  | none => none

/-- The fragment of a core that was spilled first. -/
def State.oldestSpilled (s : State) (core : Nat) : Option Ctx :=
  (s.fragsOn core).foldl (fun b c =>
    if c.frag.entry.isSome then b
    else
      match b with
      | some d => if c.frag.spillNo < d.frag.spillNo then some c else b
      | none => some c) none

/-- FRAGMENT_REFILL. -/
def State.evFragmentRefill (s : State) (core : Nat) : Option State :=
  match s.oldestSpilled core, s.freeEntry core with
  | some c, some e => some (s.refill c.who e)
  | _, _ => none

/-- SPILL_WAIT_EXPIRY. -/
def State.evSpillWaitExpiry (s : State) (core : Nat) : Option State :=
  match s.oldestSpilled core, s.freeEntry core with
  | some c, none =>
    if s.clkOf core < c.frag.since + 1024 then none
    else (s.oldestResident core none).bind (fun v => v.frag.entry.map (fun e => (s.spill v.who).refill c.who e))
  | _, _ => none

/-- YIELD_EXPIRY and SLEEP_EXPIRY. -/
def State.evYieldExpiry (s : State) (w : Who) : Option State :=
  match (s.fragOf w).map Frag.state with
  | some (.sleeping (.yield t)) => if t ≤ s.clkOf (coreOf w.gid) then some (s.wake w none) else none
  | _ => none
def State.evSleepExpiry (s : State) (w : Who) : Option State :=
  match (s.fragOf w).map Frag.state with
  | some (.sleeping (.sleep due)) => if due ≤ s.now then some (s.wake w (some .passed)) else none
  | _ => none

def execIssueSelect (s : State) := s.unitStep (some s.evIssueSelect)
def execFragmentPromotion (f : Who) (s : State) := s.unitStep (s.evFragmentPromotion f)
def execFragmentRefill (core : Nat) (s : State) := s.unitStep (s.evFragmentRefill core)
def execSpillWaitExpiry (core : Nat) (s : State) := s.unitStep (s.evSpillWaitExpiry core)
def execYieldExpiry (f : Who) (s : State) := s.unitStep (s.evYieldExpiry f)
def execSleepExpiry (f : Who) (s : State) := s.unitStep (s.evSleepExpiry f)
def execDetTurn (f : Who) (s : State) := s.unitStep (s.evDetTurn f)
def execDetStall (launch : Nat) (s : State) := s.unitStep (s.evDetStall launch)

end Sys2Proof.Machine
end

