-- ==== Sys2Proof/Machine/EvCode.lean ====
section
/-!
DEFINITION. The steps of the code store: loads of overlays and dictionaries, the agent's service of absent code, forced
eviction (R185, R186, R188, R191, R194).
-/

namespace Sys2Proof.Machine

/-- Work that is parked: in a translation record, or until a full queue's re-walk (R31). -/
def State.parkedNow (s : State) (x : Parked) : Bool :=
  s.xrecs.any (fun r => r.parked.any (fun p => p.1 == x)) || s.rewalks.any (fun r => r.what == x)

/-! ### Loads of overlays (R185, R186) -/

/-- Bytes of a module as they stood at its load, which is all that fetch sees (R187). -/
def Module.code (m : Module) (off n : Nat) : List Byte :=
  let bs := (m.bytes.drop off).take n
  bs ++ List.replicate (n - bs.length) 0

/-- The bytes of a loading entry: its lines are read with execute permission from region 0x0 into code ways (R27, R41),
and the store receives the module's bytes as loaded (log 55). -/
def State.hoistBytes (s : State) (core : Nat) (e : ResEntry) : Except (Reason × Nat) (State × List Byte) :=
  let n := e.units * 4096
  match s.unitLoad e.loadFunc e.loadAspace e.loadVA n .execute 1 core with
  | .error x => .error x
  | .ok (s1, _) =>
    match s1.xlRange core e.loadFunc e.loadAspace .execute (n / 65536 + 2) e.loadVA n with
    | .error x => .error x
    | .ok l =>
      if l.any (fun p => regionOf p.1 != 0) then .error (.paUnbacked, e.loadVA)
      else .ok (s1, (s.modl e.modIdx).code (e.offset * 4096) n)

/-- Words of bytes. -/
def wordsOf (bs : List Byte) : List Word := (chunks 4 bs.length bs).map (fun b => BitVec.ofNat 32 (leNat b))

/-- Put words at a place of a table. -/
def putWords (m : SMap Word) (at0 : Nat) (ws : List Word) : SMap Word :=
  (ws.foldl (fun (a : SMap Word × Nat) w => (SMap.put 0 a.1 a.2 w, a.2 + 1)) (m, at0)).1

/-- HOIST_LOAD_COMPLETE: the last byte reaches the store; an entry of a revoked module goes on as EVICTING (R185). -/
def State.evHoistLoadComplete (s : State) (core slot : Nat) : Option State :=
  let e := (s.core core).res slot
  if e.state ≠ 1 ∨ s.parkedNow (.hoist core slot) then none
  else
    match s.hoistBytes core e with
    | .error _ => none
    | .ok (s1, bs) =>
      let s2 := s1.updCore core (fun k => { k with istore := putWords k.istore (e.store * 1024) (wordsOf bs) })
      some (
        if !e.evictPending && !e.revoked then s2.updCore core (fun k => k.setRes slot { e with state := 2 })
        else if s2.unused core slot then s2.freeCode core slot
        else s2.updCore core (fun k => k.setRes slot { e with state := 3, evictPending := false }))

/-- A load ends in a fault: FAILED, or FREE where an EVICT awaited its end or its module is revoked. -/
def Core.hoistFailed (k : Core) (slot : Nat) (r : Reason) : Core :=
  let e := k.res slot
  if e.state ≠ 1 then k
  else if e.evictPending || e.revoked then k.freeRes slot
  else k.setRes slot { e with state := 4, fail := some r }

/-- HOIST_LOAD_FAULT: a replayable fault parks the load, any other ends it (R31, R234). -/
def State.evHoistLoadFault (s : State) (core slot : Nat) : Option State :=
  let e := (s.core core).res slot
  if e.state ≠ 1 ∨ s.parkedNow (.hoist core slot) then none
  else
    match s.hoistBytes core e with
    | .ok _ => none
    | .error (r, va) =>
      if r.replayable then some (s.park (dieOf core) e.loadFunc e.loadAspace va .execute r (.hoist core slot))
      else some (s.updCore core (fun k => k.hoistFailed slot r))

/-! ### The agent (R188, R191) -/

/-- CODE_ABSENT_SERVICE: the agent hoists the directory overlay at the program counter, and resumes the fragment once it
is there; a fault of the hoist is the fragment's. -/
def State.evCodeAbsentService (s : State) (w : Who) : Option State :=
  match s.ctxOf w with
  | none => none
  | some c =>
    match c.frag.state with
    | .faulted i delivered =>
      if i.reason != .codeAbsent then none
      else
        let fail : State → Reason → State := fun s r => (s.put (c.fault s.now r)).focusFault w
        let mark : State → Option Nat → State := fun s b => s.updFrag w (fun f => { f with state := .faulted i b })
        match s.bindingAt c.lau.func c.lau.aspace i.pc.toNat with
        | none => some (fail s .noCode)
        | some (m, off) =>
          match (s.modl m).overlayAt off with
          | none => some (fail s .noCode)
          | some (o4, n4) =>
            if delivered.isNone then
              match s.hoistAt c.core c.lau.func c.lau.aspace (i.pc.toNat - off + o4 * 4096) (n4 * 4096) with
              | .error r => some (fail s r)
              | .ok (s1, _, _) => some ((mark s1 (some 0)).agentWorks c.core)
            else
              match (s.core c.core).slotAt m off with
              | none => some (mark s none)
              | some k =>
                match ((s.core c.core).res k).state, ((s.core c.core).res k).fail with
                | 1, _ => none
                | 4, some r => some (fail s r)
                | _, _ => some ((s.updFrag w (fun f => f.resume i.pc)).agentWorks c.core)
    | _ => none

/-- A function's least recently used entry on a core, once its use is above its quota. -/
def State.overQuota (s : State) (core f : Nat) : Option Nat :=
  let k := s.core core
  if k.useOf f none ≤ (s.fn f).quota then none
  else
    (List.range 64).foldl (fun best i =>
      if (k.res i).counts f then
        match best with
        | some j => if (k.res i).used < (k.res j).used then some i else some j
        | none => some i
      else best) none

/-- Ask for the pre-emption of a group by its agent, unless one is under way. -/
def State.wantSave (s : State) (gid : Nat) (host : Bool) : State :=
  s.updGroup gid (fun g => if g.preempt = .none ∧ !g.draining then { g with preempt := .wanted host } else g)

/-- FORCED_EVICTION: the groups with fragments inside are pre-empted; then the pins go and the entry is freed. -/
def State.evForcedEviction (s : State) (core slot : Nat) : Option State :=
  if !(List.range 257).any (fun f => s.overQuota core f == some slot) then none
  else
    let e := (s.core core).res slot
    let gids := (((s.fragsOn core).filter (fun c => s.inside c slot e)).map (fun c => c.who.gid)).eraseDups
    if gids.isEmpty then
      let s1 : State := { s with groups := s.groups.map (fun g =>
        if coreOf g.1 = core then
          (g.1, { g.2 with gangs := g.2.gangs.map (fun x => { x with pins := x.pins.filter (fun p => p.1 / 1024 != slot) }) })
        else g) }
      some ((s1.freeCode core slot).agentWorks core)
    else
      let ask := gids.filter (fun g => ((s.groups.find g).map Group.preempt) == some .none)
      if ask.isEmpty then none else some (ask.foldl (fun s g => s.wantSave g false) s)

/-! ### Dictionaries (R194) -/

/-- DICT_LOAD: the store is filled, and the groups that wait for it go on. -/
def State.evDictLoad (s : State) (core d : Nat) : Option State :=
  match (s.core core).dicts[d]? with
  | none => none
  | some x =>
    match x.launch with
    | none => none
    | some l =>
      let waits : Nat × Group → Bool := fun g => coreOf g.1 == core && g.2.launch == l && !g.2.dictReady
      if !s.groups.any waits then none
      else
        let ws := ((s.launches.find l).map Launch.dictWords).getD []
        let s1 := s.updCore core (fun k => { k with dicts := k.dicts.setIfInBounds d { x with words := ws } })
        some { s1 with groups := s1.groups.map (fun g => if waits g then (g.1, { g.2 with dictReady := true }) else g) }

def execHoistLoadComplete (core slot : Nat) (s : State) := s.unitStep (s.evHoistLoadComplete core slot)
def execHoistLoadFault (core slot : Nat) (s : State) := s.unitStep (s.evHoistLoadFault core slot)
def execOverlayFree (core slot : Nat) (s : State) := s.unitStep (s.evOverlayFree core slot)
def execCodeAbsentService (f : Who) (s : State) := s.unitStep (s.evCodeAbsentService f)
def execForcedEviction (core slot : Nat) (s : State) := s.unitStep (s.evForcedEviction core slot)
def execDictLoad (core k : Nat) (s : State) := s.unitStep (s.evDictLoad core k)

end Sys2Proof.Machine
end

