-- ==== Sys2Proof/Machine/EvLaunch.lean ====
section
/-!
DEFINITION. Placement, the agents' claims, the drain of a group and the completion of a launch (R123, R142, R159, R164,
R165, R200 to R202).
-/

namespace Sys2Proof.Machine

/-! ### What fits a core (R164, R165, R201) -/

/-- What a core has for one group: a place, its gangs' slots, the start of its stash run (4 KiB units) and of its
accumulator rows. -/
structure Spot where
  place : Nat
  slots : List Nat
  stash : Nat
  acc : Nat

/-- The shape of a group to place. -/
structure Shape where
  gangs : Nat
  width : Nat
  regs : Nat
  stash : Nat
  rows : Nat

/-- An ordinary group of a launch, and its tap handler group (R142, R201). -/
def LaunchRec.shapeOf (r : LaunchRec) (handler : Bool) : Shape :=
  { gangs := if handler then 1 else r.gangs, width := r.width, regs := r.regs, stash := r.stash4k
    rows := if handler then 0 else r.accRows }

/-- The lowest run of n places below a limit that no interval (start, length) meets. -/
def freeRunIn (limit n : Nat) (used : List (Nat × Nat)) : Option Nat :=
  if n = 0 then some 0
  else
    (0 :: used.map (fun u => u.1 + u.2)).foldl (fun best b =>
      if b + n ≤ limit ∧ used.all (fun u => decide (u.1 + u.2 ≤ b) || decide (b + n ≤ u.1)) then
        match best with
        | some x => if b < x then some b else best
        | none => some b
      else best) none

/-- What is in use on a core: places, gang slots, half gang units, register bytes, stash and row intervals. -/
structure Load where
  places : List Nat
  slots : List Nat
  units : Nat
  bytes : Nat
  stash : List (Nat × Nat)
  rows : List (Nat × Nat)

/-- A shape in a spot added to what is in use. -/
def Load.add (u : Load) (h : Shape) (p : Spot) : Load :=
  { places := p.place :: u.places, slots := p.slots ++ u.slots, units := u.units + h.gangs * (h.width / 16)
    bytes := u.bytes + h.gangs * h.width * h.regs * 4
    stash := if h.stash = 0 then u.stash else (p.stash, h.stash) :: u.stash
    rows := if h.rows = 0 then u.rows else (p.acc, h.rows) :: u.rows }

def Load.none : Load := { places := [], slots := [], units := 0, bytes := 0, stash := [], rows := [] }

/-- The use of a core by its groups, draining ones too (R201; log 85). -/
def State.loadOf (s : State) (core : Nat) : Load :=
  (s.groups.filter (fun g => coreOf g.1 == core)).foldl (fun u g =>
    match s.launches.find g.2.launch with
    | some l =>
      u.add (l.rcd.shapeOf g.2.handlerOf)
        { place := g.1 % Config.groupsPerCore, slots := g.2.gangs.map Gang.slot, stash := g.2.stashBase, acc := g.2.accBase }
    | Option.none => u) Load.none

/-- A spot for a shape, lowest first (log 87). -/
def Load.spot (u : Load) (h : Shape) : Option Spot :=
  let slots := ((List.range 128).filter (fun i => !u.slots.contains i)).take h.gangs
  match (List.range Config.groupsPerCore).find? (fun i => !u.places.contains i), freeRunIn 256 h.stash u.stash,
        freeRunIn 768 h.rows u.rows with
  | some p, some st, some ac =>
    if slots.length < h.gangs ∨ 128 < u.units + h.gangs * (h.width / 16) ∨ 768 * 1024 < u.bytes + h.gangs * h.width * h.regs * 4 then Option.none
    else some { place := p, slots := slots, stash := st, acc := ac }
  | _, _, _ => Option.none

/-- Spots for an ordinary group, and for a handler group where one comes with it. -/
def Load.spots (u : Load) (r : LaunchRec) (handler : Bool) : Option (Spot × Option Spot) :=
  match u.spot (r.shapeOf false) with
  | Option.none => Option.none
  | some a =>
    if !handler then some (a, Option.none)
    else ((u.add (r.shapeOf false) a).spot (r.shapeOf true)).map (fun b => (a, some b))

/-- The dictionary store of a launch on a core, or a free one; `none` where there is neither (R194). -/
def Core.dictFor (k : Core) (l : Nat) : Option Nat :=
  ((List.range 4).find? (fun i => (k.dicts[i]?.getD DictStore.free).launch == some l)).orElse
    (fun _ => (List.range 4).find? (fun i => (k.dicts[i]?.getD DictStore.free).launch.isNone))

/-- A tap handler of the launch is live on a core (R142; log 84). -/
def State.handlerOn (s : State) (core l : Nat) : Bool :=
  s.groups.any (fun g => coreOf g.1 == core && g.2.launch == l && g.2.handlerOf && g.2.handlerLive && !g.2.draining)

/-- A group placed on a core brings a handler group. -/
def State.bringsHandler (s : State) (core l : Nat) (r : LaunchRec) : Bool := r.tapEntry != 0 && !s.handlerOn core l

/-- A group of a launch fits a core now (R201). -/
def State.fits (s : State) (core l : Nat) (r : LaunchRec) : Bool :=
  s.coreRuns core && !(s.core core).retiring && ((s.loadOf core).spots r (s.bringsHandler core l r)).isSome
  && (r.dict == 0 || ((s.core core).dictFor l).isSome)

/-- A launch fits from a core: a cluster takes the leader and the follower of a pair. -/
def State.fitsFrom (s : State) (core l : Nat) (r : LaunchRec) : Bool :=
  if r.cluster then core % 2 == 0 && s.fits core l r && s.fits (core + 1) l r else s.fits core l r

/-! ### Placing a group (R165, R174, R198) -/

/-- A gang at launch: its quads below the lane count are present, partly filled ones whole (R175). -/
def gangAt (r : LaunchRec) (slot lanes : Nat) : Gang :=
  { slot := slot, lanes := lanes, v := [], p := Vector.replicate 8 0
    g := Vector.ofFn (fun i : Fin 32 => r.ginit[i.val]?.getD 0)
    q := Vector.replicate 8 false, m := Vector.replicate 8 0, h := Vector.replicate 16 Handle.zero, wct := 0, fsticky := 0
    batchNo := 0, openCmds := [], batches := [], frec := Vector.replicate 8 0, pins := [], triggered := false
    quads := Vector.ofFn (fun i : Fin 16 =>
      if 4 * i.val < lanes then { present := true, mask := 15, stack := [], dix := 0, lclk := 0 } else Quad.absent)
    frags := [], nextFrag := 0 }

/-- A group at its placement, without fragments. -/
def groupAt (l index : Nat) (lau : Launch) (handler : Bool) (now : Nat) (p : Spot) (ready : Bool) : Group :=
  let r := lau.rcd
  let n := (r.shapeOf handler).gangs
  { launch := l, index := index, handlerOf := handler, handlerLive := handler, peer := none, placedAt := now
    stashBase := p.stash, accBase := p.acc, stash := [], lines := [], acc := [], smap := Vector.replicate 8 0, mcast := 0
    tcbind := Vector.replicate 8 0, rready := 0, rpend := 0, bars := Vector.replicate 16 Barrier.zero
    halyard := Vector.replicate 8 0, permits := [], matrix := Counter.zero, taps := Vector.replicate 8 Counter.zero
    slots := Vector.ofFn (fun i : Fin 8 => lau.slots[i.val]?.getD FmtSlot.zero)
    gangs := (List.range n).map (fun i =>
      gangAt r (p.slots[i]?.getD 0) (if i + 1 = n ∧ !handler then r.lastLanes else r.width))
    tapBlocks := [], tapRows := [], dictReady := ready, origins := [], draining := false, preempt := .none, focus := none
    resumedBy := [] }

/-- A fragment that begins at an address. -/
def fragAt (id : Nat) (quads : List Nat) (pc : Reg) (entry : Option Nat) (clk : Nat) : Frag :=
  { id := id, quads := quads, pc := pc, state := .eligible, entry := entry, lastIssue := clk, waited := 0, promoted := none
    overlay := none, code := none, ret := none, grant := none, frozen := none, ckpt := [], handler := false, skip := 0
    since := clk, spillNo := 0, busy := 0 }

/-- Start a gang: one fragment of its quads (R170). -/
def State.startGang (s : State) (gid gang : Nat) (pc : Reg) : State :=
  let r := s.takeEntry (coreOf gid) { gid := gid, gang := gang, frag := 0 }
  r.1.updGang gid gang (fun g =>
    { g with frags := [fragAt 0 ((List.range 16).filter (fun q => (g.quad q).present)) pc r.2 (s.clkOf (coreOf gid))], nextFrag := 1 })

/-- The launch holds a dictionary store of the core; whether it is loaded. -/
def State.holdDict (s : State) (core l : Nat) (r : LaunchRec) : State × Bool :=
  if r.dict = 0 then (s, true)
  else
    match (s.core core).dictFor l with
    | none => (s, false)
    | some i =>
      let d := (s.core core).dicts[i]?.getD DictStore.free
      if d.launch = some l then (s, !d.words.isEmpty)
      else (s.updCore core (fun k => { k with dicts := k.dicts.setIfInBounds i { launch := some l, words := [] } }), false)

/-- Place a group in a spot, with its PLACE record (R414): the state and the group's key. -/
def State.placeGroup (s : State) (core l index : Nat) (lau : Launch) (handler : Bool) (p : Spot) : State × Nat :=
  let gid := core * Config.groupsPerCore + p.place
  let d := s.holdDict core l lau.rcd
  let g := groupAt l index lau handler s.now p d.2
  let s1 : State := { d.1 with groups := d.1.groups.set gid g }
  let s2 := (List.range g.gangs.length).foldl (fun s i =>
    s.startGang gid i (if handler then lau.rcd.tapEntry else lau.rcd.entry)) s1
  (s2.trace lau.func core 3 p.place g.indexReg, gid)

/-- Place an ordinary group on a core, with the tap handler group that it brings (R142). -/
def State.placeOn (s : State) (core l index : Nat) (lau : Launch) : State × Option Nat :=
  match (s.loadOf core).spots lau.rcd (s.bringsHandler core l lau.rcd) with
  | none => (s, none)
  | some (a, b) =>
    let r := s.placeGroup core l index lau false a
    match b with
    | none => (r.1, some r.2)
    | some h => ((r.1.placeGroup core l 0 lau true h).1, some r.2)

/-- Two groups are peers of a cluster. -/
def State.pairUp (s : State) (a b : Option Nat) : State :=
  match a, b with
  | some x, some y => (s.updGroup x (fun g => { g with peer := some y })).updGroup y (fun g => { g with peer := some x })
  | _, _ => s

/-- Place the group, or the cluster, whose index was claimed. -/
def State.placeClaim (s : State) (core l index : Nat) (lau : Launch) : State :=
  if lau.rcd.cluster then
    let a := s.placeOn core l index lau
    let b := a.1.placeOn (core + 1) l (index + 1) lau
    b.1.pairUp a.2 b.2
  else (s.placeOn core l index lau).1

/-! ### Which launch (R159, R200) -/

/-- Every gang of a launch has recorded its trigger or exited, all of its groups being placed (R159). -/
def State.allTriggered (s : State) (l : Nat) (lau : Launch) : Bool :=
  lau.complete ||
  (lau.allClaimed &&
    s.groups.all (fun g => g.2.launch != l || g.2.handlerOf || g.2.draining ||
      g.2.gangs.all (fun x => x.triggered || x.frags.isEmpty)) &&
    lau.saved.all (fun i => (List.range lau.rcd.gangs).all (fun k => lau.triggers.contains (i, k))))

/-- The launch may start (R200, R202). -/
def State.mayStart (s : State) (l : Nat) : Bool :=
  match s.launches.find l with
  | none => false
  | some lau =>
    lau.blocked.isNone && decide (lau.notBefore ≤ s.now) && !s.hostsOut lau.hosts && !lau.terminated && !lau.allClaimed &&
    (match lau.dep with
     | none => true
     | some d => match s.launches.find d with
       | none => true
       | some p => s.allTriggered d p)

/-- The launches of the run list that may start, oldest first. -/
def State.startable (s : State) : List Nat :=
  s.runList.filterMap (fun r => match r with
    | .launch l => if s.mayStart l then some l else none
    | .resume _ _ _ _ _ => none)

/-- HEAD_SKIPS of a launch as an agent reads it. -/
def State.headSkips (s : State) (core l : Nat) : Nat :=
  match s.launches.find l with
  | none => 0
  | some lau =>
    match s.unitWord lau.func lau.aspace (lau.rcd.ticket.toNat + 8) 4 .read core with
    | .ok r => r.2
    | .error _ => 0

/-! ### Claiming (R202) -/

/-- DETAIL0 of an UNCORRECTABLE fault at an address: the physical one (R219). -/
def State.badPa (s : State) (core func aspace : Nat) (e : Reason × Nat) : Nat :=
  match e.1, s.xlNow core func aspace e.2 .read with
  | .uncorrectable, .ok pa => pa
  | _, _ => 0

/-- A launch ends for a fault on its ticket line, with a KIND 3 entry. -/
def State.ticketEnd (s : State) (core l : Nat) (lau : Launch) (e : Reason × Nat) : State :=
  (s.terminate l).append l core { reason := e.1, kind := 3, tick := s.now, d0 := BitVec.ofNat 64 (s.badPa core lau.func lau.aspace e) }

/-- A fault on a ticket line: parked and passed over, or the launch ends. -/
def State.ticketFault (s : State) (core l : Nat) (lau : Launch) (e : Reason × Nat) : State :=
  if e.1.replayable then
    (s.park (dieOf core) lau.func lau.aspace e.2 .atomic e.1 (.ticket l)).updLaunch l (fun x => { x with blocked := some core })
  else s.ticketEnd core l lau e

/-- Steps 3 and 4: HEAD_SKIPS of the head counts a skip, or is written to 0. -/
def State.headNote (s : State) (core head : Nat) (isHead : Bool) : State :=
  match s.launches.find head with
  | none => s
  | some h =>
    let va := h.rcd.ticket.toNat + 8
    if isHead then
      match s.unitStore h.func h.aspace (some head) va (toLE 4 0) 0 core with
      | .ok r => r.1
      | .error e => s.ticketFault core head h e
    else
      match s.unitAtomic h.func h.aspace (some head) va 0 2 1 core with
      | .ok r => r.1
      | .error e => s.ticketFault core head h e

/-- The launch leaves the run list. -/
def State.offList (s : State) (l : Nat) : State :=
  State.updLaunch { s with runList := s.runList.filter (fun r => r != .launch l) } l (fun x => { x with allClaimed := true })

/-- The launch that a core's agent takes: the first that may start and fits; only the head once its HEAD_SKIPS is 16. -/
def State.takes (s : State) (core : Nat) : Option (Nat × Nat) :=
  match s.startable with
  | [] => none
  | head :: t =>
    let among := if 16 ≤ s.headSkips core head then [head] else head :: t
    (among.find? (fun l => ((s.launches.find l).map (fun x => s.fitsFrom core l x.rcd)).getD false)).map (fun l => (head, l))

/-- The fragments of groups placed since `old` issue from a tick on. -/
def State.holdNew (s : State) (old : SMap Group) (t : Nat) : State :=
  if t ≤ s.now then s
  else
    { s with groups := s.groups.map (fun g =>
        if (old.find g.1).isSome then g
        else (g.1, { g.2 with gangs := g.2.gangs.map (fun x =>
          { x with frags := x.frags.map (fun f => { f with state := .stalled (.until t) }) }) })) }

/-- The agent of a core claims and places a group or a cluster of a launch; what it places runs once its fetch-add has
returned (log 81). -/
def State.claim (s : State) (core : Nat) : Option State :=
  if Config.cores ≤ core then none
  else
    match s.takes core with
    | none => none
    | some (head, l) =>
      match s.launches.find l with
      | none => none
      | some lau =>
        let n := if lau.rcd.cluster then 2 else 1
        match s.unitAtomic lau.func lau.aspace (some l) lau.rcd.ticket.toNat 0 3 n core with
        | .error e => some (s.ticketFault core l lau e)
        | .ok (s1, x, t) =>
          if lau.rcd.groups ≤ x then some (s1.offList l)
          else
            let s2 := ((s1.placeClaim core l x lau).holdNew s1.groups t).updLaunch l (fun y =>
              { y with claimed := y.claimed + n, start := if y.claimed = 0 then s.now else y.start })
            let s3 := if lau.rcd.groups ≤ x + n then s2.offList l else s2
            some ((s3.headNote core head (head == l)).agentWorks core)

/-! ### Drain and completion (R123, R159) -/

/-- Nothing of the group is outstanding: accesses, engine commands, passes and bank loads, stores. -/
def State.drained (s : State) (gid : Nat) : Bool :=
  let mine : Who → Bool := fun w => w.gid == gid
  !s.reqs.any (fun r => r.parts.any (fun p => (p.who.map mine).getD false)) &&
  s.cores.all (fun k => !k.2.queue.any (fun c => mine c.who) && !k.2.rsvs.any (fun r => mine r.who) &&
    !k.2.storeJobs.any (fun j => mine j.who))

/-- Take a group off its core: what it held is free (R201), its dictionary store with the last group of its kernel
(R194). -/
def State.freeGroup (s : State) (gid : Nat) : State :=
  match s.groups.find gid with
  | none => s
  | some g =>
    let core := coreOf gid
    let s1 : State := { s with
      groups := (s.groups.del gid).map (fun x => if x.2.peer = some gid then (x.1, { x.2 with peer := none }) else x)
      pending := s.pending.map (fun p => { p with gangs := p.gangs.filter (fun k => k.1 != gid) }) }
    if s1.groups.any (fun x => coreOf x.1 == core && x.2.launch == g.launch) then s1
    else s1.updCore core (fun k =>
      { k with dicts := Vector.ofFn (fun i : Fin 4 => if k.dicts[i].launch = some g.launch then DictStore.free else k.dicts[i]) })

/-- GROUP_DRAIN_COMPLETE. -/
def State.evGroupDrainComplete (s : State) (gid : Nat) : Option State :=
  match s.groups.find gid with
  | none => none
  | some g =>
    if !g.draining || !s.drained gid then none
    else
      let func := ((s.launches.find g.launch).map Launch.func).getD Config.physFn
      let s1 := (s.freeGroup gid).endResumes func g.resumedBy
      some (if g.handlerOf then s1 else s1.updLaunch g.launch (fun x => { x with exited := x.exited + 1 }))

/-- LAUNCH_COMPLETE: all groups have exited and drained, and every write has reached its time. -/
def State.evLaunchComplete (s : State) (l : Nat) : Option State :=
  match s.launches.find l with
  | none => none
  | some lau =>
    if lau.complete || !lau.allClaimed || s.groups.any (fun g => g.2.launch == l) || decide (s.now < lau.latest)
       || (!lau.terminated && (decide (lau.exited < lau.claimed) || !lau.saved.isEmpty)) then none
    else some (s.updLaunch l (fun x => { x with complete := true }))

def execGroupDrainComplete (gid : Nat) (s : State) := s.unitStep (s.evGroupDrainComplete gid)
def execLaunchComplete (launch : Nat) (s : State) := s.unitStep (s.evLaunchComplete launch)

end Sys2Proof.Machine
end

