-- ==== Sys2Proof/Machine/EvFault.lean ====
section
/-!
DEFINITION. The delivery of faults and the host's answers (R31, R220, R221, R223, R397).
-/

namespace Sys2Proof.Machine

/-! ### Delivery (R220, R221) -/

/-- The entry of a fragment's fault (R218, R219). -/
def Ctx.entryOf (c : Ctx) (i : FaultInfo) (delegated : Bool) : FEntry :=
  { reason := i.reason, kind := 0, delegated := delegated, nested := c.frag.handler, gang := c.who.gang, quads := c.frag.quads
    group := c.grp.indexReg, pc := i.pc, addr := i.addr, lanes := i.lanes, tick := i.tick, d0 := i.d0, d1 := i.d1, d2 := i.d2 }

/-- FAULT_DELIVERY: the agent appends the entry and the host is notified; the fragment waits for its answer. -/
def State.evFaultDelivery (s : State) (w : Who) : Option State :=
  match s.ctxOf w with
  | none => none
  | some c =>
    match c.frag.state with
    | .faulted i none =>
      if i.reason == .codeAbsent || c.delegable i.reason then none
      else
        let r := s.appendAt c.grp.launch c.core (c.entryOf i false)
        some ((match r.2 with
          | some va => r.1.updFrag w (fun f => { f with state := .faulted i (some va) })
          | none => r.1).agentWorks c.core)
    | _ => none

/-- DELEGATED_FAULT: the fragment enters handler mode at COW_ENTRY; while another fragment of its gang is there, it
waits, and then replays its instruction (log 89). -/
def State.evDelegatedFault (s : State) (w : Who) : Option State :=
  match s.ctxOf w with
  | none => none
  | some c =>
    match c.frag.state with
    | .faulted i x =>
      if !c.delegable i.reason then none
      else if c.gang.frags.any (fun f => f.id != w.frag && f.handler) then
        if x.isSome then none else some (s.updFrag w (fun f => { f with state := .faulted i (some 0) }))
      else if x.isSome then some (s.updFrag w (fun f => f.resume i.pc))
      else
        let e := c.entryOf i true
        let r := s.appendAt c.grp.launch c.core e
        if r.2.isNone then some r.1
        else some ((r.1.updGang w.gid w.gang (fun g =>
          { g with frec := Vector.ofFn (fun k : Fin 8 => e.words[k.val]?.getD 0) })).updFrag w (fun f =>
            { f with state := .eligible, handler := true, pc := c.lau.rcd.cowEntry, code := none, grant := none }))
    | _ => none

/-! ### Command queues that stop (R393) -/

def Func.cq (f : Func) (q : Nat) : Cq := f.cqs[q]?.getD Cq.reset
def State.cq (s : State) (func q : Nat) : Cq := (s.fn func).cq q
def State.setCq (s : State) (func q : Nat) (c : Cq) : State := s.updFn func (fun f => { f with cqs := f.cqs.setIfInBounds q c })

/-- A queue's WAIT lets go of its monitor. -/
def State.unwatch (s : State) (func q : Nat) : State := { s with monitors := s.monitors.filter (fun m => m.who != .queue func q) }

/-- A queue stops with a reason, and its event is appended. Where its packet stopped it, that packet is to begin anew; else
the one under way goes on after RESTART. -/
def State.stopQueue (s : State) (func q reason detail : Nat) (byPacket : Bool := true) : State :=
  let c := s.cq func q
  let c1 : Cq := { c with
    stopReason := reason, stopDetail := detail, state := 2, byPacket := byPacket || (c.state == 2 && c.byPacket) }
  let s1 := if byPacket
    then (s.unwatch func q).setCq func q { c1 with parked := none, due := none, hosts := [], woken := false, held := none }
    else s.setCq func q c1
  s1.event func 3 (BitVec.ofNat 64 q) (BitVec.ofNat 64 (reason + 256 * detail)) 0

/-! ### Answers to translation records (R31) -/

/-- Parked work goes on: it walks again. -/
def State.goOn (s : State) (p : Parked) : State :=
  match p with
  | .frag w => s.wake w none
  | .engine core i => s.updCore core (fun k => { k with queue := k.queue.map (fun c => if c.id = i then { c with parked := false } else c) })
  | .hoist _ _ => s
  | .tapRow gid i => s.updGroup gid (fun g => { g with tapRows := g.tapRows.map (fun t => if t.id = i then { t with parked := false } else t) })
  | .pass core i => s.updCore core (fun k => { k with rsvs := k.rsvs.map (fun r => if r.id = i then { r with parked := false } else r) })
  | .ticket l => s.updLaunch l (fun x => { x with blocked := none })
  | .queue func q => s.setCq func q { s.cq func q with parked := none }

/-- Parked work ends in its fault, as its own rule gives. -/
def State.cancelParked (s : State) (x : Parked × Reason × Nat) : State :=
  let e : Reason × Nat := x.2
  match x.1 with
  | .frag w => s.wake w (some (.walkFault e.1 e.2))
  | .engine core i =>
    s.updCore core (fun k => { k with queue := k.queue.map (fun c =>
      if c.id = i then { c with parked := false, stage := .finishing (max c.due s.now), err := some e.1, addr := e.2 } else c) })
  | .hoist core slot => s.updCore core (fun k => k.hoistFailed slot e.1)
  | .tapRow gid i =>
    match (s.groups.find gid).bind (fun g => (g.tapRows.find? (fun t => t.id == i)).bind (fun t => (g.blockOf t).map (fun b => (b, t)))) with
    | some (b, t) => (s.recordRow gid b t.row t.slot e.1).releaseRow gid b t 10
    | none => s
  | .pass core i =>
    match (s.core core).rsv i with
    | some r => s.endRsv core r (some e)
    | none => s
  | .ticket l =>
    match s.launches.find l with
    | some lau => State.ticketEnd (s.updLaunch l (fun y => { y with blocked := none })) (lau.blocked.getD 0) l lau e
    | none => s
  | .queue func q => s.stopQueue func q 4 0

/-- FAULTQ_OVERFLOW_REWALK. -/
def State.evFaultqOverflowRewalk (s : State) (i : Nat) : Option State :=
  match s.rewalks[i]? with
  | none => none
  | some r => if s.now < r.due then none else some (State.goOn { s with rewalks := s.rewalks.eraseIdx i } r.what)

/-! ### The mailbox (R397, R399) -/

/-- A command ends with a RESULT and a VALUE (log 57). -/
def State.hcEnd (s : State) (func result value : Nat) : State :=
  s.updFn func (fun f => { f with hcBusy := false, hcResult := result, hcValue := value })

/-- HC_CMD is written with a code; its reserved bits read zero (R4, R397). It is ignored while BUSY is 1, and until firmware is accepted but for FW_LOAD of the
physical function (R402). -/
def State.hcRun (s : State) (func code : Nat) (run : State → Vector Reg 4 → State) : State :=
  let x := s.fn func
  if Config.physFn < func || x.hcBusy || (!s.trust.accepted && !(code == 0x14 && func == Config.physFn)) then s
  else run (s.updFn func (fun f => { f with hcCmd := BitVec.ofNat 64 (code % 256), hcBusy := true })) x.hcArgs

/-- The fragment's entry is at an address. -/
def Frag.entryAt (f : Frag) (va : Nat) : Bool :=
  match f.state with
  | .faulted i (some x) => x == va && i.reason != .codeAbsent && va != 0
  | _ => false

/-- The fragment of a function whose delivered fault has its entry at an address. -/
def State.faultAt (s : State) (func va : Nat) : Option Ctx :=
  ((List.range Config.cores).flatMap s.fragsOn).find? (fun c => c.lau.func == func && c.frag.entryAt va)

/-- The saved group of a function with such a fragment. -/
def State.savedFault (s : State) (func va : Nat) : Option SaveRec :=
  s.saves.find? (fun x => x.func == func && x.grp.gangs.any (fun g => g.frags.any (fun f => f.entryAt va)))

/-- A part of a cancelled access of the fragment with such a fault. -/
def SaveRec.faultPart (x : SaveRec) (va : Nat) (p : ReqPart) : Bool :=
  (p.who.bind (fun w => x.grp.gangs[w.gang]?.map (fun g => g.frags.any (fun f => f.entryAt va &&
    (if p.lane = 64 then f.id == w.frag else f.quads.contains (p.lane / 4)))))).getD false

/-- A fragment resumes from its checkpoint: an instruction that faulted issues again, an access that failed at its home
slice is sent again, and nothing else (R161, R220). -/
def State.retryFrag (s : State) (c : Ctx) : State :=
  let mine : ReqPart → Bool := fun p => p.ofGang c.who.gid c.who.gang && (p.lane == 64 || c.frag.quads.contains (p.lane / 4))
  State.updFrag { s with reqs := s.reqs.map (fun r =>
    match r.stage with
    | .bad _ => if r.parts.any mine then { r with stage := .flight } else r
    | _ => r) } c.who (fun f => { f with state := .eligible })

/-- RETRY: the fragment resumes (R220, R223), once it is restored where its group is saved. -/
def State.evRetry (s : State) (func : Nat) : State :=
  s.hcRun func 0x02 (fun s a =>
    let va := a[0].toNat
    match s.faultAt func va, s.savedFault func va with
    | some c, _ => (s.retryFrag c).hcEnd func 0 0
    | none, some _ =>
      State.hcEnd { s with saves := s.saves.map (fun x => if x.func != func then x else
        { x with grp := { x.grp with gangs := x.grp.gangs.map (fun g =>
            { g with frags := g.frags.map (fun f => if f.entryAt va then { f with state := .eligible } else f) }) },
                  reqs := x.reqs.map (fun r => if r.parts.any (x.faultPart va) then { r with stage := .flight } else r) }) } func 0 0
    | none, none => s.hcEnd func 5 0)

/-- TERMINATE: every group of the launch exits and drains. -/
def State.evTerminate (s : State) (func : Nat) : State :=
  s.hcRun func 0x03 (fun s a =>
    let va := a[0].toNat
    match s.faultAt func va, s.savedFault func va with
    | some c, _ => (s.terminate c.grp.launch).hcEnd func 0 0
    | none, some x => (s.terminate x.launch).hcEnd func 0 0
    | none, none => s.hcEnd func 5 0)

/-- REPLAY and CANCEL answer a record of the function by its index. -/
def State.answer (s : State) (func code : Nat) (each : State → Parked × Reason × Nat → State) : State :=
  s.hcRun func code (fun s a =>
    match s.xrecs.find? (fun r => 4096 * r.die + r.place == a[0].toNat && r.func == func) with
    | none => s.hcEnd func 5 0
    | some r => (r.parked.foldl each { s with xrecs := s.xrecs.filter (fun x => !(x.die == r.die && x.place == r.place)) }).hcEnd func 0 0)

def State.evReplay (s : State) (func : Nat) : State := s.answer func 0x04 (fun s p => s.goOn p.1)
def State.evCancel (s : State) (func : Nat) : State := s.answer func 0x05 State.cancelParked

def execFaultDelivery (f : Who) (s : State) := s.unitStep (s.evFaultDelivery f)
def execDelegatedFault (f : Who) (s : State) := s.unitStep (s.evDelegatedFault f)
def execFaultqOverflowRewalk (i : Nat) (s : State) := s.unitStep (s.evFaultqOverflowRewalk i)
def execRetry (func : Nat) (s : State) := s.unitStep (some (s.evRetry func))
def execTerminate (func : Nat) (s : State) := s.unitStep (some (s.evTerminate func))
def execReplay (func : Nat) (s : State) := s.unitStep (some (s.evReplay func))
def execCancel (func : Nat) (s : State) := s.unitStep (some (s.evCancel func))

end Sys2Proof.Machine
end

