-- ==== Sys2Proof/Machine/Submit.lean ====
section
/-!
DEFINITION. Launch records: their fields, their checks and how a launch joins the run list (R95, R194, R198 to R200).
-/

namespace Sys2Proof.Machine

/-- The 64-bit words of bytes. -/
def wordsLE (bs : List Byte) : List Nat := (chunks 8 bs.length bs).map leNat

/-- The fields of a record's 32 words (R198). -/
def LaunchRec.parse (ws : List Nat) : LaunchRec :=
  let w : Nat → Nat := fun i => ws[i]?.getD 0
  let r : Nat → Reg := fun i => BitVec.ofNat 64 (w i)
  { entry := r 0, groups := bits (w 1) 32 32, shape := bits (w 1) 0 32, gangs := bits (w 1) 24 4 + 1
    width := 16 * 2 ^ bits (w 1) 22 2, lastLanes := bits (w 1) 16 6 + 1, regs := 8 * bits (w 1) 12 4
    accRows := bits (w 1) 0 10, stash4k := bits (w 2) 32 9, tapMask := bits (w 2) 8 8, cluster := bits (w 2) 1 1 == 1
    det := bits (w 2) 0 1 == 1, dict := r 3, fmtBase := r 4, tapBase := r 5, reqBase := r 6, reqCount := bits (w 7) 0 13
    ticket := r 8, saveBase := r 9, faultBase := r 10, tapEntry := r 11, cowEntry := r 12
    ginit := (List.range 16).map (fun i => r (16 + i)) }

/-- BAD_LAUNCH (R199): RSVD fields, ranges, alignments, clusters. -/
def launchBad (va : Nat) (ws : List Nat) : Bool :=
  let w : Nat → Nat := fun i => ws[i]?.getD 0
  let r := LaunchRec.parse ws
  va % 256 != 0 || bits (w 1) 28 4 != 0 || bits (w 1) 10 2 != 0 || bits (w 2) 41 23 != 0 || bits (w 2) 16 16 != 0
  || bits (w 2) 2 6 != 0 || bits (w 7) 13 51 != 0 || w 13 != 0 || w 14 != 0 || w 15 != 0
  || r.groups == 0 || bits (w 1) 22 2 == 3 || decide (12 < bits (w 1) 12 4) || decide (768 < r.accRows)
  || decide (256 < r.stash4k) || decide (4096 < r.reqCount) || decide (r.width < r.lastLanes)
  || w 0 % 4 != 0 || w 3 % 4096 != 0 || w 4 % 32 != 0 || w 5 % 64 != 0 || w 6 % 64 != 0 || w 8 % 64 != 0
  || (r.cluster && (decide (8 < r.gangs) || r.groups % 2 != 0))

/-- A group, with a tap handler group where there is one, fits an empty core (R199, R201). -/
def LaunchRec.fitsEmpty (r : LaunchRec) : Bool := (Load.none.spots r (r.tapEntry != 0)).isSome

/-- An entry that no dictionary may hold (R194). -/
def badDictWord (w : Word) : Bool := isPair w || decide (1 < wordLen w)

/-- What becomes of a launch record: a fault of a read, a stop of the queue, no room in the run list, or a launch. -/
inductive Submitted where
  | fault (e : Reason × Nat)
  | stop (reason : Nat)
  | full
  | ok (s : State) (l : Nat)

/-- A slot that no instruction may name: one of a FMT_BASE that cannot be read (log 41). -/
def FmtSlot.unread : FmtSlot := { w0 := 0x70, seed := 0, scaleBase := 0, dupBase := 0 }

/-- The eight format slots of a record (R95). -/
def State.readSlots (s : State) (func aspace : Nat) (base : Nat) : State × List FmtSlot :=
  (List.range 8).foldl (fun (a : State × List FmtSlot) i =>
    match a.1.unitLoad func aspace (base + 32 * i) 32 .read with
    | .error _ => (a.1, a.2 ++ [FmtSlot.unread])
    | .ok r =>
      let w : Nat → Reg := fun k => BitVec.ofNat 64 ((wordsLE r.2)[k]?.getD 0)
      (r.1, a.2 ++ [{ w0 := w 0, seed := w 1, scaleBase := w 2, dupBase := w 3 }])) (s, [])

/-- An address lies in a code binding of a function's address space (R181). -/
def State.bound (s : State) (func aspace : Nat) (a : Reg) : Bool := (s.bindingAt func aspace a.toNat).isSome

/-- A launch as it is accepted. -/
def newLaunch (func aspace va : Nat) (queue dep : Option Nat) (rcd : LaunchRec) (dict : List Word) (slots : List FmtSlot) :
    Launch :=
  { func := func, aspace := aspace, va := BitVec.ofNat 64 va, queue := queue, dep := dep, rcd := rcd, dictWords := dict
    slots := slots, claimed := 0, allClaimed := false, exited := 0, saved := [], triggers := [], latest := 0, blocked := none
    notBefore := 0, start := 0, hosts := [], terminated := false, complete := false, lastSync := 0 }

/-- Read and check a record (R388, R199): the launch it makes. `regs` are g16 to g18 of an ARM entry's launch (R395). -/
def State.readLaunch (s : State) (func aspace va : Nat) (queue dep : Option Nat) (regs : List Reg) :
    State × Except (Submitted) Launch :=
  match s.unitLoad func aspace va 256 .frontEnd with
  | .error e => (s, .error (.fault e))
  | .ok (s1, bs) =>
    let ws := wordsLE bs
    let r0 := LaunchRec.parse ws
    let r := { r0 with ginit := r0.ginit ++ regs }
    if launchBad va ws then (s1, .error (.stop 5))
    else if !r.fitsEmpty then (s1, .error (.stop 6))
    else
      match (if r.dict = 0 then .ok (s1, []) else s1.unitLoad func aspace r.dict.toNat 4096 .frontEnd) with
      | .error e => (s1, .error (.fault e))
      | .ok (s2, ds) =>
        let dict := wordsOf ds
        if dict.any badDictWord then (s2, .error (.stop 7))
        else if !s2.bound func aspace r.entry || (r.tapEntry != 0 && !s2.bound func aspace r.tapEntry)
            || (r.cowEntry != 0 && !s2.bound func aspace r.cowEntry) then (s2, .error (.stop 8))
        else
          let f := s2.readSlots func aspace r.fmtBase.toNat
          (f.1, .ok (newLaunch func aspace va queue dep r dict f.2))

/-- A launch gets its number. -/
def State.addLaunch (s : State) (l : Launch) : State × Nat :=
  ({ s with launches := s.launches.set s.nextLaunch l, nextLaunch := s.nextLaunch + 1 }, s.nextLaunch)

/-- A launch record is submitted: it joins the run list, unless the list is full or the record is refused (R199,
R200). -/
def State.submit (s : State) (func aspace va : Nat) (queue dep : Option Nat) (regs : List Reg) : Submitted :=
  match s.readLaunch func aspace va queue dep regs with
  | (_, .error e) => e
  | (s1, .ok l) =>
    if Config.runList ≤ s1.runList.length then .full
    else
      let a := s1.addLaunch l
      .ok { a.1 with runList := a.1.runList ++ [.launch a.2] } a.2

end Sys2Proof.Machine
end

