-- ==== Sys2Proof/Machine/Image.lean ====
section
/-!
DEFINITION. The context image: how a group is written into one, its checks, and how its parts are read back (R83,
R140, R168, R171, R229 to R233).
-/

namespace Sys2Proof.Machine

/-- Where an image's sections begin, and its length (R231). -/
structure Layout where
  gang : Nat
  quad : Nat
  frag : Nat
  lane : Nat
  tap : Nat
  matrix : Nat
  engine : Nat
  stash : Nat
  acc : Nat
  bytes : Nat

/-- The next multiple. -/
def alignUp (n x : Nat) : Nat := (x + n - 1) / n * n

/-- Bytes of a gang's LANE records. -/
def laneBytes (width regs : Nat) : Nat := alignUp 64 (width * regs * 4 + 56)

/-- Items of an image by section: gangs, fragments, rows, queued pennants, entries, commands. -/
structure Counts where
  gangs : Nat
  frags : Nat
  rows : Nat
  pens : Nat
  passes : Nat
  cmds : Nat

/-- The layout of an image of a launch's group. -/
def layoutOf (r : LaunchRec) (handler : Bool) (n : Counts) : Layout :=
  let quad := 0x300 + 1024 * n.gangs
  let frag := quad + 16 * 1024 * n.gangs
  let lane := alignUp 64 (frag + 32 * n.frags)
  let tap := lane + n.gangs * laneBytes r.width r.regs
  let matrix := alignUp 64 (tap + 8 * n.rows + 32 * n.pens)
  let engine := alignUp 64 (matrix + 96 * n.passes)
  let stash := alignUp 4096 (engine + 64 * n.cmds)
  let acc := stash + r.stash4k * 4096
  { gang := 0x300, quad := quad, frag := frag, lane := lane, tap := tap, matrix := matrix, engine := engine, stash := stash
    acc := acc, bytes := acc + (if handler then 0 else r.accRows * 4096) }

/-! ### Writing (R229 to R231) -/

/-- Zeros up to a length. -/
def fillTo (n : Nat) (l : List Byte) : List Byte := l ++ List.replicate (n - l.length) 0

/-- Sections at their offsets, rising, with zeros between. -/
def placeAll (ss : List (Nat × List Byte)) (n : Nat) : List Byte := fillTo n (ss.foldl (fun l x => fillTo x.1 l ++ x.2) [])

/-- A GANG record. -/
def Gang.record (g : Gang) : List Byte :=
  placeAll [(0, wordBytes g.g.toList), (0x100, wordBytes g.m.toList),
    (0x140, g.h.toList.flatMap (fun h => wordBytes [h.base, h.dims, h.stride, h.genSlot])), (0x340, toLE 8 g.wct),
    (0x348, toLE 8 g.fsticky.toNat),
    (0x350, toLE 8 ((List.range 7).foldl (fun n i => if g.qpred i then n + 2 ^ i else n) (if g.frags.any Frag.handler then 256 else 0))),
    (0x358, toLE 8 g.batchNo), (0x360, wordBytes g.frec.toList),
    (0x3A0, g.pins.flatMap (fun p => toLE 4 (p.1 * 65536 + p.2)))] 1024

/-- A mask-stack entry (R168). -/
def MaskEntry.words (e : MaskEntry) : List Reg :=
  [BitVec.ofNat 64 (fld e.resume 1 56 * 2), BitVec.ofNat 64 ((e.join.map (fun j => fld j 1 56 * 2 + 1)).getD 0),
   BitVec.ofNat 64 ((if e.phase then 512 else 0) + e.doneMask.toNat * 16 + e.other.toNat)]

/-- A QUAD record; an absent quad's is zero. -/
def Quad.record (q : Quad) : List Byte :=
  if !q.present then List.replicate 1024 0
  else
    placeAll [(0, toLE 8 q.dix.toNat), (8, toLE 8 (q.mask.toNat + q.stack.length * 256)),
      (0x40, q.stack.reverse.flatMap (fun e => wordBytes e.words))] 1024

/-- The instructions of a fragment that have an access among some requests. -/
def Frag.insIn (f : Frag) (gid gang : Nat) (rs : List Req) : List Nat :=
  rs.flatMap (fun r => r.parts.filterMap (fun p =>
    if p.ofGang gid gang && (if p.lane = 64 then p.who.map Who.frag == some f.id else f.quads.contains (p.lane / 4)) then some p.ins
    else none))

/-- PC and SKIP of a fragment whose halt cancelled accesses of some instructions (R161, R226, R231): the oldest of these,
and the later memory instructions that are performed. -/
def Frag.replayAt (f : Frag) (cut : List Nat) : Reg × BitVec 32 :=
  let open0 : Nat × Reg → Bool := fun x => x.1 != 0 && cut.contains (x.1 - 1)
  match f.ckpt.dropWhile (fun x => !open0 x) with
  | [] => (f.pc, f.skip)
  | x :: t =>
    let l := x :: t
    (x.2, BitVec.ofNat 32 (l.zipIdx.foldl (fun n y => if open0 y.1 then n else n + 2 ^ y.2) (f.skip.toNat * 2 ^ l.length)))

/-- A FRAG record; `cut` are the requests that the halt cancelled. -/
def Frag.record (f : Frag) (slot gid gang : Nat) (cut : List Req) : List Byte :=
  let r := f.replayAt (f.insIn gid gang cut)
  ({ f with pc := r.1 } : Frag).tableEntry slot ++ toLE 8 (r.2.toNat * 2 ^ 32) ++ toLE 8 0

/-- A gang's LANE records. -/
def Gang.laneRecord (g : Gang) (width regs : Nat) : List Byte :=
  fillTo (laneBytes width regs)
    ((List.range regs).flatMap (fun r => (List.range width).flatMap (fun l => toLE 4 (g.rdV r l).toNat))
      ++ (List.range 7).flatMap (fun p => toLE 8 (g.p[p]?.getD 0).toNat))

/-- Row states as images hold them (R231). -/
def TapState.code : TapState → Nat
  | .waiting | .encoding => 0
  | .applying => 2
  | .held => 3
  | .handling => 4
  | .ready => 5

def TapRow.imageRecord (t : TapRow) : List Byte :=
  toLE 8 (t.state.code + t.status * 2 ^ 8 + t.encCount * 2 ^ 16 + t.tap * 2 ^ 19 + t.pennant * 2 ^ 32)

/-- A MATRIX record. -/
def Rsv.record (r : Rsv) : List Byte :=
  placeAll [(0, toLE 4 r.words.1.toNat ++ toLE 4 r.words.2.toNat),
    (0x10, toLE 8 r.gacc.toNat ++ toLE 8 r.gp.toNat ++ toLE 8 (r.origin.1 * 2 ^ 32 + r.origin.2)),
    (0x30, toLE 8 r.next), (0x38, toLE 8 r.number), (0x40, toLE 32 r.rr.toNat)] 96

/-- An ENGINE record: a command that was not accepted. -/
def Cmd.record (x : Cmd) : List Byte :=
  placeAll [(0, toLE 4 x.words.1.toNat ++ toLE 4 x.words.2.toNat),
    (0x10, toLE 8 x.ga.toNat ++ toLE 8 x.gw.toNat ++ toLE 8 x.gc.toNat), (0x28, toLE 8 x.batch), (0x30, toLE 8 x.number), (0x38, toLE 8 x.wct)] 64

/-- ISSUED and COUNT of a slot's context of KIND 1 to 3 (R83). -/
def State.slotCounter (s : State) (func gid : Nat) (v : Reg) : Counter :=
  match boundCtx func gid v with
  | some (.coll _ _) | none => Counter.zero
  | some x => s.counter x

/-- The group record (R230). -/
def State.groupRecord (s : State) (func gid : Nat) (g : Group) : List Byte :=
  let cs := g.tcbind.toList.map (s.slotCounter func gid)
  wordBytes g.smap.toList ++ toLE 32 g.rready.toNat ++ toLE 32 g.rpend.toNat
    ++ g.bars.toList.flatMap (fun b => toLE 4 ((if b.phase then 2 ^ 31 else 0) + b.expected.toNat * 4096 + b.arrived.toNat))
    ++ g.halyard.toList.flatMap (fun n => toLE 2 n.toNat) ++ fillTo 0x30 (toLE 8 g.mcast.toNat)
    ++ wordBytes g.tcbind.toList ++ cs.flatMap (fun c => toLE 8 c.issued) ++ fillTo 0x80 (cs.flatMap (fun c => toLE 8 c.count))

/-- The partition: window lines hold no data. -/
def Group.stashImage (g : Group) (n : Nat) : List Byte :=
  (List.range n).map (fun i => if g.offInWindow i then 0 else SMap.get 0 g.stash i)

/-- The header (R229), with SAVED_TICK and CHECKSUM zero. -/
def imageHeader (func bytes : Nat) (l : Launch) (group halt : Nat) (y : Layout) (n : Counts) : List Byte :=
  [0x5A43584900010000, func * 2 ^ 32 + bytes, l.va.toNat, group * 2 ^ 32 + l.rcd.shape, l.rcd.stash4k * 2 ^ 32 + l.aspace, halt, 0, 0,
    y.gang, y.quad, y.frag, y.lane, y.tap, y.matrix, y.engine, y.stash, y.acc,
    n.frags * 2 ^ 48 + n.passes * 2 ^ 40 + n.cmds * 2 ^ 32 + n.pens * 2 ^ 16 + n.rows].flatMap (toLE 8)

/-- The image of a halted group with its entries, its queued pennants, the requests that its halt cancelled and the
commands not accepted, STATUS SAVING. -/
def State.imageOf (s : State) (gid : Nat) (g : Group) (l : Launch) (halt : Nat) (rsvs : List Rsv) (pens : List Pennant)
    (cut : List Req) (cmds : List Cmd) : List Byte :=
  let r := l.rcd
  let fs := (g.gangs.mapIdx (fun i x => x.frags.map (fun f => f.record x.slot gid i cut))).flatten
  let n : Counts :=
    { gangs := g.gangs.length, frags := fs.length, rows := g.tapRows.length, pens := pens.length, passes := rsvs.length
      cmds := cmds.length }
  let y := layoutOf r g.handlerOf n
  placeAll [(0, imageHeader l.func y.bytes l g.indexReg halt y n), (0x100, s.groupRecord l.func gid g),
    (y.gang, g.gangs.flatMap Gang.record), (y.quad, g.gangs.flatMap (fun x => x.quads.toList.flatMap Quad.record)),
    (y.frag, fs.flatten), (y.lane, g.gangs.flatMap (fun x => x.laneRecord r.width r.regs)),
    (y.tap, g.tapRows.flatMap TapRow.imageRecord ++ pens.flatMap (fun p => wordBytes p.words)),
    (y.matrix, rsvs.flatMap Rsv.record), (y.engine, cmds.flatMap Cmd.record), (y.stash, g.stashImage (r.stash4k * 4096)),
    (y.acc, if g.handlerOf then [] else (List.range r.accRows).flatMap (fun i => (g.accRow i).flatMap (fun w => toLE 4 w.toNat)))] y.bytes

/-- Bytes over others from an offset. -/
def patch (l : List Byte) (off : Nat) (b : List Byte) : List Byte := l.take off ++ b ++ l.drop (off + b.length)

/-- The checksum of an image (R229). -/
def imageSum (img : List Byte) : Nat := leNat ((shake256 (patch img 0x38 (toLE 8 0))).take 8)

/-- The finished image: SAVED_TICK, STATUS COMPLETE, CHECKSUM. -/
def imageDone (img : List Byte) (tick : Nat) : List Byte :=
  let a := patch (patch img 0x30 (toLE 8 tick)) 0 (toLE 8 0x5A43584900010001)
  patch a 0x38 (toLE 8 (imageSum a))

/-! ### Reading and checking (R232) -/

/-- The 64-bit word at an offset, and n bytes there. -/
def sec (img : List Byte) (off n : Nat) : List Byte := (img.drop off).take n
def word (img : List Byte) (off : Nat) : Nat := leNat (sec img off 8)

/-- SHAPE of an image as a launch record's word holds it, with its partition (R229). -/
def imageShape (img : List Byte) : LaunchRec := LaunchRec.parse [0, bits (word img 0x18) 0 32, bits (word img 0x20) 32 9 * 2 ^ 32]

/-- A tap handler group's image. -/
def imageHandler (img : List Byte) : Bool := bits (word img 0x18) 32 32 == 0xFFFFFFFF

/-- The counts of an image. -/
def imageCounts (img : List Byte) : Counts :=
  let w := word img 0x88
  { gangs := if imageHandler img then 1 else (imageShape img).gangs, frags := bits w 48 16, rows := bits w 0 16, pens := bits w 16 16
    passes := bits w 40 8, cmds := bits w 32 8 }

/-- The offsets of an image's header. -/
def imageLayout (img : List Byte) : Layout :=
  { gang := word img 0x40, quad := word img 0x48, frag := word img 0x50, lane := word img 0x58, tap := word img 0x60
    matrix := word img 0x68, engine := word img 0x70, stash := word img 0x78, acc := word img 0x80, bytes := bits (word img 8) 0 32 }

/-- Parts of equal length. -/
def records (img : List Byte) (off n count : Nat) : List (List Byte) := chunks n count (sec img off (n * count))

/-- The mask-stack entries of a QUAD record, bottom first, as words. -/
def quadStack (q : List Byte) : List (List Nat) := (records q 0x40 24 (bits (word q 8) 8 6)).map wordsLE

/-- Check 2: a nonzero RSVD field. -/
def imageRsvd (img : List Byte) : Bool :=
  let n := imageCounts img
  let y := imageLayout img
  let some1 : List Byte → Bool := fun l => l.any (fun b => b != 0)
  bits (word img 0) 2 14 != 0 || bits (word img 8) 41 23 != 0 || bits (word img 0x20) 41 23 != 0 || bits (word img 0x20) 4 28 != 0
  || some1 (sec img 0x90 0x70) || some1 (sec img 0x2C0 0x40)
  || (wordsLE (sec img 0x100 64)).any (fun w => bits w 0 3 != 0)
  || (chunks 4 16 (sec img 0x180 64)).any (fun b => bits (leNat b) 24 7 != 0)
  || bits (word img 0x1D0) 13 51 != 0 || (wordsLE (sec img 0x200 64)).any (fun w => bits w 8 2 != 0)
  || (records img y.gang 1024 n.gangs).any (fun g => some1 (g.drop 0x3E0) || bits (word g 0x350) 7 1 != 0 || bits (word g 0x350) 9 55 != 0)
  || (records img y.frag 32 n.frags).any (fun f => bits (word f 8) 48 5 != 0 || bits (word f 8) 0 32 != 0 || bits (word f 0) 57 7 != 0
      || bits (word f 0) 0 1 != 0 || bits (word f 16) 0 32 != 0 || word f 24 != 0)
  || (records img y.matrix 96 n.passes).any (fun m => bits (word m 0x30) 16 48 != 0)

/-- Check 3: an offset or count out of range, or a section past BYTES. -/
def imageRange (img : List Byte) : Bool :=
  let n := imageCounts img
  let y := imageLayout img
  let r := imageShape img
  let ok : Nat → Nat → Nat → Bool := fun off len al => decide (0x300 ≤ off) && off % al == 0 && decide (off + len ≤ y.bytes)
  !(decide (1 ≤ n.frags) && decide (n.frags ≤ 256) && decide (n.passes ≤ 32) && decide (n.cmds ≤ 16) && decide (n.pens ≤ 256)
    && decide (n.rows ≤ 256) && ok y.gang (1024 * n.gangs) 64 && ok y.quad (16384 * n.gangs) 64 && ok y.frag (32 * n.frags) 64
    && ok y.lane (n.gangs * laneBytes r.width r.regs) 64 && ok y.tap (8 * n.rows + 32 * n.pens) 64 && ok y.matrix (96 * n.passes) 64
    && ok y.engine (64 * n.cmds) 64 && ok y.stash (r.stash4k * 4096) 4096
    && ok y.acc (if imageHandler img then 0 else r.accRows * 4096) 4096)

/-- Check 6: a value outside its field's range. -/
def imageValues (img : List Byte) : Bool :=
  let n := imageCounts img
  let y := imageLayout img
  let r := imageShape img
  let badEntry : List Nat → Bool := fun e =>
    let w : Nat → Nat := fun i => e[i]?.getD 0
    bits (w 0) 57 7 != 0 || bits (w 0) 0 1 != 0 || bits (w 1) 57 7 != 0 || bits (w 2) 10 54 != 0 || bits (w 2) 8 1 != 0
  bits (word img 0x18) 22 2 == 3 || decide (12 < bits (word img 0x18) 12 4) || decide (768 < r.accRows) || decide (256 < r.stash4k)
  || decide (r.width < r.lastLanes)
  || (wordsLE (sec img 0x100 64)).any (fun w => decide (r.stash4k < bits w 11 8 + bits w 3 8))
  || (chunks 2 8 (sec img 0x1C0 16)).any (fun b => decide (4096 ≤ leNat b))
  || (wordsLE (sec img 0x200 64)).any (fun w => decide (5 < bits w 4 4) || (bits w 4 4 == 3 && decide (8 ≤ bits w 0 4)))
  || (records img y.gang 1024 n.gangs).any (fun g => decide (16 ≤ word g 0x348))
  || (records img y.quad 1024 (16 * n.gangs)).any (fun q => decide (32 < bits (word q 8) 8 6) || (quadStack q).any badEntry)
  || (records img y.frag 32 n.frags).any (fun f => bits (word f 8) 63 1 == 0 || decide (4 < bits (word f 8) 60 3)
      || bits (word f 8) 32 16 == 0 || decide (r.width / 4 ≤ Nat.log2 (bits (word f 8) 32 16)))
  || (records img y.tap 8 n.rows).any (fun t => [1].contains (bits (word t 0) 0 8) || decide (5 < bits (word t 0) 0 8) || decide (4 < bits (word t 0) 16 3))
  || (records img y.matrix 96 n.passes).any (fun m => decide (256 < bits (word m 0x30) 0 16))

/-- The first check of R232 that fails, by its number. -/
def imageCheck (func : Nat) (img : List Byte) : Option Nat :=
  if word img 0 / 65536 ≠ 0x5A4358490001 ∨ bits (word img 0) 0 2 ≠ 1 then some 1
  else if imageRsvd img then some 2
  else if imageRange img then some 3
  else if imageSum img ≠ word img 0x38 then some 4
  else if bits (word img 8) 32 9 ≠ func then some 5
  else if imageValues img then some 6
  else none

/-- Read an image through a function's own translation: its header gives the length. An image that cannot be read fails
check 1 (log 42). -/
def State.readImage (s : State) (core func aspace va : Nat) : Except Nat (State × List Byte) :=
  match s.unitLoad func aspace va 256 .read 0 core with
  | .error _ => .error 1
  | .ok (s1, h) =>
    match s1.unitLoad func aspace va (max 256 (bits (word h 8) 0 32)) .read 0 core with
    | .error _ => .error 1
    | .ok (s2, img) =>
      match imageCheck func img with
      | some k => .error k
      | none => .ok (s2, img)

/-! ### The parts read back (R233) -/

def regOf (x : Nat) : Reg := BitVec.ofNat 64 x

/-- A mask-stack entry of three words. -/
def MaskEntry.parse (e : List Nat) : MaskEntry :=
  let w : Nat → Nat := fun i => e[i]?.getD 0
  { resume := regOf (w 0), join := if bits (w 1) 0 1 = 1 then some (regOf (bits (w 1) 1 56 * 2)) else none
    phase := bits (w 2) 9 1 == 1, doneMask := BitVec.ofNat 4 (bits (w 2) 4 4), other := BitVec.ofNat 4 (bits (w 2) 0 4) }

/-- A quad of a gang; whether it is present is the gang's, and so is %lclk, where it is kept: else %dix stands for it (log 40). -/
def Quad.parse (base : Quad) (q : List Byte) : Quad :=
  if !base.present then base
  else { base with mask := BitVec.ofNat 4 (bits (word q 8) 0 4), stack := ((quadStack q).map MaskEntry.parse).reverse, dix := regOf (word q 0), lclk := if base.lclk = 0 then regOf (word q 0) else base.lclk }

/-- A gang's registers from its GANG, QUAD and LANE records. -/
def Gang.parse (base : Gang) (width regs : Nat) (g : List Byte) (qs : List (List Byte)) (lane : List Byte) : Gang :=
  let w : Nat → Reg := fun off => regOf (word g off)
  let h : Nat → Handle := fun i =>
    { base := w (0x140 + 32 * i), dims := w (0x148 + 32 * i), stride := w (0x150 + 32 * i), genSlot := w (0x158 + 32 * i) }
  let v := (chunks 4 (regs * width) (lane.take (4 * regs * width))).map (fun b => BitVec.ofNat 32 (leNat b))
  { base with
    g := Vector.ofFn (fun i : Fin 32 => w (8 * i.val)), m := Vector.ofFn (fun i : Fin 8 => w (0x100 + 8 * i.val))
    h := Vector.ofFn (fun i : Fin 16 => h i.val), wct := word g 0x340, fsticky := BitVec.ofNat 4 (word g 0x348)
    q := Vector.ofFn (fun i : Fin 8 => decide (i.val < 7) && bits (word g 0x350) i.val 1 == 1), batchNo := word g 0x358
    frec := Vector.ofFn (fun i : Fin 8 => w (0x360 + 8 * i.val))
    pins := ((List.range 16).map (fun i => leNat (sec g (0x3A0 + 4 * i) 4))).filterMap (fun x =>
      if x % 65536 = 0 then none else some (x / 65536, x % 65536))
    v := (v.foldl (fun (a : SMap Word × Nat) x => (SMap.put 0 a.1 (a.2 / width * 64 + a.2 % width) x, a.2 + 1)) ([], 0)).1
    p := Vector.ofFn (fun i : Fin 8 => if i.val < 7 then regOf (word lane (4 * regs * width + 8 * i.val)) else 0)
    quads := Vector.ofFn (fun i : Fin 16 => Quad.parse base.quads[i] (qs[i.val]?.getD [])) }

/-- A counter at the ISSUED and COUNT of an image. -/
def Counter.at (c : Counter) (issued count : Nat) : Counter :=
  let c1 := { c with issued := issued, count := count, done := c.done.filter (fun x => decide (count < x)) }
  c1.advance

/-- The group-wide state of a group from its image (R230, R83). -/
def Group.parse (base : Group) (func gid : Nat) (img : List Byte) : Group :=
  let w : Nat → Reg := fun off => regOf (word img off)
  let g : Group := { base with
    smap := Vector.ofFn (fun i : Fin 8 => w (0x100 + 8 * i.val)), rready := BitVec.ofNat 256 (leNat (sec img 0x140 32))
    rpend := BitVec.ofNat 256 (leNat (sec img 0x160 32))
    bars := Vector.ofFn (fun i : Fin 16 =>
      let x := leNat (sec img (0x180 + 4 * i.val) 4)
      { base.bars[i] with phase := bits x 31 1 == 1, expected := BitVec.ofNat 12 (bits x 12 12), arrived := BitVec.ofNat 12 (bits x 0 12) })
    halyard := Vector.ofFn (fun i : Fin 8 => BitVec.ofNat 12 (leNat (sec img (0x1C0 + 2 * i.val) 2))), mcast := w 0x1D0
    tcbind := Vector.ofFn (fun i : Fin 8 => w (0x200 + 8 * i.val)) }
  (List.range 8).foldl (fun (g : Group) i =>
    let n := word img (0x240 + 8 * i)
    let k := word img (0x280 + 8 * i)
    match boundCtx func gid (w (0x200 + 8 * i)) with
    | some (.matrix _) => { g with matrix := g.matrix.at n k }
    | some (.tap _ t) => { g with taps := g.taps.setIfInBounds t ((g.taps[t]?.getD Counter.zero).at n k) }
    | _ => g) g

/-- The partition and the accumulator rows of an image. -/
def Group.parseData (g : Group) (img : List Byte) : Group :=
  let y := imageLayout img
  let r := imageShape img
  let rows := if imageHandler img then 0 else r.accRows
  { g with
    stash := Memory.write [] 0 (sec img y.stash (r.stash4k * 4096))
    acc := (List.range rows).map (fun i => (i, wordsOf (sec img (y.acc + 4096 * i) 4096))) }

end Sys2Proof.Machine
end

