-- ==== Sys2Proof/Machine/EvPreempt.lean ====
section
/-!
DEFINITION. Pre-emption: the claim of an image slot, the halt, the save, the restore, and lane focus (R60, R83, R145,
R225 to R228, R233, R405, R407 to R409).
-/

namespace Sys2Proof.Machine

/-! ### The slot (R225, R228) -/

/-- Claim the lowest clear bit of a bitmap's bits by atomic OR, from a core: with the OR's T; `none` where each is set. -/
def State.claimBit (s : State) (core func aspace l base : Nat) : List Nat → Except (Reason × Nat) (State × Option (Nat × Nat))
  | [] => .ok (s, none)
  | b :: t =>
    match s.unitAtomic func aspace (some l) (base + 0x40 + b / 64 * 8) 5 3 (2 ^ (b % 64)) core with
    | .error e => .error e
    | .ok (s1, old, due) => if bits old (b % 64) 1 = 0 then .ok (s1, some (b, due)) else s1.claimBit core func aspace l base t

/-- The agent claims a slot of a launch's save region. -/
def State.claimSlot (s : State) (core l : Nat) (lau : Launch) : Except (Reason × Nat) (State × Option (Nat × Nat)) :=
  let base := lau.rcd.saveBase.toNat
  match s.unitWord lau.func lau.aspace base 4 .read core with
  | .error e => .error e
  | .ok (s1, slots) =>
    match s1.unitLoad lau.func lau.aspace (base + 0x40) 0xFC0 .read 0 core with
    | .error e => .error e
    | .ok (s2, map) =>
      let clear : Nat → Bool := fun b => decide (b < slots) && !((map[b / 8]?.getD 0).getLsbD (b % 8))
      s2.claimBit core lau.func lau.aspace l base ((List.range (0xFC0 * 8)).filter clear)

/-- The image address of a slot, as a core's agent reads it. -/
def State.imageVa (s : State) (core func aspace base slot : Nat) : Except (Reason × Nat) (State × Nat) :=
  match s.unitWord func aspace (base + 8) 8 .read core with
  | .error e => .error e
  | .ok (s1, stride) => .ok (s1, base + 4096 + slot * stride)

/-- A claim of a group's slot: the halt begins once the OR has its time (log 81). What is due of the group's passes is
done first. -/
def State.claimFor (s : State) (gid : Nat) (host : Bool) : Except (Reason × Nat) (State × Option Nat) :=
  match s.groups.find gid with
  | none => .ok (s, none)
  | some g =>
    match s.launches.find g.launch with
    | none => .ok (s, none)
    | some lau =>
      match (s.runSlots (coreOf gid)).claimSlot (coreOf gid) g.launch lau with
      | .error e => .error e
      | .ok (s1, none) => .ok (s1, none)
      | .ok (s1, some (k, t)) =>
        .ok ((s1.updGroup gid (fun g => { g with preempt := .claimed host k (max t s1.now) })).agentWorks (coreOf gid), some k)

/-- IMAGE_SLOT_CLAIM: a group whose pre-emption waits gets a slot; while none is free, or the region cannot be reached,
it runs on. -/
def State.evImageSlotClaim (s : State) (gid : Nat) : Option State :=
  match (s.groups.find gid).map Group.preempt with
  | some (.wanted host) =>
    match s.claimFor gid host with
    | .ok (s1, some _) => some s1
    | _ => none
  | _ => none

/-- The group of a function that PREEMPT names (R405). -/
def State.groupNamed (s : State) (func va group : Nat) : Option (Nat × Group) :=
  s.groups.find? (fun g => !g.2.draining && g.2.indexReg == group &&
    (match s.launches.find g.2.launch with
     | some l => l.func == func && l.va.toNat == va
     | none => false))

/-- PREEMPT (R225, R397, R405). -/
def State.evPreempt (s : State) (func : Nat) : State :=
  s.hcRun func 0x01 (fun s a =>
    if fld a[1] 32 32 ≠ 0 then s.hcEnd func 5 0
    else
      match s.groupNamed func a[0].toNat (fld a[1] 0 32) with
      | none => s.hcEnd func 3 0
      | some (gid, g) =>
        match g.preempt with
        | .claimed _ k t => (s.updGroup gid (fun g => { g with preempt := .claimed true k t })).hcEnd func 0 k
        | .saving _ k h r q x => (s.updGroup gid (fun g => { g with preempt := .saving true k h r q x })).hcEnd func 0 k
        | _ =>
          match s.claimFor gid true with
          | .error _ => s.hcEnd func 8 0
          | .ok (s1, none) => s1.hcEnd func 4 0
          | .ok (s1, some k) => s1.hcEnd func 0 k)

/-! ### The halt (R226) -/

/-- A group's WAITCMPs return first (R60); the mirror waits of TWAIT are withdrawn. -/
def State.haltMonitors (s : State) (gid : Nat) : Option State :=
  s.monitors.findSome? (fun m =>
    match m.who with
    | .queue _ _ => none
    | .frag w =>
      if w.gid ≠ gid then none
      else
        match s.ctxOf w with
        | some c => if c.frag.inWaitcmp then some (s.answerMonitor c m) else none
        | none => none)

/-- A part of a request is a group's. -/
def ReqPart.ofGroup (p : ReqPart) (gid : Nat) : Bool := (p.who.map (fun w => w.gid == gid)).getD false

/-- The halt cancels a request: every part of it is the group's, and it has neither been performed nor taken a T, nor gone
on to the host (R226). -/
def Req.cancels (r : Req) (gid : Nat) : Bool :=
  r.parts.all (fun p => p.ofGroup gid) &&
  (match r.stage, r.kind with
   | _, .compare _ _ _ | _, .unit => false
   | .flight, _ | .merging _ _, _ | .heldRel, _ | .bad _, _ => true
   | _, _ => false)

/-- Every fragment stands at a boundary, and nothing that the halt waits for is under way: an answer to be taken, a
comparison in host memory, a word in hand, a tap commit (R145; log 28). -/
def State.atBoundary (s : State) (gid : Nat) (g : Group) : Bool :=
  !s.reqs.any (fun r => (match r.kind with | .compare _ _ _ => true | _ => false) && r.parts.any (fun p => p.ofGroup gid))
  && !s.issuing.any (fun w => w.gid == gid)
  && !g.gangs.any (fun x => x.frags.any (fun f => f.code.isSome ||
      (match f.grant with | some (.pred _) | some (.popped _ _) | some .closed => true | _ => false)))
  && !g.tapRows.any (fun t => t.state == .applying && !t.parked)

/-- A halted fragment: a wait is withdrawn, to issue again on restore; an answer that has its time yet to come is kept. -/
def Frag.halt (f : Frag) : Frag :=
  match f.state with
  | .stalled (.until _) => { f with code := none }
  | .stalled _ | .sleeping _ => { f with state := .eligible, grant := none, frozen := none, code := none }
  | _ => { f with grant := none, frozen := none, code := none }

/-- The fragments of a group, by name. -/
def Group.names (g : Group) (gid : Nat) : List Who :=
  (g.gangs.mapIdx (fun i x => x.frags.map (fun f => ({ gid := gid, gang := i, frag := f.id } : Who)))).flatten

/-- The engine commands of a group that wait for the queue are taken into the image, at most 16 (R226): the fragments go
on after them. -/
def State.takeCmds (s : State) (gid : Nat) (g : Group) : State × List Cmd :=
  (g.names gid).foldl (fun a w =>
    match a.1.ctxOf w with
    | none => a
    | some c =>
      match c.frag.state with
      | .stalled (.engineFull w0 w1 next) =>
        let op := w0.toNat / 2 ^ 24 % 128
        let o := lxOf w0 w1
        if 16 ≤ a.2.length ∨ c.gang.qpred o.w.g.toNat = false then a
        else
          match c.cmdChecks op o (c.newCmd op o) with
          | .error _ => a
          | .ok x =>
            ((a.1.put (c.goto next)).postIssue w,
             a.2 ++ [{ x with batch := c.gang.batchNo + 1, number := 0, wct := c.gang.wct }])
      | _ => a) (s, [])

/-- A row halts (R145). -/
def TapRow.halt (t : TapRow) : TapRow := { t with state := if t.state == .encoding then .waiting else t.state, parked := false }

/-- The reservation entries of a group leave a core's table: a follower or bank that served one is free again (R124). -/
def State.takeRsvs (s : State) (gid : Nat) : State × List Rsv :=
  let core := coreOf gid
  let rs := (s.core core).rsvs.filter (fun r => r.who.gid == gid)
  let ids := rs.map Rsv.id
  let clear : Core → Core := fun k =>
    { k with
      rsvs := k.rsvs.filter (fun r => r.who.gid != gid)
      slave := k.slave.filter (fun i => !ids.contains i)
      banks := Vector.ofFn (fun i : Fin 4 => { k.banks[i] with busy := k.banks[i].busy.filter (fun b => !ids.contains b) }) }
  let s1 := s.updCore core clear
  ((if rs.any Rsv.pair then s1.updCore (core + 1) (fun k =>
      { k with slave := k.slave.filter (fun i => !ids.contains i)
               banks := Vector.ofFn (fun i : Fin 4 => { k.banks[i] with busy := k.banks[i].busy.filter (fun b => !ids.contains b) }) }) else s1),
   rs.map (fun r => { r with parked := false, refetch := true, stage := .waiting }))

/-- Parked work of a halted group leaves the translation records. -/
def State.unrecord (s : State) (gid : Nat) (rs : List Rsv) : State :=
  let mine : Parked → Bool := fun p => match p with
    | .tapRow g _ => g == gid
    | .pass c i => c == coreOf gid && rs.any (fun r => r.id == i)
    | _ => false
  { s with
    xrecs := s.xrecs.map (fun r => { r with parked := r.parked.filter (fun p => !mine p.1) })
    rewalks := s.rewalks.filter (fun r => !mine r.what) }

/-- GROUP_HALT: at HALT_TICK the group's waits are withdrawn and its accesses that are not performed cancelled, its passes
stop, and its windows are written back and dropped (R45, R124, R226). -/
def State.evGroupHalt (s : State) (gid : Nat) : Option State :=
  match s.groups.find gid with
  | none => none
  | some g =>
    match g.preempt with
    | .claimed host k since =>
      match s.haltMonitors gid with
      | some s1 => some s1
      | none =>
        if !s.atBoundary gid g || decide (s.now < since) then none
        else
          let t := s.takeCmds gid g
          let cut := t.1.reqs.filter (fun r => r.cancels gid)
          let s0 : State := { t.1 with reqs := t.1.reqs.filter (fun r => !r.cancels gid) }
          let r := (s0.withdraw gid).takeRsvs gid
          let s1 := ((r.1.unrecord gid r.2).dropLines gid).updGroup gid (fun g =>
            { g with
              gangs := g.gangs.map (fun x => { x with frags := x.frags.map Frag.halt })
              tapRows := g.tapRows.map TapRow.halt
              preempt := .saving host k s.now r.2 cut t.2 })
          let func := ((s.launches.find g.launch).map Launch.func).getD Config.physFn
          some ((s1.trace func (coreOf gid) 6 (gid % Config.groupsPerCore) s.now).agentWorks (coreOf gid))
    | _ => none

/-! ### The save (R227) -/

/-- Every accepted command and store of a group has completed, and every access that its halt did not cancel has
returned (R227; log 32). -/
def State.workDone (s : State) (gid : Nat) : Bool :=
  let k := s.core (coreOf gid)
  !k.queue.any (fun c => c.who.gid == gid) && !k.storeJobs.any (fun j => j.who.gid == gid)
    && !s.reqs.any (fun r => r.parts.any (fun p => p.ofGroup gid))

/-- Gangs of a group that count as triggered for a dependent launch while the group is in its image (R159). -/
def Group.triggers (g : Group) : List (Nat × Nat) :=
  if g.handlerOf then []
  else (List.range g.gangs.length).filterMap (fun i =>
    match g.gangs[i]? with
    | some x => if x.triggered || x.frags.isEmpty then some (g.index, i) else none
    | none => none)

/-- The group's place is free: its pennants leave with it, its pins go, and what the image lacks is kept (log 29, 35,
86). -/
def State.saveAway (s : State) (gid : Nat) (g : Group) (l : Launch) (host : Bool) (slot va due : Nat) (hosts : List Nat) (img : List Byte)
    (rsvs : List Rsv) (reqs : List Req) (cmds : List Cmd) : State :=
  let core := coreOf gid
  let f := s.fresh
  let tag := 2 ^ 32 + f.2
  let held : Pennant → Bool := fun p => p.holder == some gid
  let rec0 : SaveRec :=
    { func := l.func, aspace := l.aspace, va := va, launch := g.launch, gid := gid, tag := tag
      grp := { g with preempt := .none, focus := none, lines := [] }, rsvs := rsvs, reqs := reqs, cmds := cmds, pens := (s.core core).pennants.filter held
      opened := true, host := host, slot := slot, due := due, hosts := hosts, image := img }
  let s1 := g.gangs.foldl (fun s x => s.dropPins core x.pins) f.1
  let mark : List Pennant → List Pennant := fun ps => ps.filterMap (fun p =>
    if p.gid == gid then (if p.handling then some { p with gid := tag } else none) else some p)
  let s2 : State := { s1 with
    cores := s1.cores.map (fun k => (k.1, { k.2 with
      pennants := mark (if k.1 = core then k.2.pennants.filter (fun p => !held p) else k.2.pennants)
      opcache := if k.1 = core then k.2.opcache.filter (fun e => e.gid != gid) else k.2.opcache }))
    saves := (s1.saves.map (fun x => { x with pens := mark x.pens })).filter (fun x =>
      !(x.func == l.func && x.aspace == l.aspace && x.va == va)) ++ [rec0] }
  let s3 := s2.freeGroup gid
  if g.handlerOf then s3
  else s3.updLaunch g.launch (fun x => { x with saved := x.saved ++ [g.index], triggers := x.triggers ++ g.triggers.filter (fun t => !x.triggers.contains t) })

/-- The first part of SAVE_COMPLETE: the windows that late returns filled are dropped, the image is written, and the group
leaves its core. -/
def State.writeImage (s : State) (gid : Nat) : Option State :=
  match s.groups.find gid with
  | none => none
  | some g0 =>
    match g0.preempt, s.launches.find g0.launch with
    | .saving host slot halt rsvs reqs cmds, some l =>
      if !s.workDone gid then none
      else
        match (s.dropLines gid).imageVa (coreOf gid) l.func l.aspace l.rcd.saveBase.toNat slot with
        | .error _ => none
        | .ok (s1, va) =>
          let g := (s1.groups.find gid).getD g0
          let pens := (s1.core (coreOf gid)).pennants.filter (fun p => p.gid == gid && !p.handling)
          let img := s1.imageOf gid g l halt rsvs pens reqs cmds
          match s1.unitStore l.func l.aspace (some g.launch) va img 0 (coreOf gid) with
          | .error _ => none
          | .ok (s2, due, hosts) =>
            some ((s2.saveAway gid g l host slot va due hosts img rsvs reqs cmds).agentWorks (coreOf gid))
    | _, _ => none

/-- The second part: once the last write has its time, SAVED_TICK and then STATUS; the host is told, or the agents'
own RESUME joins the run list ahead of the launches where it has a place (R191, R200, R227, R405). -/
def State.finishImage (s : State) (x : SaveRec) : Option State :=
  if !s.writesDone x.due x.hosts || (!x.host && decide (256 ≤ s.runList.length)) then none
  else
    let core := coreOf x.gid
    let done := imageDone x.image s.now
    match s.unitStore x.func x.aspace (some x.launch) (x.va + 0x30) (sec done 0x30 16) 0 core with
    | .error _ => none
    | .ok (s1, t1, h1) =>
      match s1.unitStore x.func x.aspace (some x.launch) x.va (sec done 0 8) t1 core with
      | .error _ => none
      | .ok (s2, t2, h2) =>
        let s3 : State := { s2 with saves := s2.saves.map (fun y =>
          if y.func == x.func && y.aspace == x.aspace && y.va == x.va then { y with opened := false, image := [] } else y) }
        let base := ((s.launches.find x.launch).map (fun l => l.rcd.saveBase)).getD 0
        some (if x.host then s3.event x.func 6 (BitVec.ofNat 64 x.slot) 0 0 t2 (h1 ++ h2)
          else { s3 with runList := .resume x.func x.aspace none base x.slot :: s3.runList })

/-- SAVE_COMPLETE. -/
def State.evSaveComplete (s : State) (gid : Nat) : Option State :=
  match s.saves.find? (fun x => x.gid == gid && x.opened && s.writesDone x.due x.hosts) with
  | some x => (s.finishImage x).orElse (fun _ => s.writeImage gid)
  | none => s.writeImage gid

/-! ### Focus (R408, R409) -/

/-- DBG_FOCUS names the group of an image. -/
def State.focuses (s : State) (func va group : Nat) : Bool :=
  let f := s.fn func
  f.focus.getLsbD 63 && f.focusLr.toNat == va && fld f.focus 0 32 == group

/-- The word of the instruction at an address, a dictionary entry for its code: what memory holds there. -/
def State.peekCode (s : State) (core : Nat) (l : Launch) (pc : Reg) : Option Word :=
  match s.unitWord l.func l.aspace (pc.toNat / 4 * 4) 4 .execute core with
  | .error _ => none
  | .ok (_, n) =>
    let w : Word := BitVec.ofNat 32 n
    if isPair w then l.dictWords[if pc.toNat % 4 = 0 then bits n 16 10 else bits n 0 10]? else some w

/-- The fragment that holds a quad. -/
def Gang.fragOfQuad (g : Gang) (q : Nat) : Option Frag := g.frags.find? (fun f => f.quads.contains q)

/-- Check 7: the focus lane of a restored group (R408). -/
def State.focusOk (s : State) (core : Nat) (l : Launch) (g : Group) (f : Reg) : Bool :=
  let lane := fld f 36 6
  match g.gangs[fld f 32 4]? with
  | none => false
  | some x =>
    let q := x.quad (lane / 4)
    match x.fragOfQuad (lane / 4) with
    | none => false
    | some fr =>
      q.present && decide (lane < x.lanes) && q.mask.getLsbD (lane % 4) && decide (q.stack.length < 32)
      && !((s.peekCode core l fr.pc).map joinKey).getD false

/-- Focus is applied: the pending path is pushed, the quad leaves its fragment, and only its fragment issues. -/
def State.applyFocus (s : State) (gid : Nat) (func : Nat) : State :=
  let f := (s.fn func).focus
  let lane := fld f 36 6
  let k := fld f 32 4
  let qn := lane / 4
  match (s.groups.find gid).bind (fun g => g.gangs[k]?) with
  | none => s
  | some x =>
    match x.fragOfQuad qn with
    | none => s
    | some fr =>
      let q := x.quad qn
      let alone : BitVec 4 := BitVec.ofNat 4 (2 ^ (lane % 4))
      let other := q.mask &&& ~~~alone
      let q1 : Quad := if other = 0 then q else
        { q with mask := alone, stack := { resume := fr.pc, join := none, phase := false, doneMask := 0, other := other } :: q.stack }
      let split := fr.quads.length ≠ 1
      let r := if split then s.takeEntry (coreOf gid) { gid := gid, gang := k, frag := fr.id } else (s, fr.entry)
      let s1 := r.1.updGang gid k (fun g =>
        let g1 := g.setQuad qn q1
        if split then
          { g1 with
            frags := g1.frags.map (fun y => if y.id == fr.id then { y with quads := y.quads.filter (fun i => i != qn) } else y)
                      ++ [{ fr with id := g1.nextFrag, quads := [qn], entry := r.2, skip := fr.skip, since := s.clkOf (coreOf gid) }]
            nextFrag := g1.nextFrag + 1 }
        else g1)
      let id := if split then x.nextFrag else fr.id
      (s1.updGroup gid (fun g => { g with focus := some { gang := k, frag := id, lane := lane, left := fld f 42 8 + 1, steps := 0, ended := 0 } })).updFn
        func (fun y => { y with focus := y.focus &&& ~~~(BitVec.ofNat 64 (2 ^ 63)) })

/-- END and DONE of DBG_FOCUS. -/
def focusReport (f : Reg) (x : Focus) : Reg :=
  BitVec.ofNat 64 (bits f.toNat 0 50 + x.steps % 1024 * 2 ^ 50 + x.ended % 8 * 2 ^ 60 + bits f.toNat 63 1 * 2 ^ 63)

/-- FOCUS_END: END and DONE are reported, and the group is to be saved. -/
def State.evFocusEnd (s : State) (gid : Nat) : Option State :=
  match s.groups.find gid with
  | none => none
  | some g =>
    match g.focus, s.launches.find g.launch with
    | some f, some l =>
      let x := (s.fn l.func).focus
      if f.ended = 0 ∨ (g.preempt ≠ .none ∧ focusReport x f = x) ∨ g.draining then none
      else some ((s.updFn l.func (fun y => { y with focus := focusReport y.focus f })).wantSave gid true)
    | _, _ => none

/-! ### The restore (R232, R233) -/

/-- The kept part of an image, if this device saved it. -/
def State.saveOf (s : State) (func aspace va : Nat) : Option SaveRec :=
  s.saves.find? (fun x => x.func == func && x.aspace == aspace && x.va == va)

/-- The launch of an image: the one that saved it, one of the same record, or one read from the record anew; `none` where
there is none to have (log 37). -/
def State.launchFor (s : State) (func aspace va : Nat) (k : Option SaveRec) : Option (State × Nat) :=
  match k.bind (fun x => (s.launches.find x.launch).map (fun _ => x.launch)) with
  | some l => some (s, l)
  | none =>
    match (s.launches.filter (fun l => l.2.func == func && l.2.aspace == aspace && l.2.va.toNat == va)).getLast? with
    | some l => some (s, l.1)
    | none =>
      match s.readLaunch func aspace va none none [] with
      | (s1, .ok l) =>
        let a := s1.addLaunch { l with allClaimed := true }
        some a
      | (_, .error _) => none

/-- A group as it is before its image is read: what was kept of it, or a fresh one. -/
def restoreBase (l index : Nat) (lau : Launch) (handler : Bool) (now : Nat) (p : Spot) (ready live : Bool) (k : Option SaveRec) : Group :=
  let g0 := groupAt l index lau handler now p ready
  let fresh : Group := { g0 with
    handlerLive := live
    gangs := g0.gangs.mapIdx (fun i x => { x with triggered := lau.triggers.contains (index, i) }) }
  match k with
  | none => fresh
  | some x =>
    { x.grp with
      launch := l, peer := none, placedAt := now, stashBase := p.stash, accBase := p.acc, dictReady := ready
      gangs := x.grp.gangs.mapIdx (fun i y => { y with slot := p.slots[i]?.getD 0 }) }

/-- The gang of each FRAG record: that of its saved slot, in the order of the saved slots. -/
def fragGang (k : Option SaveRec) (recs : List (List Byte)) (f : List Byte) : Nat :=
  let slot := bits (word f 8) 53 7
  let slots := match k with
    | some x => x.grp.gangs.map Gang.slot
    | none => (recs.map (fun r => bits (word r 8) 53 7)).foldl (fun l x => insertNat x l) []
  slots.idxOf slot

/-- Quads of a mask. -/
def quadsOf (m : Nat) : List Nat := (List.range 16).filter (fun i => bits m i 1 == 1)

/-- A fragment from its FRAG record. A fault that awaits its answer waits on, code that is absent is served anew. Where
the record is as it was saved, the fragment goes on from where it was, and its cancelled accesses are sent again; else
it replays from the PC and the SKIP that it finds there (R161, R233; log 33). -/
def restoreFrag (old : Option Frag) (same : Bool) (id : Nat) (f : List Byte) (handler : Bool) (clk : Nat) : Frag :=
  let quads := quadsOf (bits (word f 8) 32 16)
  let code := bits (word f 8) 60 3
  let st : FState :=
    match code, old.map Frag.state with
    | 2, _ => .regangWait
    | 4, some (.faulted i e) => .faulted i (if i.reason == .codeAbsent then none else e)
    | _, _ => .eligible
  let f0 : Frag := { fragAt id quads (regOf (word f 0)) none clk with
    state := st, skip := BitVec.ofNat 32 (word f 16 / 2 ^ 32)
    handler := handler && ((old.map Frag.handler).getD true) }
  match if same then old else none with
  | none => f0
  | some o =>
    { f0 with
      pc := o.pc, skip := o.skip, ckpt := o.ckpt, grant := o.grant, frozen := o.frozen
      state := match o.state with
        | .stalled w => .stalled w
        | _ => st }

/-- The fragment of a saved gang that a FRAG record shows, and whether the record is as it was saved. -/
def SaveRec.fragOf (x : SaveRec) (i : Nat) (f : List Byte) : Option (Frag × Bool) :=
  (x.grp.gangs[i]?.bind (fun y => y.frags.find? (fun z => z.quads == quadsOf (bits (word f 8) 32 16)))).map (fun z =>
    let r := z.replayAt (z.insIn x.gid i x.reqs)
    (z, word f 0 == fld r.1 1 56 * 2 && word f 16 / 2 ^ 32 == r.2.toNat))

/-- The FRAG records of a gang. -/
def gangFrags (k : Option SaveRec) (i : Nat) (recs : List (List Byte)) : List (List Byte) :=
  recs.filter (fun r => fragGang k recs r == i)

/-- A gang's fragments, without entries (log 65). -/
def restoreFrags (k : Option SaveRec) (i : Nat) (recs : List (List Byte)) (handler : Bool) (clk : Nat) : List Frag :=
  let fs := (gangFrags k i recs).mapIdx (fun j r =>
    let o := k.bind (fun x => x.fragOf i r)
    restoreFrag (o.map Prod.fst) ((o.map Prod.snd).getD false) j r handler clk)
  if k.isSome then fs else fs.mapIdx (fun j f => { f with handler := f.handler && j == 0 })

/-- A cancelled access is sent again, for the fragments that go on from where they were (R161, R226): each of its parts
under the name that its fragment has now. -/
def SaveRec.resend (x : SaveRec) (gid : Nat) (recs : List (List Byte)) (r : Req) : Req :=
  let name : Who → Nat → Option Who := fun w lane =>
    ((gangFrags (some x) w.gang recs).zipIdx.find? (fun y =>
      match x.fragOf w.gang y.1 with
      | some (z, same) => same && (if lane = 64 then z.id == w.frag else z.quads.contains (lane / 4))
      | none => false)).map (fun y => { gid := gid, gang := w.gang, frag := y.2 })
  let parts := r.parts.filterMap (fun p => (p.who.bind (fun w => name w p.lane)).map (fun w => { p with who := some w }))
  { r with
    who := (parts.head?.bind ReqPart.who), parts := parts
    stage := match r.stage with
      | .bad q => .bad q
      | _ => .flight }

/-- The half of a metadata word that a saved MM.SPASS reads again (R320). -/
def halvesAgain (g : Gang) (width : Nat) (r : Rsv) : List (Nat × Nat × BitVec 12) :=
  let nc := 2 ^ fld r.gacc 40 3
  let jb := fld r.gacc 32 7
  let nb := fld r.gacc 16 10
  r.halves.map (fun x =>
    match (List.range (2 * width)).find? (fun i => x.1 == nb + i / 2 % nc && x.2.1 == jb + 2 * (i / 2 / nc) + i % 2) with
    | some i => (x.1, x.2.1, BitVec.ofNat 12 (fld (g.rdV (bits r.x 25 7) (i / 2)) (12 * (i % 2)) 12))
    | none => x)

/-- The halves of the metadata of a saved MM.SPASS whose lanes the device has not kept: those of the gang's masked lanes. -/
def halvesOf (g : Gang) (r : Rsv) : List (Nat × Nat × BitVec 12) :=
  let nc := 2 ^ fld r.gacc 40 3
  ((List.range 64).filter (fun l => g.masked l && decide (l < g.lanes))).flatMap (fun l => [0, 1].map (fun h =>
    (fld r.gacc 16 10 + l % nc, fld r.gacc 32 7 + 2 * (l / nc) + h, BitVec.ofNat 12 (fld (g.rdV (bits r.x 25 7) l) (12 * h) 12))))

/-- Entries of the reservation table from MATRIX records, in their order (R124, R231). -/
def restoreRsvs (k : Option SaveRec) (gid : Nat) (g : Group) (width : Nat) (clk now id0 : Nat) (recs : List (List Byte)) : List Rsv :=
  recs.mapIdx (fun i m =>
    let w0 : Word := BitVec.ofNat 32 (leNat (sec m 0 4))
    let w1 : Word := BitVec.ofNat 32 (leNat (sec m 4 4))
    let op := w0.toNat / 2 ^ 24 % 128
    let x := w1.toNat
    let q := g.gangs.head?
    let h : Nat → Handle := fun j => ((q.map (fun y => y.handle j))).getD Handle.zero
    let hb := if op = 0x42 then bits w0.toNat 7 7 else x % 16
    let kept := k.bind (fun y => y.rsvs[i]?)
    let base : Rsv := (kept.map (fun y => { y with who := { y.who with gid := gid } })).getD
      { id := 0, op := op, who := { gid := gid, gang := 0, frag := 0 }, pc := 0, quads := ((q.map (fun y => (List.range 16).filter (fun i => (y.quad i).present))).getD [])
        words := (w0, w1), cls := if op ≠ 0x42 ∧ x / 2 ^ 15 % 2 = 1 then .background else .main, since := clk, gacc := 0, gp := 0
        hA := (x / 16 % 16, h (x / 16 % 16)), hB := (hb, h hb), origin := (0, 0), rr := 0, number := 0, next := 0, halves := []
        ins := 0, wct := now, parked := false, refetch := true, stage := .waiting }
    let r : Rsv := { base with
      id := id0 + i, since := clk, gacc := regOf (word m 0x10), gp := regOf (word m 0x18)
      origin := (word m 0x20 / 2 ^ 32, word m 0x20 % 2 ^ 32), next := bits (word m 0x30) 0 16, number := word m 0x38
      rr := BitVec.ofNat 256 (leNat (sec m 0x40 32)), ins := 0, parked := false, refetch := !base.load, stage := .waiting }
    { r with halves := (g.gangs[r.who.gang]?.map (fun y =>
        if kept.isSome then halvesAgain y width r else if op = 0x44 then halvesOf y r else [])).getD r.halves })

/-- Tap rows from TAP records (R143, R231). -/
def restoreRows (k : Option SaveRec) (clk : Nat) (recs : List (List Byte)) : List TapRow :=
  ((k.map (fun x => x.grp.tapRows)).getD []).mapIdx (fun i t =>
    match recs[i]? with
    | none => t
    | some r =>
      let w := word r 0
      let st : TapState := match bits w 0 8 with
        | 2 => .applying
        | 3 => .held
        | 4 => .handling
        | 5 => .ready
        | _ => .waiting
      { t with state := st, status := bits w 8 8, encCount := bits w 16 3, pennant := bits w 32 32, since := clk, parked := false })

/-- Queued pennants from their records. -/
def restorePens (gid l : Nat) (g : Group) (recs : List (List Byte)) : List Pennant :=
  recs.map (fun r =>
    let id := bits (word r 0x18) 0 32
    { id := id, gid := gid, row := ((g.tapRows.find? (fun t => t.pennant == id)).map TapRow.row).getD (bits (word r 0x10) 24 8)
      words := (wordsLE r).map regOf, handling := false, holder := none, launch := l })

/-- A saved engine command issues again (R83, R233): for the gang that it was kept with, else for the group's first
(log 33). -/
def State.reissue (s : State) (gid : Nat) (kept : Option Cmd) (m : List Byte) : State :=
  let k := (kept.map (fun x => x.who.gang)).getD 0
  match s.groups.find gid with
  | none => s
  | some g =>
    match s.launches.find g.launch, g.gangs[k]? with
    | some lau, some x =>
      let f := x.frags.head?.getD (fragAt 0 [] 0 none 0)
      let c : Ctx := { who := { gid := gid, gang := k, frag := f.id }, lau := lau, grp := g, gang := x, frag := f }
      let w0 : Word := BitVec.ofNat 32 (leNat (sec m 0 4))
      let w1 : Word := BitVec.ofNat 32 (leNat (sec m 4 4))
      let op := w0.toNat / 2 ^ 24 % 128
      let o := lxOf w0 w1
      let y : Cmd := { c.newCmd op o with
        pc := (kept.map Cmd.pc).getD f.pc, quads := (kept.map Cmd.quads).getD f.quads, dix := (kept.map Cmd.dix).getD 0
        ga := regOf (word m 0x10), gw := regOf (word m 0x18), gc := regOf (word m 0x20), wct := word m 0x38 }
      match c.cmdChecks op o y with
      | .error _ => s
      | .ok z =>
        let r := s.enterCmd c o.w.d z
        r.1.put r.2
    | _, _ => s

/-- A batch's numbers on the group's own contexts move with the group. -/
def CtxRef.moved (gid : Nat) : CtxRef → CtxRef
  | .matrix _ => .matrix gid
  | .tap _ t => .tap gid t
  | x => x

def Gang.moved (g : Gang) (gid : Nat) : Gang :=
  let mv : CtxRef × Nat → CtxRef × Nat := fun x => (x.1.moved gid, x.2)
  { g with openCmds := g.openCmds.map mv, batches := g.batches.map (fun b => { b with cmds := b.cmds.map mv }) }

/-- Pin records whose token matches on the new core count there again; others are dropped (R184, R190). -/
def State.restorePins (s : State) (gid : Nat) : State :=
  let core := coreOf gid
  match s.groups.find gid with
  | none => s
  | some g =>
    let ok : Nat × Nat → Bool := fun p => ((s.core core).tokenSlot p.1).isSome
    let all := g.gangs.flatMap (fun x => x.pins.filter ok)
    let s1 := s.updGroup gid (fun g => { g with gangs := g.gangs.map (fun x => { x with pins := x.pins.filter ok }) })
    s1.updCore core (fun k => all.foldl (fun k p =>
      match k.tokenSlot p.1 with
      | some i => k.setRes i { k.res i with pins := (k.res i).pins + p.2 }
      | none => k) k)

/-- Entries of the split table for a restored group's fragments (R172). -/
def State.seatFrags (s : State) (gid : Nat) : State :=
  match s.groups.find gid with
  | none => s
  | some g =>
    let ws := (g.gangs.mapIdx (fun i x => x.frags.map (fun f => ({ gid := gid, gang := i, frag := f.id } : Who)))).flatten
    ws.foldl (fun s w =>
      let r := s.takeEntry (coreOf gid) w
      r.1.updFrag w (fun f => { f with entry := r.2 })) s

/-- The slots of KIND 1 of an image (R83): ISSUED of each. -/
def engineSlots (func gid : Nat) (img : List Byte) : List Nat :=
  (List.range 8).filterMap (fun i =>
    match boundCtx func gid (regOf (word img (0x200 + 8 * i))) with
    | some (.engine _) => some (word img (0x240 + 8 * i))
    | _ => none)

/-- The engine queue's values rise to those of an image (R83). -/
def State.raiseEngine (s : State) (core : Nat) (ns : List Nat) : State :=
  let n := ns.foldl max (s.core core).engine.issued
  if n = (s.core core).engine.issued then s
  else (s.updCore core (fun k => { k with engine := { k.engine with issued := n, count := n } })).mirrorOut (.engine core)

/-- Each RESUME raises the clocks of all five dies to the largest (R411). -/
def State.raiseClocks (s : State) : State :=
  let best := (List.range 5).foldl (fun (b : Hlc) d => let h := (s.die d).hlc; if b.full < h.full then h else b) { p := 0, c := 0 }
  (List.range 5).foldl (fun s d => s.updDie d (fun x => { x with hlc := best })) s

/-- The partner of a cluster's group stands on the other core of the pair. -/
def State.partner (s : State) (gid l index : Nat) : Option Nat :=
  let core := coreOf gid
  (s.groups.find? (fun g => coreOf g.1 == (if core % 2 = 0 then core + 1 else core - 1) && g.2.launch == l && !g.2.handlerOf
    && g.2.index == (if index % 2 = 0 then index + 1 else index - 1))).map Prod.fst

/-- The spot for an image's group on a core, and for the handler group that it brings (R201); the halves of a cluster
keep their side of a pair (log 34). -/
def State.spotsFor (s : State) (core l : Nat) (r : LaunchRec) (handler : Bool) (index : Nat) : Option (Spot × Option Spot) :=
  if !s.coreRuns core || (s.core core).retiring || !(r.dict == 0 || ((s.core core).dictFor l).isSome) || (r.cluster && !handler && index % 2 != core % 2) then none
  else if handler then ((s.loadOf core).spot (r.shapeOf true)).map (fun a => (a, none))
  else (s.loadOf core).spots r (s.bringsHandler core l r)

/-- Put a checked image's group in a spot of a core. -/
def State.restoreIn (s : State) (core l : Nat) (lau : Launch) (img : List Byte) (k : Option SaveRec) (a : Spot) (q : Option Nat) : State × Nat :=
  let n := imageCounts img
  let y := imageLayout img
  let handler := imageHandler img
  let index := if handler then 0 else bits (word img 0x18) 32 32
  let r := lau.rcd
  let gid := core * Config.groupsPerCore + a.place
  let clk := s.clkOf core
  let d := s.holdDict core l r
  let base := restoreBase l index lau handler s.now a d.2 (!s.handlerOn core l) k
  let gs := records img y.gang 1024 n.gangs
  let qs := records img y.quad 1024 (16 * n.gangs)
  let ls := records img y.lane (laneBytes r.width r.regs) n.gangs
  let fr := records img y.frag 32 n.frags
  let gangs := base.gangs.mapIdx (fun i x =>
    let g := gs[i]?.getD []
    let x1 := (x.parse r.width r.regs g ((qs.drop (16 * i)).take 16) (ls[i]?.getD [])).moved gid
    let fs := restoreFrags k i fr (bits (word g 0x350) 8 1 == 1) clk
    { x1 with frags := fs, nextFrag := fs.length })
  let g1 : Group := { (base.parse lau.func gid img).parseData img with
    gangs := gangs, tapRows := restoreRows k clk (records img y.tap 8 n.rows), resumedBy := base.resumedBy ++ q.toList }
  let rs := restoreRsvs k gid g1 r.width clk s.now s.nextId (records img y.matrix 96 n.passes)
  let again := ((k.map (fun x => x.reqs.map (x.resend gid fr))).getD []).filter (fun r => !r.parts.isEmpty)
  let ps := restorePens gid l g1 (records img (y.tap + 8 * n.rows) 32 n.pens)
  let own := ((k.map SaveRec.pens).getD []).map (fun p => { p with holder := some gid })
  let tag := (k.map SaveRec.tag).getD 0
  let back : List Pennant → List Pennant := fun p => p.map (fun x => if k.isSome ∧ x.gid = tag then { x with gid := gid } else x)
  let s1 : State := { d.1 with
    groups := d.1.groups.set gid g1, nextId := d.1.nextId + n.passes + again.length
    reqs := d.1.reqs ++ again.mapIdx (fun i r => { r with id := d.1.nextId + n.passes + i })
    saves := (d.1.saves.filter (fun x => k.map (fun y => (y.func, y.aspace, y.va)) != some (x.func, x.aspace, x.va))).map (fun x => { x with pens := back x.pens })
    cores := d.1.cores.map (fun c => (c.1, { c.2 with pennants := back c.2.pennants })) }
  let s2 := s1.updCore core (fun c =>
    { c with rsvs := c.rsvs ++ rs, pennants := c.pennants ++ back own ++ ps
             cbuf := c.cbuf.filter (fun e => e.func != lau.func), rbuf := c.rbuf.filter (fun e => e.1 / 2 ^ 46 != lau.func) })
  let s3 := ((s2.raiseEngine core (engineSlots lau.func gid img)).seatFrags gid).restorePins gid
  let s3 := (records img y.engine 64 n.cmds).zipIdx.foldl (fun s m => s.reissue gid (k.bind (fun x => x.cmds[m.2]?)) m.1) s3
  let s4 := if handler then s3 else s3.updLaunch l (fun x => { x with saved := x.saved.erase index })
  ((s4.pairUp (some gid) (if r.cluster && !handler then s4.partner gid l index else none)).trace lau.func core 3 a.place g1.indexReg, gid)

/-- A RESUME fails: its queue stops; one of the agents' own is dropped. -/
def State.resumeFails (s : State) (func : Nat) (q : Option Nat) (check : Nat) : State :=
  match q with
  | some q => (s.setCq func q { s.cq func q with resumes := (s.cq func q).resumes - 1 }).stopQueue func q 9 check false
  | none => s

/-- RESUME_PLACE: the first RESUME of the run list, on a core where its group fits (log 38). -/
def State.evResumePlace (s : State) (core : Nat) : Option State :=
  if Config.cores ≤ core then none
  else
    match s.runList with
    | .resume func aspace q base slot :: rest =>
      let s0 : State := { s with runList := rest }
      match s.imageVa core func aspace base.toNat slot with
      | .error _ => some (s0.resumeFails func q 1)
      | .ok (s1, va) =>
        match s1.readImage core func aspace va with
        | .error k => some (s0.resumeFails func q k)
        | .ok (s2, img) =>
          let kept := s.saveOf func aspace va
          match State.launchFor { s2 with runList := rest } func aspace (word img 0x10) kept with
          | none => some (s0.resumeFails func q 6)
          | some (s3, l) =>
            match s3.launches.find l with
            | none => none
            | some lau =>
              let handler := imageHandler img
              let index := bits (word img 0x18) 32 32
              let es := engineSlots lau.func (core * Config.groupsPerCore) img
              let e := (s3.core core).engine
              if lau.rcd.shape ≠ bits (word img 0x18) 0 32 ∨ lau.rcd.stash4k ≠ bits (word img 0x20) 32 9 then some (s0.resumeFails func q 6)
              else if (!es.isEmpty ∧ e.count ≠ e.issued) ∨ Config.engineQueue < (s3.core core).waitingCmds + (imageCounts img).cmds then none
              else
                match s3.spotsFor core l lau.rcd handler index with
                | none => none
                | some (a, b) =>
                  let r := s3.restoreIn core l lau img kept a q
                  let foc := s.focuses func (word img 0x10) (if handler then 0xFFFFFFFF else index)
                  if foc && !((r.1.groups.find r.2).map (fun g => r.1.focusOk core lau g (s.fn func).focus)).getD false then
                    some (s0.resumeFails func q 7)
                  else
                    let s4 := if foc then r.1.applyFocus r.2 func else r.1
                    let s5 := match b with
                      | some h => (s4.placeGroup core l 0 lau true h).1
                      | none => s4
                    let s6 := match s5.unitAtomic func aspace (some l) (base.toNat + 0x40 + slot / 64 * 8) 4 3 (2 ^ 64 - 1 - 2 ^ (slot % 64)) core with
                      | .ok x => x.1
                      | .error _ => s5
                    some (s6.raiseClocks.agentWorks core)
    | _ => none

/-- The agent of a core restores before it claims (R200, R202). -/
def State.evGroupClaim (s : State) (core : Nat) : Option State :=
  if (s.evResumePlace core).isSome then none else s.claim core

def execPreempt (func : Nat) (s : State) := s.unitStep (some (s.evPreempt func))
def execImageSlotClaim (gid : Nat) (s : State) := s.unitStep (s.evImageSlotClaim gid)
def execGroupHalt (gid : Nat) (s : State) := s.unitStep (s.evGroupHalt gid)
def execSaveComplete (gid : Nat) (s : State) := s.unitStep (s.evSaveComplete gid)
def execResumePlace (core : Nat) (s : State) := s.unitStep (s.evResumePlace core)
def execFocusEnd (gid : Nat) (s : State) := s.unitStep (s.evFocusEnd gid)
def execGroupClaim (core : Nat) (s : State) := s.unitStep (s.evGroupClaim core)

end Sys2Proof.Machine
end

