-- ==== Sys2Proof/Machine/EvRas.lean ====
section
/-!
DEFINITION. Errors, retirement and sparing, clock stretches, repair resets, flit replays (R31, R234, R401, R412, R418 to
R424).
-/

namespace Sys2Proof.Machine

/-- An ERROR event to the physical function (R396, R418; log 36). -/
def State.errorEvent (s : State) (pa : Nat) : State := s.event Config.physFn 5 (BitVec.ofNat 64 pa) 0 0

/-- A line is lost on its way to memory, which keeps its older value (R234): the dirty bytes of the group that owns it go,
else those of the way of L2 that holds it (log 44). -/
def State.loseLine (s : State) (line : Nat) : State :=
  match (s.recOf line).owner with
  | some gid =>
    match s.groups.find gid with
    | some g =>
      let ks := (g.lines.filter (fun l => lineOf l.2.pa == line && l.2.own)).map Prod.fst
      ks.foldl (fun s k => State.dropLine (s.updGroup gid (fun g => { g with lines := g.lines.upd k (fun l => { l with dirty := [] }) })) gid k) s
    | none => s
  | none =>
    let x := s.l2Set line
    match (x.wayOf line).bind (fun i => x.ways[i]?.join.bind L2Way.older) with
    | none => s
    | some old =>
      let kept := x.ways.map (fun w => w.map (fun y => if y.line == line then { y with older := none } else y))
      { s with mem := Memory.write s.mem (line * 64) old, l2 := s.l2.set (s.l2Key line) { x with ways := kept } }

/-- UNCORRECTABLE_WRITEBACK (R234). -/
def State.evUncorrectableWriteback (s : State) (pa : Nat) : Option State :=
  if 2 ^ 38 ≤ pa then none
  else
    let owner := ((s.recOf (lineOf pa)).owner).bind (fun g => (s.groups.find g).map (fun x => (g, x)))
    let s1 := s.loseLine (lineOf pa)
    let s2 := match owner with
      | some (gid, g) => s1.append g.launch (coreOf gid) { reason := .uncorrectable, kind := 3, tick := s.now, d0 := BitVec.ofNat 64 pa }
      | none => s1
    some (s2.errorEvent pa)

/-- ERROR_RETRY (R418) of a die: kind 0 an error corrected in place, 1 a retry that succeeds, 2 a unit that fails again,
3 a storage array that fails again, whose line becomes uncorrectable. -/
def State.evErrorRetry (s : State) (die kind pa : Nat) : Option State :=
  if 5 ≤ die then none
  else
    match kind with
    | 0 => some (s.updDie die (fun d => { d with corr := d.corr + 1 }))
    | 1 => some (s.updDie die (fun d => { d with transient := d.transient + 1 }))
    | 2 => some ((s.updDie die (fun d => { d with lasting := d.lasting + 1 })).errorEvent pa)
    | 3 =>
      if 2 ^ 38 ≤ pa then none
      else
        let s1 := s.updDie die (fun d => { d with lasting := d.lasting + 1 })
        some (State.errorEvent { s1 with ecc := insertNat (lineOf pa) s1.ecc } pa)
    | _ => none

/-! ### Retirement (R420, R421) -/

/-- Whether a group's own state reads uncorrectable is a free value (log 45). -/
def State.stateBad (s : State) : State × Bool := ({ s with free := s.free + 1 }, (Config.freeValue s.free).getLsbD 0)

/-- A group of a retired core is to be saved, or is terminated where its state is lost; the physical address that its entry
names (R219) is a free value (log 45). -/
def State.retireGroup (s : State) (gid : Nat) : State :=
  match s.groups.find gid with
  | none => s
  | some g =>
    if g.draining then s
    else
      let r := s.stateBad
      if r.2 then
        (State.endGroup { r.1 with free := r.1.free + 1 } gid).append g.launch (coreOf gid)
          { reason := .uncorrectable, kind := 3, tick := s.now, d0 := Config.freeValue r.1.free }
      else r.1.wantSave gid false

/-- A core that starts afresh under its logical number: stores, dictionaries, banks and operand cache are empty; what
the number stands for goes on. -/
def Core.replaced (k : Core) (gone : Bool) : Core :=
  { Core.reset with
    engine := k.engine, nextPennant := k.nextPennant, prof := k.prof, profFreeze := k.profFreeze, profFunc := k.profFunc
    residency := Vector.ofFn (fun i : Fin 64 =>
      if k.residency[i].state = 0 then k.residency[i] else { ResEntry.free with gen := (k.residency[i].gen + 1) % 1024 })
    unplaced := gone }

/-- CORE_RETIRE: the groups are saved first; once they have left, a spare takes the logical number, or it stays
unplaced (log 98). -/
def State.evCoreRetire (s : State) (core : Nat) : Option State :=
  let k := s.core core
  let gids := (s.groups.filter (fun g => coreOf g.1 == core)).map Prod.fst
  if Config.cores ≤ core ∨ k.unplaced then none
  else if !k.retiring then
    some (gids.foldl State.retireGroup (s.updCore core (fun k => { k with retiring := true })))
  else if !gids.isEmpty then none
  else
    let d := s.die (dieOf core)
    if d.spares = 0 then some (s.updCore core (fun k => k.replaced true))
    else some ((s.updCore core (fun k => k.replaced false)).updDie (dieOf core) (fun d => { d with spares := d.spares - 1 }))

/-- The next live slice of a slice's die, wrapping. -/
def State.nextSlice (s : State) (k : Nat) : Option Nat :=
  ((List.range 15).map (fun i => k / 16 * 16 + (k % 16 + i + 1) % 16)).find? (fun j => !(s.slice j).retired)

/-- SLICE_RETIRE: the monitors return, its lines are written back, requests go to the successor, whose LEASE_HORIZON rises (R60, R421). -/
def State.evSliceRetire (s : State) (k : Nat) : Option State :=
  if 64 ≤ k ∨ (s.slice k).retired then none
  else
    match s.nextSlice k with
    | none => none
    | some j =>
      let h := s.lines.foldl (fun m l => if s.homeOf l.1 = k then max m (max l.2.lmax l.2.tlast) else m)
        (max (s.slice k).horizon (s.slice j).horizon)
      let s1 := (s.monitors.filter (fun m => m.slice == k)).foldl State.resetMonitor s
      let s2 := (List.range 64).foldl (fun s i =>
        let x := s.slice i
        if x.remap = k then s.setSlice i { x with remap := j } else s) { s1 with monitors := s1.monitors.filter (fun m => m.slice != k) }
      let s3 := s2.setSlice k { s2.slice k with retired := true }
      some (State.setSlice { s3 with l2 := s3.l2.filter (fun x => x.1 / 2048 != k) } j { s3.slice j with horizon := h })

/-! ### Device sparing (R422) -/

/-- DEVICE_SPARE: the spare of a device's group of 16 stands in for it. -/
def State.evDeviceSpare (s : State) (dev : Nat) : Option State :=
  if 64 ≤ dev ∨ s.sparing.any (fun d => d.dev / 16 == dev / 16) then none
  else some { s with sparing := s.sparing ++ [{ dev := dev, copied := [] }] }

/-- SPARE_DEVICE_COPY: a line of the device's channel is copied; one that cannot be read stays with the failing
device. -/
def State.evSpareDeviceCopy (s : State) (dev line : Nat) : Option State :=
  match s.sparing.find? (fun d => d.dev == dev) with
  | none => none
  | some d =>
    if d.copied.contains line ∨ 2 ^ 32 ≤ line ∨ channelOf line ≠ dev / 2 ∨ s.ecc.contains line then none
    else some { s with sparing := s.sparing.map (fun x => if x.dev == dev then { x with copied := insertNat line x.copied } else x) }

/-! ### Clocks (R12, R423, R424) -/

def State.evDroopStretch (s : State) (p : Nat) : Option State :=
  if 48 ≤ p then none else some (s.setPair p { s.pair p with stretched := true, above := 0 })

/-- DROOP_RELEASE, after 64 clk above the threshold. -/
def State.evDroopRelease (s : State) (p : Nat) : Option State :=
  if 48 ≤ p ∨ !(s.pair p).stretched ∨ (s.pair p).above < 64 then none
  else some (s.setPair p { s.pair p with stretched := false, above := 0 })

def State.evPowerLimitStretch (s : State) (w : Nat) : Option State :=
  if 4096 ≤ w ∨ w ≤ s.limit then none else some { s with measured := w, powerStretch := true }
def State.evPowerLimitRelease (s : State) (w : Nat) : Option State :=
  if s.limit < w then none else some { s with measured := w, powerStretch := false }

/-! ### Dies and links (R401, R412) -/

/-- DIE_REPAIR_RESET: a compute die is held in reset, and its timebase stops. -/
def State.evDieRepairReset (s : State) (d : Nat) : Option State :=
  if 4 ≤ d ∨ (s.die d).stopped then none else some (s.updDie d (fun x => { x with stopped := true }))

/-- DIE_RESTART: the die has device time again; its clock goes on, and each of its rings needs a HEADER (R415). -/
def State.evDieRestart (s : State) (d : Nat) : Option State :=
  if !(s.die d).stopped then none
  else
    let s1 := s.updDie d (fun x => { x with stopped := false })
    some { s1 with funcs := s1.funcs.map (fun f =>
      (f.1, { f.2 with rings := f.2.rings.setIfInBounds d { f.2.rings[d]?.getD Ring.reset with fresh := true } })) }

/-- FLIT_REPLAY: a flit that fails its CRC is sent again: a transient error of the IO die (R418). A port mask has
eight ports. -/
def State.evFlitReplay (s : State) (port : Nat) : Option State :=
  if 8 ≤ port then none else some (s.updDie 4 (fun d => { d with transient := d.transient + 1 }))

def execUncorrectableWriteback (pa : Nat) (s : State) := s.unitStep (s.evUncorrectableWriteback pa)
def execErrorRetry (die kind pa : Nat) (s : State) := s.unitStep (s.evErrorRetry die kind pa)
def execCoreRetire (core : Nat) (s : State) := s.unitStep (s.evCoreRetire core)
def execSliceRetire (slice : Nat) (s : State) := s.unitStep (s.evSliceRetire slice)
def execDeviceSpare (dev : Nat) (s : State) := s.unitStep (s.evDeviceSpare dev)
def execSpareDeviceCopy (dev line : Nat) (s : State) := s.unitStep (s.evSpareDeviceCopy dev line)
def execDroopStretch (pair : Nat) (s : State) := s.unitStep (s.evDroopStretch pair)
def execDroopRelease (pair : Nat) (s : State) := s.unitStep (s.evDroopRelease pair)
def execPowerLimitStretch (watts : Nat) (s : State) := s.unitStep (s.evPowerLimitStretch watts)
def execPowerLimitRelease (watts : Nat) (s : State) := s.unitStep (s.evPowerLimitRelease watts)
def execDieRepairReset (die : Nat) (s : State) := s.unitStep (s.evDieRepairReset die)
def execDieRestart (die : Nat) (s : State) := s.unitStep (s.evDieRestart die)
def execFlitReplay (port _seq : Nat) (s : State) := s.unitStep (s.evFlitReplay port)

end Sys2Proof.Machine
end

