-- ==== Sys2Proof/Machine/EvQueue.lean ====
section
/-!
DEFINITION. The command front end: fetch units, packets, stops and restarts, and tagged messages (R387 to R395).
-/

namespace Sys2Proof.Machine

/-! ### The next packet (R387, R388, R391) -/

/-- Packets between HEAD and TAIL. -/
def Cq.ahead (c : Cq) : Nat := (c.tail - c.head).toNat

/-- The address of the next packet: of the innermost level, or of the ring. -/
def Cq.packetVa (c : Cq) : Option Nat :=
  match c.levels with
  | l :: _ => some (l.va.toNat + 32 * l.next)
  | [] => if c.ahead = 0 then none else some (c.base.toNat + 32 * (c.head.toNat % 2 ^ c.sizeLog2))

/-- The bytes of a packet from the fetch unit in hand. -/
def Cq.inHand (c : Cq) (va : Nat) : Option (List Byte) :=
  (c.units.find? (fun u => u.1 == va / 256 * 256)).map (fun u => (u.2.drop (va % 256)).take 32)

/-- The queue executes packets: enabled, not stopped, not parked. -/
def Cq.runs (c : Cq) : Bool := c.en && c.state != 2 && c.parked.isNone

/-- The words of the packet that the queue is to execute. -/
def Cq.packet (c : Cq) : Option (List Nat) :=
  if !c.runs then none else (c.held.orElse (fun _ => c.packetVa.bind c.inHand)).map wordsLE

/-- The packet is under way: what the host writes over it now does not change it (R388). -/
def Cq.hold (c : Cq) : Cq := { c with held := c.held.orElse (fun _ => c.packetVa.bind c.inHand) }

/-- From an innermost level on, levels that have ended return; HEAD counts the packet of the ring that began them. -/
def Cq.leave (c : Cq) (l : CqLevel) : List CqLevel → Cq
  | [] => if l.next < l.total then { c with levels := [l] } else { c with levels := [], head := c.head + 1 }
  | p :: r => if l.next < l.total then { c with levels := l :: p :: r } else c.leave { p with next := p.next + 1 } r

/-- STATE as HEAD and TAIL give it; a TAIL too far ahead stops the queue (R387). -/
def State.settleCq (s : State) (func q : Nat) : State :=
  let c := s.cq func q
  if c.state = 2 then s
  else if !c.en then s.setCq func q { c with state := 0 }
  else if 2 ^ c.sizeLog2 < c.ahead then s.stopQueue func q 3 0 false
  else s.setCq func q { c with state := if c.ahead = 0 then 0 else 1 }

/-- The packet has executed. -/
def State.stepCq (s : State) (func q : Nat) : State :=
  let c := s.cq func q
  let c1 := match c.levels with
    | [] => { c with head := c.head + 1 }
    | l :: t => c.leave { l with next := l.next + 1 } t
  ((s.unwatch func q).setCq func q { c1 with due := none, hosts := [], woken := false, held := none }).settleCq func q

/-- A fault of an access of the front end: the queue waits in a record, or stops with FETCH_FAULT (R388). -/
def State.queueFault (s : State) (func q : Nat) (acc : Access) (e : Reason × Nat) : State :=
  if e.1.replayable then
    (s.setCq func q { s.cq func q with parked := some e.2 }).park 4 func (s.cq func q).aspace e.2 acc e.1 (.queue func q)
  else s.stopQueue func q 4 0

/-- FRONT_END_FETCH: the unit of the next packet is read at one time; a packet in hand of no TYPE stops the queue. -/
def State.evFrontEndFetch (s : State) (func q : Nat) : Option State :=
  let c := s.cq func q
  match c.runs && c.held.isNone, c.packetVa with
  | true, some va =>
    match c.inHand va with
    | some p => if 8 < (wordsLE p)[0]?.getD 0 / 2 ^ 56 then some (s.stopQueue func q 1 0) else none
    | none =>
      match s.unitLoad func c.aspace (va / 256 * 256) 256 .frontEnd with
      | .error e => some (s.queueFault func q .frontEnd e)
      | .ok r => some (r.1.setCq func q { r.1.cq func q with units := [(va / 256 * 256, r.2)] })
  | _, _ => none

/-! ### Packets (R389, R390) -/

/-- The bits of W0 to W3 that a TYPE names besides TYPE. -/
def packetBits (type : Nat) (net : Bool) : List Nat :=
  let all := 2 ^ 64 - 1
  match type with
  | 1 => [1, all, 0, 0]
  | 2 => [0, all, 2 ^ 32 - 1, 0]
  | 3 => [0xFFFF, all, 0, 0]
  | 4 => [0xFFFFFFFF0007, all, all, all]
  | 6 => [0xFFFFFF, all, if net then 2 ^ 43 - 1 else all, 0]
  | 7 => [7, all, all, 0]
  | 8 => [0x3F, all, 2 ^ 43 - 1, all]
  | _ => [0, 0, 0, 0]

/-- BAD_PACKET (R389): RSVD bits, relations, alignments; and values outside a field's range (log 46). -/
def badPacket (ws : List Nat) : Bool :=
  let w : Nat → Nat := fun i => ws[i]?.getD 0
  let ty := w 0 / 2 ^ 56
  let net := bits (w 0) 17 1 == 1
  let m := packetBits ty net
  decide (w 0 % 2 ^ 56 &&& m[0]?.getD 0 ≠ w 0 % 2 ^ 56)
  || (List.range 3).any (fun i => w (i + 1) &&& m[i + 1]?.getD 0 != w (i + 1))
  || (match ty with
      | 3 => w 0 % 2 ^ 16 == 0 || w 1 % 256 != 0
      | 4 => decide (6 ≤ w 0 % 8) || w 1 % 8 != 0 || w 3 % 256 != 0
      | 6 => if net then w 1 % 64 != 0 || decide (1024 < bits (w 2) 32 11) else w 1 % 8 != 0
      | 7 => decide (6 ≤ w 0 % 8) || w 1 % 8 != 0
      | 8 => w 3 % 64 != 0
      | _ => false)

/-- Execute the next packet if it is of a TYPE; a bad one stops the queue. -/
def State.onPacket (s : State) (func q type : Nat) (run : (Nat → Nat) → Option State) : Option State :=
  if Config.physFn < func ∨ 8 ≤ q then none
  else
    match (s.cq func q).packet with
    | none => none
    | some ws =>
      if ws[0]?.getD 0 / 2 ^ 56 ≠ type then none
      else if badPacket ws then some (s.stopQueue func q 1 0)
      else run (fun i => ws[i]?.getD 0)

def State.evNopPacket (s : State) (func q : Nat) : Option State := s.onPacket func q 0 (fun _ => some (s.stepCq func q))

/-- A queue notes a launch of its own, for its fences. -/
def State.noteLaunch (s : State) (func q l : Nat) : State :=
  s.setCq func q { s.cq func q with launches := (s.cq func q).launches ++ [l] }

/-- LAUNCH: executed when the launch joins the run list; while that is full the queue waits. -/
def State.evLaunchPacket (s : State) (func q : Nat) : Option State :=
  s.onPacket func q 1 (fun w =>
    let c := s.cq func q
    match s.submit func c.aspace (w 1) (some q) (if w 0 % 2 = 1 then c.lastLaunch else none) [] with
    | .fault e => some (s.queueFault func q .frontEnd e)
    | .stop r => some (s.stopQueue func q r 0)
    | .full => none
    | .ok s1 l =>
      let s2 := s1.noteLaunch func q l
      some ((s2.setCq func q { s2.cq func q with lastLaunch := some l }).stepCq func q))

/-- An entry of the run list for a RESUME. -/
def RunEntry.isResume : RunEntry → Bool
  | .resume _ _ _ _ _ => true
  | .launch _ => false

/-- RESUME: it joins the run list after earlier RESUMEs, ahead of every launch (R200, R392; log 91). -/
def State.evResumePacket (s : State) (func q : Nat) : Option State :=
  s.onPacket func q 2 (fun w =>
    let c := s.cq func q
    if Config.runList ≤ s.runList.length then none
    else
      let e := RunEntry.resume func c.aspace (some q) (BitVec.ofNat 64 (w 1)) (w 2)
      let s1 : State := { s with runList := s.runList.takeWhile RunEntry.isResume ++ [e] ++ s.runList.dropWhile RunEntry.isResume }
      some ((s1.setCq func q { c with resumes := c.resumes + 1 }).stepCq func q))

/-- Enter a level of nesting, or stop with IB_DEPTH (R391); a level of no packets has ended. -/
def State.enterIb (s : State) (func q va units : Nat) : State :=
  let c := s.cq func q
  if 4 ≤ c.levels.length then s.stopQueue func q 2 0
  else if units = 0 then s.stepCq func q
  else s.setCq func q { c with levels := { va := BitVec.ofNat 64 va, next := 0, total := 8 * units } :: c.levels, units := [] }

def State.evIbPacket (s : State) (func q : Nat) : Option State :=
  s.onPacket func q 3 (fun w => some (s.enterIb func q (w 1) (w 0 % 2 ^ 16)))

/-- PRED: the word is read once, and one arm runs. At level 4 it stops before it reads (log 90). -/
def State.evPredPacket (s : State) (func q : Nat) : Option State :=
  s.onPacket func q 4 (fun w =>
    let c := s.cq func q
    if 4 ≤ c.levels.length then some (s.stopQueue func q 2 0)
    else
      match s.unitWord func c.aspace (w 1) 8 .frontEnd with
      | .error e => some (s.queueFault func q .frontEnd e)
      | .ok (s1, x) =>
        let thn := bits (w 0) 16 16
        if monHolds (w 0 % 8) 3 x (w 2) then some (s1.enterIb func q (w 3) thn)
        else some (s1.enterIb func q (w 3 + 256 * thn) (bits (w 0) 32 16)))

/-- Every earlier LAUNCH, RESUME and ARM-fired launch of the queue has completed. -/
def State.fenced (s : State) (func q : Nat) : Bool :=
  let c := s.cq func q
  c.resumes == 0 && c.launches.all (fun l => ((s.launches.find l).map Launch.complete).getD true)

def State.evFencePacket (s : State) (func q : Nat) : Option State :=
  s.onPacket func q 5 (fun _ =>
    if !s.fenced func q then none
    else some ((s.setCq func q { s.cq func q with launches := [] }).stepCq func q))

/-- The interrupt of a SIGNAL, and its end. -/
def State.signalEnd (s : State) (func q : Nat) (w0 : Nat) : State :=
  let s1 : State := if bits w0 16 1 = 1 then { s with out := s.out ++ [Output.msix func (w0 % 2 ^ 16)] } else s
  (s1.setCq func q { s1.cq func q with launches := [] }).stepCq func q

/-- SIGNAL: a FENCE, then a store whose write has completed, or a tagged message (R395, R411); then the interrupt. -/
def State.evSignalPacket (s : State) (func q : Nat) : Option State :=
  s.onPacket func q 6 (fun w =>
    let c := s.cq func q
    if !s.fenced func q then none
    else if bits (w 0) 17 1 = 1 then
      let n := 64 * bits (w 2) 32 11
      match s.unitLoad func c.aspace (w 1) n .frontEnd with
      | .error e => some (s.queueFault func q .frontEnd e)
      | .ok (s1, payload) =>
        let t := s1.stamp 4
        some (State.signalEnd { t.1 with out := t.1.out ++ [Output.message func ((t.1.fn func).portTo (bits (w 0) 18 6)) (bits (w 0) 18 6) (w 2 % 2 ^ 32) payload t.2] } func q (w 0))
    else
      match c.due with
      | some t => if s.writesDone t c.hosts then some (s.signalEnd func q (w 0)) else none
      | none =>
        match s.unitStore func c.aspace none (w 1) (toLE 8 (w 2)) with
        | .error e => some (s.queueFault func q .write e)
        | .ok r => some (r.1.setCq func q { (r.1.cq func q).hold with due := some r.2.1, hosts := r.2.2 }))

/-- WAIT: until the word satisfies the relation, as WAITCMP evaluates it (R58 to R60): at once, or when the monitor that it
arms finds the relation true; where the table is full, and for a word of host memory, it looks again every 2,048 ticks. -/
def State.evWaitPacket (s : State) (func q : Nat) : Option State :=
  s.onPacket func q 7 (fun w =>
    let c := s.cq func q
    let mine : Monitor → Bool := fun m => m.who == .queue func q
    if c.woken then some (s.stepCq func q)
    else if s.monitors.any (fun m => mine m && m.slice != 64) then none
    else if (c.due.map (fun t => decide (s.now < t))).getD false then none
    else
      let s0 := s.unitWalk ioPlace func c.aspace (w 1) .frontEnd
      match s0.xlNow ioPlace func c.aspace (w 1) .frontEnd with
      | .bad r => some (s0.queueFault func q .frontEnd (r, w 1))
      | .miss => none
      | .ok pa =>
        if s0.ecc.contains (lineOf pa) then some (s0.stopQueue func q 4 0)
        else
          let r := State.unitRead { s0 with monitors := s0.monitors.filter (fun m => !mine m) } func pa 8
          if monHolds (w 0 % 8) 3 (leNat r.2) (w 2) then some (r.1.stepCq func q)
          else if regionOf pa = 4 then some (r.1.setCq func q { (r.1.cq func q).hold with due := some (s.now + 2048) })
          else
            let a := r.1.armMonitor { slice := 64, who := .queue func q, since := s.now, func := func, pa := pa, ty := 3
                                      rel := w 0 % 8, value := w 2 }
            some (a.1.setCq func q { (a.1.cq func q).hold with due := match a.2 with | .monitorFull t => some t | _ => none }))

/-- ARM (R394). -/
def State.evArmPacket (s : State) (func q : Nat) : Option State :=
  s.onPacket func q 8 (fun w =>
    let a : Arm := { queue := q, va := BitVec.ofNat 64 (w 1), aspace := (s.cq func q).aspace, tag := w 2 % 2 ^ 32
                     cap := bits (w 2) 32 11, buf := BitVec.ofNat 64 (w 3) }
    some ((s.updFn func (fun f => { f with arms := f.arms.set (w 0 % 64) a })).stepCq func q))

/-! ### The queue's registers (R387, R393) -/

/-- A write by the host takes effect: its function exists, and firmware has been accepted (R402). -/
def State.hostMay (s : State) (func : Nat) : Bool := s.trust.accepted && decide (func ≤ Config.physFn)

/-- A doorbell: TAIL; what is fetched from now on is new (R388). -/
def State.evCqDoorbell (s : State) (func q v : Nat) : State :=
  if !s.hostMay func ∨ 8 ≤ q then s
  else
    let c := s.cq func q
    (s.setCq func q { c with tail := BitVec.ofNat 32 v, units := [] }).settleCq func q

/-- RESTART of a stopped queue, with SKIP past the packet that stopped it: not where no packet did, as after BAD_TAIL, after
BAD_IMAGE, whose RESUME has executed, and after the launch of an ARM entry (log 47). -/
def State.restartCq (s : State) (func q : Nat) (skip : Bool) : State :=
  let c := s.cq func q
  if c.state ≠ 2 then s
  else
    let s1 := s.setCq func q { c with state := 1, stopReason := 0, stopDetail := 0, units := [], byPacket := false }
    if skip ∧ c.byPacket then s1.stepCq func q else s1.settleCq func q

def State.evCqRestart (s : State) (func q : Nat) (skip : Bool) : State :=
  if !s.hostMay func ∨ 8 ≤ q then s else s.restartCq func q skip

/-- A ring's SIZE_LOG2 that EN accepts (R387, R396). -/
def ringSize (n : Nat) : Bool := decide (6 ≤ n) && decide (n ≤ 16)

/-- A write of CQ_CTL: while EN is 1 only EN, RESTART and SKIP act. -/
def State.evCqEnable (s : State) (func q v : Nat) : State :=
  if !s.hostMay func ∨ 8 ≤ q then s
  else
    let c := s.cq func q
    let en := bits v 31 1 == 1
    let c1 := if c.en then { c with en := en }
      else { c with aspace := bits v 24 4, sizeLog2 := bits v 16 4, en := en && ringSize (bits v 16 4) }
    let s1 := (s.setCq func q c1).settleCq func q
    if v % 2 = 1 then s1.restartCq func q (bits v 1 1 == 1) else s1

/-! ### Tagged messages (R395, R411) -/

/-- The lowest-numbered entry that a message matches. -/
def Func.armFor (f : Func) (tag len : Nat) : Option (Nat × Arm) :=
  f.arms.find? (fun a => a.2.tag == tag && decide (len ≤ 64 * a.2.cap))

/-- Every die's clock takes in a received stamp. -/
def State.mergeClocks (s : State) (mp mc : Nat) : State :=
  (List.range 5).foldl (fun s d => s.updDie d (fun x => { x with hlc := x.hlc.merge s.now mp mc })) s

/-- A message that nothing takes. -/
def State.unmatched (s : State) (func tag : Nat) : State := s.event func 4 (BitVec.ofNat 64 tag) 0 0

/-- TAGGED_MESSAGE_ARRIVE at a port: those of one tick are matched in port order. The payload is written, the entry
disarmed, and its launch joins the run list; it starts once the payload's writes have completed (log 48). -/
def State.evTaggedMessageArrive (s : State) (func : Nat) (m : MsgHead) (payload : List Byte) (mp mc : Nat) : Option State :=
  if Config.physFn < func ∨ 65536 < payload.length ∨ 8 ≤ m.port ∨ (s.msgAt.1 = s.now ∧ m.port < s.msgAt.2) then none
  else
    let s0 : State := { s.mergeClocks mp mc with msgAt := (s.now, m.port) }
    match (s0.fn func).armFor m.tag payload.length with
    | none => some (s0.unmatched func m.tag)
    | some (k, a) =>
      if Config.runList ≤ s.runList.length then none
      else
        match s0.unitStore func a.aspace none a.buf.toNat payload with
        | .error _ => some (s0.unmatched func m.tag)
        | .ok (s1, due, hosts) =>
          let s2 := s1.updFn func (fun f => { f with arms := f.arms.del k })
          let regs := [a.buf, BitVec.ofNat 64 payload.length, BitVec.ofNat 64 m.tag]
          some (match s2.submit func a.aspace a.va.toNat (some a.queue) none regs with
            | .fault _ => s2.stopQueue func a.queue 4 0 false
            | .stop r => s2.stopQueue func a.queue r 0 false
            | .full => s2
            | .ok s3 l => (s3.updLaunch l (fun x => { x with notBefore := due, hosts := hosts })).noteLaunch func a.queue l)

def execFrontEndFetch (func q : Nat) (s : State) := s.unitStep (s.evFrontEndFetch func q)
def execNopPacket (func q : Nat) (s : State) := s.unitStep (s.evNopPacket func q)
def execLaunchPacket (func q : Nat) (s : State) := s.unitStep (s.evLaunchPacket func q)
def execResumePacket (func q : Nat) (s : State) := s.unitStep (s.evResumePacket func q)
def execIbPacket (func q : Nat) (s : State) := s.unitStep (s.evIbPacket func q)
def execPredPacket (func q : Nat) (s : State) := s.unitStep (s.evPredPacket func q)
def execFencePacket (func q : Nat) (s : State) := s.unitStep (s.evFencePacket func q)
def execSignalPacket (func q : Nat) (s : State) := s.unitStep (s.evSignalPacket func q)
def execWaitPacket (func q : Nat) (s : State) := s.unitStep (s.evWaitPacket func q)
def execArmPacket (func q : Nat) (s : State) := s.unitStep (s.evArmPacket func q)
def execCqDoorbell (func q v : Nat) (s : State) := s.unitStep (some (s.evCqDoorbell func q v))
def execCqEnable (func q v : Nat) (s : State) := s.unitStep (some (s.evCqEnable func q v))
def execCqRestart (func q : Nat) (skip : Bool) (s : State) := s.unitStep (some (s.evCqRestart func q skip))
def execTaggedMessageArrive (func : Nat) (m : MsgHead) (payload : List Byte) (mp mc : Nat) (s : State) :=
  s.unitStep (s.evTaggedMessageArrive func m payload mp mc)

end Sys2Proof.Machine
end

