-- ==== Sys2Proof/Machine/EvHost.lean ====
section
/-!
DEFINITION. The registers that the host reads and writes, and the control mailbox (R386, R396 to R408, R413, R416, R424
and the register rules of earlier chapters).
-/

namespace Sys2Proof.Machine

/-- Set bits of the low 16. -/
def popBits (x : BitVec 16) : Nat := ((List.range 16).filter (fun i => x.getLsbD i)).length

/-- Every function's number (R386). -/
def allFuncs : List Nat := List.range (Config.physFn + 1)

/-- A host write through a function's window changes the state, where it may (R402). -/
def State.hostDo (s : State) (func : Nat) (run : State → State) : State := if s.hostMay func then run s else s

/-! ### Event ring (R396) -/

/-- A write of EVQ_CTL. -/
def State.evEvqCtlWrite (s : State) (func v : Nat) : State :=
  s.hostDo func (fun s =>
    let f := s.fn func
    let size := if f.evEn then f.evSize else bits v 16 4
    let en := bits v 31 1 == 1 && ringSize size
    (s.updFn func (fun f => { f with
      evLost := f.evLost && bits v 32 1 == 0, evEn := en, evSize := size, evVector := v % 2 ^ 16 })).drainEvents func drainFuel)

/-- A write of EVQ_HEAD frees space. -/
def State.evEvqHeadWrite (s : State) (func v : Nat) : State :=
  s.hostDo func (fun s => (s.updFn func (fun f => { f with evHead := BitVec.ofNat 32 v })).drainEvents func drainFuel)

/-! ### MX regions (R19, R24) -/

/-- A write of MODE: 3 is ignored, any other sets BUSY. -/
def State.evMxModeChange (s : State) (e mode : Nat) : State :=
  s.hostDo Config.physFn (fun s =>
    if 64 ≤ e ∨ 3 ≤ mode then s else s.setMx e { s.mxe e with mode := mode, busy := true })

/-- MX_MODE_CHANGE_DONE: the lines of both views have left L2. -/
def State.evMxModeChangeDone (s : State) (e : Nat) : Option State :=
  if !(s.mxe e).busy then none else some (s.mxDone e)

/-- A write of MXR_CTL: LEN64K and, while MODE reads 0, FMT; a FMT above 2 leaves MODE at 0. MODE is written where the write
covers the high half. -/
def State.mxCtlWrite (s : State) (e v : Nat) (hi : Bool) : State :=
  let x := s.mxe e
  let y := { x with len := v % 2 ^ 24, fmt := if x.modeOf = 0 then bits v 28 4 else x.fmt }
  if hi then (s.setMx e y).evMxModeChange e (if y.fmt ≤ 2 ∨ bits v 32 2 = 3 then bits v 32 2 else 0) else s.setMx e y

/-! ### Quotas and ways (R40, R47, R192) -/

/-- Two functions' way masks conflict. -/
def waysClash (adapt code alloc : BitVec 16) (f : Func) : Bool :=
  (code ||| adapt) &&& (f.alloc ||| f.code ||| f.adapt) != 0 || alloc &&& (f.code ||| f.adapt) != 0

/-- A write of a function's L2_WAYS. -/
def State.evL2WaysWrite (s : State) (func v : Nat) : State :=
  s.hostDo func (fun s =>
    let alloc : BitVec 16 := BitVec.ofNat 16 v
    let code : BitVec 16 := BitVec.ofNat 16 (v / 2 ^ 16)
    let adapt : BitVec 16 := BitVec.ofNat 16 (v / 2 ^ 32)
    if 4 < popBits code ∨ (code ||| adapt) &&& ~~~alloc ≠ 0 ∨ code &&& adapt ≠ 0
        ∨ allFuncs.any (fun f => f != func && waysClash adapt code alloc (s.fn f)) then
      s.updFn func (fun f => { f with waysErr := true })
    else s.updFn func (fun f => { f with waysErr := false, adapt := adapt, code := code, alloc := alloc }))

/-- A write of a function's L2_LEASE. -/
def State.evL2LeaseWrite (s : State) (func v : Nat) : State :=
  s.hostDo func (fun s => s.updFn func (fun f => { f with lease := min 4096 (max 32 (v % 2 ^ 13)) }))

/-- A write of a function's CODE_CANTON. -/
def State.evCodeCantonWrite (s : State) (func v : Nat) : State :=
  s.hostDo func (fun s =>
    let q := v % 256
    let others := allFuncs.foldl (fun n f => if f = func then n else n + (s.fn f).quota) 0
    if 128 < q ∨ 128 < others + q then s.updFn func (fun f => { f with cantonErr := true })
    else s.updFn func (fun f => { f with cantonErr := false, quota := q }))

/-! ### Trace, profile and power (R413, R416, R424) -/

/-- A write of TRC_CTL: EN begins the rings anew (R415); a size below 6 leaves it at 0 (log 52). -/
def State.evTraceEnable (s : State) (func v : Nat) : State :=
  s.hostDo func (fun s =>
    s.updFn func (fun f =>
      let size := if f.trcEn then f.trcSize else v % 16
      let en := bits v 63 1 == 1 && decide (6 ≤ size)
      { f with trcEn := en, trcKinds := bits v 16 8, trcSize := size
               rings := if en && !f.trcEn then Vector.replicate 5 Ring.reset else f.rings }))

/-- PROF_CTL: CLEAR and FREEZE. -/
def State.evProfClear (s : State) (core : Nat) : State :=
  s.hostDo Config.physFn (fun s => if Config.cores ≤ core then s else s.updCore core (fun k => { k with prof := [] }))
def State.evProfFreeze (s : State) (core : Nat) (on : Bool) : State :=
  s.hostDo Config.physFn (fun s => if Config.cores ≤ core then s else s.updCore core (fun k => { k with profFreeze := on }))

/-- A write of MOD_PWR's LIMIT: the clocks are stretched while the module draws more. -/
def State.evPowerLimitWrite (s : State) (v : Nat) : State :=
  s.hostDo Config.physFn (fun s =>
    let w := min 2200 (max 1200 (v % 2 ^ 12))
    { s with limit := w, powerStretch := decide (w < s.measured) })

/-! ### The mailbox (R397 to R404) -/

/-- A command of the physical function alone. -/
def State.hcPhys (s : State) (func code : Nat) (run : State → Vector Reg 4 → State) : State :=
  s.hcRun func code (fun s a => if func ≠ Config.physFn then s.hcEnd func 1 0 else run s a)

/-- The codes of R397. -/
def hcCodes : List Nat := [1, 2, 3, 4, 5, 6, 7, 8, 9, 10, 0x10, 0x11, 0x12, 0x13, 0x14]

/-- HC_CMD_UNKNOWN. -/
def State.evHcCmdUnknown (s : State) (func code : Nat) : State :=
  if hcCodes.contains code then s else s.hcRun func code (fun s _ => s.hcEnd func 5 0)

/-- An INVALIDATE names n bytes at an address. -/
def invalidates (sc : Option (Nat × Nat × Nat)) (aspace va n : Nat) : Bool :=
  match sc with
  | none => true
  | some (a, lo, hi) => a == aspace && decide (lo < va + n) && decide (va < hi)

/-- The address that a window maps to a line of the partition. -/
def Group.windowVa (g : Group) (k : Nat) : Option Nat :=
  (g.smap.toList.find? (fun m => decide (smapOff m ≤ 64 * k) && decide (64 * k < smapOff m + smapLen m))).map
    (fun m => smapVa m + (64 * k - smapOff m))

/-- The window lines of a function that an INVALIDATE names are written back and dropped. -/
def State.dropNamed (s : State) (func : Nat) (sc : Option (Nat × Nat × Nat)) : State :=
  s.groups.foldl (fun s g =>
    match s.launches.find g.2.launch with
    | some l =>
      if l.func ≠ func then s
      else (g.2.lines.map Prod.fst).foldl (fun s k =>
        if invalidates sc l.aspace ((g.2.windowVa k).getD 0) 64 then (s.writeback g.1 k).dropLine g.1 k else s) s
    | none => s) s

/-- INVALIDATE (R28): the function's cached translations that it names go, and the window lines that they filled (log 49);
BUSY stays until what was translated has been performed. -/
def State.evInvalidate (s : State) (func : Nat) : State :=
  s.hcRun func 0x06 (fun s a =>
    let sc := Config.invalidateScope a.toList
    let s1 := s.dropNamed func sc
    State.updFn { s1 with tlb := s1.tlb.filter (fun t =>
      !(t.func == func && invalidates sc t.aspace (t.page * 2 ^ spanOf t.lvl) (2 ^ spanOf t.lvl))) } func (fun f => { f with hcMark := s1.nextId }))

/-- The mailbox runs a command. -/
def State.hcRuns (s : State) (func code : Nat) : Bool := (s.fn func).hcBusy && (s.fn func).hcCmd == BitVec.ofNat 64 code

def State.evInvalidateComplete (s : State) (func : Nat) : Option State :=
  let m := (s.fn func).hcMark
  if !s.hcRuns func 0x06 || s.reqs.any (fun r => r.func == func && decide (r.id < m))
      || s.pending.any (fun p => p.func == func && decide (p.id < m) && decide (s.now < p.t)) then none
  else some (s.hcEnd func 0 0)

/-- PEER_SET (R401). -/
def State.evPeerSet (s : State) (func : Nat) : State :=
  s.hcRun func 0x07 (fun s a =>
    if 64 ≤ a[0].toNat ∨ fld a[1] 25 7 ≠ 0 ∨ fld a[1] 40 24 ≠ 0 then s.hcEnd func 5 0
    else
      let p : Peer := { id := a[0].toNat, device := fld a[1] 0 16, func := fld a[1] 16 9, ports := fld a[1] 32 8 }
      (s.updFn func (fun f => { f with peers := f.peers.set a[0].toNat p })).hcEnd func 0 0)

/-- COLL_SETUP (R401): N in bits [31:0] of a 64-bit word, OWN_RANK in bits [63:32] (log 50). -/
def State.evCollSetup (s : State) (func : Nat) : State :=
  s.hcRun func 0x08 (fun s a =>
    if 16 ≤ a[0].toNat then s.hcEnd func 5 0
    else
      match s.unitWord func 0 a[1].toNat 8 .read with
      | .error _ => s.hcEnd func 8 0
      | .ok (s1, w) =>
        let n := bits w 0 32
        let rank := bits w 32 32
        if n < 2 ∨ 64 < n ∨ n ≤ rank then s.hcEnd func 5 0
        else
          match s1.unitLoad func 0 (a[1].toNat + 8) n .read with
          | .error _ => s.hcEnd func 8 0
          | .ok (s2, ids) =>
            let x : Coll := { n := n, rank := rank, peers := ids.map BitVec.toNat
                              ctr := ((s2.fn func).coll a[0].toNat).ctr, got := [] }
            (s2.updFn func (fun f => { f with colls := f.colls.set a[0].toNat x })).hcEnd func 0 0)

/-- The report of ATTEST without its signature (R404); STATE follows a DIGEST as one byte (log 51). -/
def State.report (s : State) (func : Nat) (nonce : List Byte) : List Byte :=
  let mods := (List.range 256).flatMap (fun i => (s.modl i).digest ++ [BitVec.ofNat 8 (s.modl i).state])
  toLE 8 0x545254415A55 ++ toLE 8 1 ++ nonce ++ shake256 s.trust.pubKey ++ s.trust.digest ++ toLE 8 s.trust.version.toNat
  ++ shake256 mods ++ toLE 8 func ++ toLE 8 s.now

/-- The signature over a report: the index of the leaf, and what the device key makes with it (R403). -/
def Trust.sign (t : Trust) (rep : List Byte) : List Byte :=
  toBE 4 t.leaf ++ (List.range (xmssSigLen - 4)).map (Config.attestSig t.leaf rep)

/-- ATTEST: the leaf counter is raised before the signature is made (R403). -/
def State.evAttest (s : State) (func : Nat) : State :=
  s.hcRun func 0x09 (fun s a =>
    if 2 ^ 20 ≤ s.trust.leaf then s.hcEnd func 2 0
    else
      match s.unitLoad func 0 a[0].toNat 32 .read with
      | .error _ => s.hcEnd func 8 0
      | .ok (s1, nonce) =>
        let rep := s.report func nonce
        let s2 : State := { s1 with trust := { s1.trust with leaf := s1.trust.leaf + 1 } }
        match s2.unitStore func 0 none a[1].toNat (rep ++ s.trust.sign rep) with
        | .error _ => s2.hcEnd func 8 0
        | .ok r => r.1.hcEnd func 0 0)

/-- Reset a function: queues disabled, groups terminated, monitors answered (R60), ARM entries disarmed. -/
def State.resetFunction (s : State) (f : Nat) : State :=
  let s1 := s.updFn f (fun x => { x with arms := [], cqs := x.cqs.map (fun c => { c with en := false, state := if c.state = 2 then 2 else 0 }) })
  let s2 := (s1.monitors.filter (fun m => m.func == f)).foldl State.resetMonitor s1
  (s2.launches.filter (fun l => l.2.func == f && !l.2.complete)).foldl (fun s l => s.terminate l.1) s2

/-- FUNCTION_RESET: a virtual function resets itself, the physical function the one in ARG0 (log 53). -/
def State.evFunctionReset (s : State) (func : Nat) : State :=
  s.hcRun func 0x0A (fun s a =>
    if func ≠ Config.physFn then (s.resetFunction func).hcEnd func 0 0
    else if Config.physFn < a[0].toNat then s.hcEnd func 5 0
    else (s.resetFunction a[0].toNat).hcEnd func 0 0)

/-! ### Modules and keys (R180 to R182, R193, R398) -/

/-- The directory's entries, `none` where a field or the order is bad (R182): offset and length less one, in 4 KiB
units. -/
def parseDir (len : Nat) : List Nat → Nat → Option (List (Nat × Nat))
  | [], _ => some []
  | w :: t, lo =>
    let off := bits w 16 16
    let n := bits w 0 6
    if bits w 6 10 ≠ 0 ∨ off < lo ∨ len < off + n + 1 then none
    else (parseDir len t (off + n + 1)).map (fun r => (off, n) :: r)

/-- MODULE_LOAD. -/
def State.evModuleLoad (s : State) (func : Nat) : State :=
  s.hcPhys func 0x10 (fun s a =>
    let len := fld a[1] 0 16
    if a[0].toNat % 4096 ≠ 0 ∨ len = 0 ∨ fld a[1] 49 15 ≠ 0 ∨ 8 ≤ a[3].toNat then s.hcEnd func 5 0
    else
      match (List.range 256).find? (fun i => (s.modl i).state == 0), s.trust.keys.find a[3].toNat with
      | some i, some key =>
        match s.unitLoad func 0 a[0].toNat (len * 4096) .read, s.unitLoad func 0 a[2].toNat xmssSigLen .read with
        | .ok (s1, bs), .ok (_, sig) =>
          let digest := shake256 bs
          let dir := (bs.drop (fld a[1] 16 16 * 4096)).take (4 * fld a[1] 32 16)
          match parseDir len ((wordsOf dir).map BitVec.toNat) 0 with
          | some d =>
            if dir.length ≠ 4 * fld a[1] 32 16 ∨ !xmssVerify key (digest ++ toLE 8 a[1].toNat) sig then s.hcEnd func 6 0
            else
              let m : Module := { digest := digest, state := 1, shared := fld a[1] 48 1 == 1, len := len
                                  dirOff := fld a[1] 16 16, dirCount := fld a[1] 32 16, dir := d, bytes := bs }
              (s1.setModl i m).hcEnd func 0 i
          | none => s.hcEnd func 6 0
        | _, _ => s.hcEnd func 8 0
      | _, _ => s.hcEnd func 7 0)

/-- A binding that conflicts with one to be made (R181, R398). -/
def State.bindClash (s : State) (f : Nat) (b : Binding) : Bool :=
  let m := s.modl b.modIdx
  m.state != 1
  || (!m.shared && s.funcs.any (fun x => x.1 != f && x.2.bindings.any (fun y => y.2.modIdx == b.modIdx)))
  || (s.fn f).bindings.any (fun y => y.2.aspace == b.aspace && decide (y.2.va4k < b.va4k + m.len)
       && decide (b.va4k < y.2.va4k + (s.modl y.2.modIdx).len))

/-- MODULE_BIND. -/
def State.evModuleBind (s : State) (func : Nat) : State :=
  s.hcPhys func 0x11 (fun s a =>
    let f := fld a[1] 0 9
    let slot := fld a[1] 32 6
    let unbind := fld a[1] 40 1 == 1
    if 256 ≤ a[0].toNat ∨ Config.physFn < f ∨ fld a[1] 9 7 ≠ 0 ∨ fld a[1] 20 12 ≠ 0 ∨ fld a[1] 38 2 ≠ 0 ∨ fld a[1] 41 23 ≠ 0
        ∨ a[3] ≠ 0 ∨ (!unbind ∧ a[2].toNat % 4096 ≠ 0) then s.hcEnd func 5 0
    else if unbind then
      if (s.modl a[0].toNat).state ≠ 1 then s.hcEnd func 7 0
      else (s.updFn f (fun x => { x with bindings := x.bindings.del slot })).hcEnd func 0 0
    else
      let b : Binding := { modIdx := a[0].toNat, aspace := fld a[1] 16 4, va4k := a[2].toNat / 4096 }
      if ((s.fn f).bindings.find slot).isSome ∨ s.bindClash f b then s.hcEnd func 7 0
      else (s.updFn f (fun x => { x with bindings := x.bindings.set slot b })).hcEnd func 0 0)

/-- MODULE_UNLOAD: the module is REVOKED at once (R193). -/
def State.evModuleUnload (s : State) (func : Nat) : State :=
  s.hcPhys func 0x12 (fun s a =>
    if 256 ≤ a[0].toNat ∨ a[1] ≠ 0 ∨ a[2] ≠ 0 ∨ a[3] ≠ 0 then s.hcEnd func 5 0
    else
      let i := a[0].toNat
      let m := s.modl i
      if m.state ≠ 1 then s.hcEnd func 7 0
      else
        { s.setModl i { m with state := 2 } with
          cores := s.cores.map (fun k => (k.1, { k.2 with residency := k.2.residency.map (fun e =>
            if e.state ≠ 0 ∧ e.modIdx = i then { e with revoked := true } else e) })) })

/-- The unload completes once no entry of any core names the module. -/
def State.evModuleUnloadComplete (s : State) (func : Nat) : Option State :=
  match s.modules.find? (fun m => m.2.state == 2) with
  | none => none
  | some m =>
    if !s.hcRuns func 0x12 || s.cores.any (fun k => k.2.residency.toList.any (fun e => e.state != 0 && e.modIdx == m.1)) then none
    else
      some (State.hcEnd { s.setModl m.1 Module.free with
        funcs := s.funcs.map (fun f => (f.1, { f.2 with bindings := f.2.bindings.filter (fun b => b.2.modIdx != m.1) })) } func 0 0)

/-- KEY_ENROLL (R403; log 58). -/
def State.evKeyEnroll (s : State) (func : Nat) : State :=
  s.hcPhys func 0x13 (fun s a =>
    let slot := fld a[1] 0 3
    if fld a[1] 3 5 ≠ 0 ∨ fld a[1] 9 55 ≠ 0 ∨ a[2] ≠ 0 ∨ a[3] ≠ 0 then s.hcEnd func 5 0
    else if fld a[1] 8 1 = 1 then
      State.hcEnd { s with trust := { s.trust with keys := s.trust.keys.del slot } } func 0 0
    else
      match s.unitLoad func 0 a[0].toNat xmssKeyLen .read with
      | .error _ => s.hcEnd func 8 0
      | .ok (s1, key) =>
        if beNat (key.take 4) ≠ xmssOid then s.hcEnd func 6 0
        else State.hcEnd { s1 with trust := { s1.trust with keys := s1.trust.keys.set slot key } } func 0 0)

/-! ### Firmware (R402) -/

/-- The checks of an image: the key's digest is the fused one, the signature over the image's digest, the
version (log 59). -/
def Trust.passes (t : Trust) (image sig : List Byte) : Bool :=
  decide (t.minVersion.toNat ≤ (Config.fwVersion image).toNat) && xmssVerify t.key (shake256 image) sig && shake256 t.key == t.fused

/-- FW_LOAD: the only image is written over; it runs from the next reset on. -/
def State.evFwLoad (s : State) (func : Nat) : State :=
  s.hcPhys func 0x14 (fun s a =>
    if a[0].toNat % 4096 ≠ 0 ∨ a[1].toNat < 4096 ∨ 2 ^ 26 < a[1].toNat ∨ a[3] ≠ 0 then s.hcEnd func 5 0
    else
      match s.unitLoad func 0 a[0].toNat a[1].toNat .read, s.unitLoad func 0 a[2].toNat xmssSigLen .read with
      | .ok (s1, image), .ok (_, sig) =>
        if !s.trust.passes image sig then s.hcEnd func 6 0
        else State.hcEnd { s1 with trust := { s1.trust with image := image, sig := sig } } func 0
          ((Config.fwVersion image).toNat % 2 ^ 32)
      | _, _ => s.hcEnd func 8 0)

/-- FIRMWARE_VERIFY: what the root of trust does at reset. -/
def State.evFirmwareVerify (s : State) : State :=
  let t := s.trust
  { s with trust := { t with digest := shake256 t.image, version := Config.fwVersion t.image, accepted := t.passes t.image t.sig } }

/-! ### Reading the register map (R386) -/

def bit (b : Bool) (n : Nat) : Nat := if b then 2 ^ n else 0

/-- A register of queue n, at its offset from 0x200 + 0x40n. -/
def Cq.reg (c : Cq) (o : Nat) : Nat :=
  match o with
  | 0x00 => c.base.toNat
  | 0x08 => bit c.en 31 + c.aspace * 2 ^ 24 + c.sizeLog2 * 2 ^ 16
  | 0x10 => c.head.toNat
  | 0x20 => c.stopReason * 2 ^ 56 + c.stopDetail * 2 ^ 48 + c.state
  | _ => 0

/-- A register of a pool, at its offset from 0x500 + 0x40k. -/
def Pool.reg (p : Pool) (o : Nat) : Nat :=
  match o with
  | 0x00 => p.state * 2 ^ 62 + p.closeReason * 2 ^ 60 + bit p.err 59 + p.owner * 2 ^ 32
  | 0x08 => p.base.toNat
  | 0x10 => p.aspace * 2 ^ 32 + p.ntasks
  | 0x18 => p.spill.toNat
  | 0x20 => p.tolerance.toNat * 2 ^ 32 + p.threshold.toNat
  | _ => 0

/-- L2_WAYS, L2_LEASE and CODE_CANTON, by number. -/
def Func.quotaReg (f : Func) (i : Nat) : Nat :=
  match i with
  | 0 => bit f.waysErr 63 + f.adapt.toNat * 2 ^ 32 + f.code.toNat * 2 ^ 16 + f.alloc.toNat
  | 1 => f.lease
  | 2 => bit f.cantonErr 63 + f.quota
  | _ => 0

/-- A register of the function block below 0x0B00. -/
def Func.reg (f : Func) (off : Nat) : Nat :=
  if off = 0 then f.hcCmd.toNat
  else if off ≤ 0x20 then (f.hcArgs[off / 8 - 1]?.getD 0).toNat
  else if off = 0x28 then bit f.hcBusy 63 + f.hcResult * 2 ^ 56 + f.hcValue
  else if off = 0x100 then f.evBase.toNat
  else if off = 0x108 then bit f.evLost 32 + bit f.evEn 31 + f.evSize * 2 ^ 16 + f.evVector
  else if off = 0x110 then f.evHead.toNat
  else if off = 0x118 then f.evTail.toNat
  else if 0x200 ≤ off ∧ off < 0x400 then (f.cq ((off - 0x200) / 64)).reg (off % 64)
  else if 0x400 ≤ off ∧ off ≤ 0x410 then f.quotaReg ((off - 0x400) / 8)
  else if off = 0x418 then f.kvPool.toNat
  else if off = 0x900 then f.trcBase.toNat
  else if off = 0x908 then bit f.trcEn 63 + f.trcKinds * 2 ^ 16 + f.trcSize
  else if 0x910 ≤ off ∧ off < 0x938 then (f.rings[(off - 0x910) / 8]?.getD Ring.reset).head
  else if 0x940 ≤ off ∧ off < 0x968 then (f.rings[(off - 0x940) / 8]?.getD Ring.reset).tail
  else if 0xA00 ≤ off ∧ off < 0xA20 then (f.bps[(off - 0xA00) / 8]?.getD 0).toNat
  else if off = 0xA20 then f.focusLr.toNat
  else if off = 0xA28 then f.focus.toNat
  else 0

/-- A word of the module table (R180). -/
def Module.reg (m : Module) (o : Nat) : Nat :=
  if o < 0x20 then leNat ((m.digest.drop o).take 8)
  else if o = 0x20 then m.state * 2 ^ 62 + bit m.shared 61 + m.len
  else if o = 0x28 then m.dirOff * 2 ^ 48 + m.dirCount
  else 0

/-- A register of a profile block (R416). -/
def Core.profReg (k : Core) (o : Nat) : Nat :=
  if o = 0 then bit k.profFreeze 63 + k.profFunc
  else if o < 0x30 then SMap.get 0 k.prof (issueKey ((o - 8) / 8))
  else if 0x40 ≤ o ∧ o < 0x180 then SMap.get 0 k.prof (histKey ((o - 0x40) / 0x40) (o % 0x40 / 8))
  else if 0x200 ≤ o ∧ o < 0x700 then SMap.get 0 k.prof (stallKey ((o - 0x200) / 0x100) (o % 0x100 / 8))
  else if 0x800 ≤ o ∧ o < 0x900 then SMap.get 0 k.prof (waitKey (o % 0x100 / 8))
  else 0

/-- A register of an MX entry (R19). -/
def MxEntry.reg (e : MxEntry) (o : Nat) : Nat :=
  match o with
  | 0x00 => e.view
  | 0x08 => e.packed
  | 0x10 => e.scale
  | _ => bit e.busy 63 + e.modeOf * 2 ^ 32 + e.fmt * 2 ^ 28 + e.len

/-- A counter of a die (R31, R418). -/
def Die.reg (d : Die) (o : Nat) : Nat :=
  match o with
  | 0x00 => d.corr
  | 0x08 => d.transient
  | 0x10 => d.lasting
  | _ => d.fqOverflow

/-- A device-wide register of the physical function's window. -/
def State.deviceReg (s : State) (off : Nat) : Nat :=
  if 0x10000 ≤ off ∧ off < 0x10000 + 0x40 * 257 then (s.fn ((off - 0x10000) / 0x40)).quotaReg (off % 0x40 / 8)
  else if 0x18000 ≤ off ∧ off < 0x18080 then (s.pool ((off - 0x18000) / 8)).owner * 2 ^ 32
  else if 0x20000 ≤ off ∧ off < 0x20800 then (s.mxe ((off - 0x20000) / 0x20)).reg (off % 0x20)
  else if 0x30000 ≤ off ∧ off < 0x30200 then
    let k := (off - 0x30000) / 8
    (s.slice k).overflow * 2 ^ 16 + (s.monitors.filter (fun m => m.slice == k)).length
  else if 0x31000 ≤ off ∧ off < 0x310A0 then (s.die ((off - 0x31000) / 0x20)).reg (off % 0x20)
  else if 0x40000 ≤ off ∧ off < 0x44000 then (s.modl ((off - 0x40000) / 0x40)).reg (off % 0x40)
  else if 0x80000 ≤ off ∧ off < 0x80000 + 0x1000 * 96 then (s.core ((off - 0x80000) / 0x1000)).profReg (off % 0x1000)
  else 0

/-- What a read of a register gives; an offset that no table lists reads 0. -/
def State.regRead (s : State) (func off : Nat) : Nat :=
  (if 0x500 ≤ off ∧ off < 0x900 then (s.pool ((off - 0x500) / 64)).reg (off % 64)
   else if off = 0xB00 then s.measured * 2 ^ 32 + s.limit
   else if off < 0xB00 then (s.fn func).reg off
   else if func = Config.physFn then s.deviceReg off
   else 0) % 2 ^ 64

/-! ### Writing it -/

/-- The base of a ring or table that is 4 KiB aligned: the low bits are kept 0 (log 54). -/
def page4k (v : Nat) : Reg := BitVec.ofNat 64 (v / 4096 * 4096)

/-- HC_CMD (R397): a nonzero RSVD bit or a code that is not listed completes with RESULT 5 (log 56). -/
def State.hcWrite (s : State) (func v : Nat) : State :=
  match v with
  | 0x01 => s.evPreempt func
  | 0x02 => s.evRetry func
  | 0x03 => s.evTerminate func
  | 0x04 => s.evReplay func
  | 0x05 => s.evCancel func
  | 0x06 => s.evInvalidate func
  | 0x07 => s.evPeerSet func
  | 0x08 => s.evCollSetup func
  | 0x09 => s.evAttest func
  | 0x0A => s.evFunctionReset func
  | 0x10 => s.evModuleLoad func
  | 0x11 => s.evModuleBind func
  | 0x12 => s.evModuleUnload func
  | 0x13 => s.evKeyEnroll func
  | 0x14 => s.evFwLoad func
  | _ => s.evHcCmdUnknown func v

/-- A queue's register is written; `lo` when the write covers its low half. -/
def State.cqWrite (s : State) (func q o v : Nat) (lo : Bool) : State :=
  match o with
  | 0x00 => let c := s.cq func q
            if c.en then s else s.setCq func q { c with base := page4k v }
  | 0x08 => s.evCqEnable func q v
  | 0x18 => if lo then s.evCqDoorbell func q (v % 2 ^ 32) else s
  | _ => s

/-- A pool's register is written by a function (R209). -/
def State.poolWrite (s : State) (func k o v : Nat) : State :=
  let p := s.pool k
  if !s.gqOwned func k then s
  else if o = 0 then
    if v % 4 = 3 then s.setPool k { p with err := true }
    else if v % 4 = 1 then s.evGqPoolOpen func k
    else if v % 4 = 2 then s.evGqPoolClose func k
    else s
  else if p.state = 1 then s
  else
    match o with
    | 0x08 => s.setPool k { p with base := BitVec.ofNat 64 v }
    | 0x10 => s.setPool k { p with aspace := bits v 32 4, ntasks := v % 2 ^ 21 }
    | 0x18 => s.setPool k { p with spill := BitVec.ofNat 64 v }
    | 0x20 => s.setPool k { p with tolerance := BitVec.ofNat 32 (v / 2 ^ 32), threshold := BitVec.ofNat 32 v }
    | _ => s

/-- L2_WAYS, L2_LEASE or CODE_CANTON of a function is written. -/
def State.quotaWrite (s : State) (f i v : Nat) : State :=
  match i with
  | 0 => s.evL2WaysWrite f v
  | 1 => s.evL2LeaseWrite f v
  | 2 => s.evCodeCantonWrite f v
  | _ => s

/-- DBG_FOCUS: END and DONE are the device's. -/
def focusWrite (old : Reg) (v : Nat) : Reg :=
  let ro : Reg := 0x7FFC000000000000
  (BitVec.ofNat 64 v &&& ~~~ro) ||| (old &&& ro)

/-- A register of the function block is written. -/
def State.fnWrite (s : State) (func off v : Nat) (lo : Bool) : State :=
  let f := s.fn func
  if off = 0 then (if lo then s.hcWrite func v else if v / 2 ^ 32 = 0 then s else s.evHcCmdUnknown func v)
  else if off ≤ 0x20 then s.setFn func { f with hcArgs := f.hcArgs.setIfInBounds (off / 8 - 1) (BitVec.ofNat 64 v) }
  else if off = 0x100 then (if f.evEn then s else s.setFn func { f with evBase := page4k v })
  else if off = 0x108 then s.evEvqCtlWrite func v
  else if off = 0x110 then s.evEvqHeadWrite func v
  else if 0x200 ≤ off ∧ off < 0x400 then s.cqWrite func ((off - 0x200) / 64) (off % 64) v lo
  else if 0x400 ≤ off ∧ off ≤ 0x410 then (if func = Config.physFn then s.quotaWrite func ((off - 0x400) / 8) v else s)
  else if off = 0x418 then s.setFn func { f with kvPool := BitVec.ofNat 64 (v % 2 ^ 57 / 4096 * 4096) }
  else if 0x500 ≤ off ∧ off < 0x900 then s.poolWrite func ((off - 0x500) / 64) (off % 64) v
  else if off = 0x900 then (if f.trcEn then s else s.setFn func { f with trcBase := page4k v })
  else if off = 0x908 then s.evTraceEnable func v
  else if 0x910 ≤ off ∧ off < 0x938 then s.updRing func ((off - 0x910) / 8) (fun r => { r with head := v % 2 ^ 32 })
  else if 0xA00 ≤ off ∧ off < 0xA20 then
    s.setFn func { f with bps := f.bps.setIfInBounds ((off - 0xA00) / 8) (BitVec.ofNat 64 v &&& 0x9FFFFFFFFFFFFFFE) }
  else if off = 0xA20 then s.setFn func { f with focusLr := BitVec.ofNat 64 v }
  else if off = 0xA28 then s.setFn func { f with focus := focusWrite f.focus v }
  else if off = 0xB00 ∧ func = Config.physFn then s.evPowerLimitWrite v
  else s

/-- An address register of an MX entry, while MODE reads 0 (R19, R24); `hi` when the write covers the high half. The bits below
the alignment of MXR_ALIAS and MXR_PACKED stay 0 (log 54). -/
def State.mxWrite (s : State) (e o v : Nat) (hi : Bool) : State :=
  let x := s.mxe e
  if o = 0x18 then s.mxCtlWrite e v hi
  else if x.modeOf ≠ 0 then s
  else
    match o with
    | 0x00 => s.setMx e { x with view := v / 65536 * 65536 }
    | 0x08 => s.setMx e { x with packed := v / 256 * 256 }
    | _ => s.setMx e { x with scale := v }

/-- PROF_CTL (R416). -/
def State.profWrite (s : State) (core v : Nat) : State :=
  let s1 := s.updCore core (fun k => { k with profFreeze := bits v 63 1 == 1, profFunc := v % 2 ^ 9 })
  if bits v 62 1 = 1 then s1.evProfClear core else s1

/-- A device-wide register is written through the physical function. -/
def State.deviceWrite (s : State) (off v : Nat) (hi : Bool) : State :=
  if 0x10000 ≤ off ∧ off < 0x10000 + 0x40 * 257 then s.quotaWrite ((off - 0x10000) / 0x40) (off % 0x40 / 8) v
  else if 0x18000 ≤ off ∧ off < 0x18080 then
    let k := (off - 0x18000) / 8
    s.setPool k { s.pool k with owner := bits v 32 9 }
  else if 0x20000 ≤ off ∧ off < 0x20800 then s.mxWrite ((off - 0x20000) / 0x20) (off % 0x20) v hi
  else if 0x30000 ≤ off ∧ off < 0x30200 then
    let k := (off - 0x30000) / 8
    if bits v 47 1 = 1 then s.setSlice k { s.slice k with overflow := 0 } else s
  else if 0x80000 ≤ off ∧ off < 0x80000 + 0x1000 * 96 ∧ off % 0x1000 = 0 then s.profWrite ((off - 0x80000) / 0x1000) v
  else s

/-- What a write of one half keeps in the other: the register as it reads, without the bits that a 1 clears. -/
def State.regKeep (s : State) (func off : Nat) : Nat :=
  let r := s.regRead func off
  if off = 0x108 then r % 2 ^ 32
  else if 0x30000 ≤ off ∧ off < 0x30200 then 0
  else r

/-- A completion of an access through BAR0. -/
def State.bar0 (s : State) (func : Nat) (data : Option (List Byte)) : State := { s with out := s.out ++ [Output.bar0 func data] }

/-- REGISTER_WRITE (R386): an access of a function's BAR0 window, a write of `v` or a read. 64 bits, or an aligned half; any
other access is aborted. Until firmware is accepted only the physical function's mailbox takes writes (R402;
log 115). -/
def State.evRegisterWrite (s : State) (func off size : Nat) (v : Option Nat) : Option State :=
  let reg := off / 8 * 8
  let hi := off % 8 == 4
  if Config.physFn < func ∨ (func < Config.physFn ∧ 2 ^ 16 ≤ off) ∨ 2 ^ 22 ≤ off then none
  else if !((size == 8 && off % 8 == 0) || (size == 4 && off % 4 == 0)) then some (s.bar0 func none)
  else
    match v with
    | none => some (s.bar0 func (some (toLE size (s.regRead func reg / 2 ^ (8 * (off % 8))))))
    | some v =>
      if !s.trust.accepted ∧ !(func == Config.physFn && decide (reg ≤ 0x20)) then none
      else
        let x := if size = 8 then v % 2 ^ 64
          else if hi then s.regKeep func reg % 2 ^ 32 + v % 2 ^ 32 * 2 ^ 32
          else s.regKeep func reg / 2 ^ 32 * 2 ^ 32 + v % 2 ^ 32
        some (if reg ≤ 0xB00 then s.fnWrite func reg x (!hi)
          else if func = Config.physFn then s.deviceWrite reg x (hi || size == 8) else s)

/-- The driver gives an address space its ROOT (R25; log 6). -/
def State.giveRoot (s : State) (func aspace pa : Nat) : State := s.updFn func (fun f => { f with roots := f.roots.set aspace pa })

def execEvqCtlWrite (func v : Nat) (s : State) := s.unitStep (some (s.evEvqCtlWrite func v))
def execEvqHeadWrite (func v : Nat) (s : State) := s.unitStep (some (s.evEvqHeadWrite func v))
def execMxModeChange (e mode : Nat) (s : State) := s.unitStep (some (s.evMxModeChange e mode))
def execMxModeChangeDone (e : Nat) (s : State) := s.unitStep (s.evMxModeChangeDone e)
def execL2WaysWrite (func v : Nat) (s : State) := s.unitStep (some (s.evL2WaysWrite func v))
def execL2LeaseWrite (func v : Nat) (s : State) := s.unitStep (some (s.evL2LeaseWrite func v))
def execCodeCantonWrite (func v : Nat) (s : State) := s.unitStep (some (s.evCodeCantonWrite func v))
def execTraceEnable (func v : Nat) (s : State) := s.unitStep (some (s.evTraceEnable func v))
def execProfClear (core : Nat) (s : State) := s.unitStep (some (s.evProfClear core))
def execProfFreeze (core : Nat) (on : Bool) (s : State) := s.unitStep (some (s.evProfFreeze core on))
def execPowerLimitWrite (v : Nat) (s : State) := s.unitStep (some (s.evPowerLimitWrite v))
def execRegisterWrite (func off size : Nat) (v : Option Nat) (s : State) := s.unitStep (s.evRegisterWrite func off size v)
def execHcCmdUnknown (func code : Nat) (s : State) := s.unitStep (some (s.evHcCmdUnknown func code))
def execInvalidate (func : Nat) (s : State) := s.unitStep (some (s.evInvalidate func))
def execInvalidateComplete (func : Nat) (s : State) := s.unitStep (s.evInvalidateComplete func)
def execPeerSet (func : Nat) (s : State) := s.unitStep (some (s.evPeerSet func))
def execCollSetup (func : Nat) (s : State) := s.unitStep (some (s.evCollSetup func))
def execAttest (func : Nat) (s : State) := s.unitStep (some (s.evAttest func))
def execFunctionReset (func : Nat) (s : State) := s.unitStep (some (s.evFunctionReset func))
def execModuleLoad (func : Nat) (s : State) := s.unitStep (some (s.evModuleLoad func))
def execModuleBind (func : Nat) (s : State) := s.unitStep (some (s.evModuleBind func))
def execModuleUnload (func : Nat) (s : State) := s.unitStep (some (s.evModuleUnload func))
def execModuleUnloadComplete (func : Nat) (s : State) := s.unitStep (s.evModuleUnloadComplete func)
def execKeyEnroll (func : Nat) (s : State) := s.unitStep (some (s.evKeyEnroll func))
def execFwLoad (func : Nat) (s : State) := s.unitStep (some (s.evFwLoad func))
def execFirmwareVerify (s : State) := s.unitStep (some s.evFirmwareVerify)

end Sys2Proof.Machine
end

