-- ==== Sys2Proof/Machine/Auto.lean ====
section
/-!
DEFINITION. The order in which the device's own units act when the schedule names no step: each acts as soon as it can
(log 13).
-/

namespace Sys2Proof.Machine

/-- The first attempt that can happen. -/
def firstOf (fs : List (Unit → Option State)) : Option State := fs.findSome? (fun f => f ())

/-- The steps of a request. -/
def State.autoReq (s : State) (id : Nat) : Option State :=
  firstOf [fun _ => s.evHomeSliceWrite id, fun _ => s.evMxAliasWrite id, fun _ => s.evHomeSliceRead id,
    fun _ => s.evOwnershipGrant id, fun _ => s.evAtomicPerform id, fun _ => s.evAtomicReturn id,
    fun _ => s.evRelAtomicRelease id, fun _ => s.evMergeHoldExpiry id, fun _ => s.evHostWriteAck id]

/-- The steps of memory and of its walkers. -/
def State.autoMem (s : State) : Option State :=
  firstOf [fun _ => s.pending.findSome? (fun p => s.evWriteVisible p.id), fun _ => s.reqs.findSome? (fun r => s.autoReq r.id),
    fun _ => if s.walks.isEmpty then none else s.evPageWalk 0,
    fun _ => (List.range s.rewalks.length).findSome? (fun i => s.evFaultqOverflowRewalk i),
    fun _ => s.mx.findSome? (fun e => s.evMxModeChangeDone e.1)]

/-- The steps that a fragment's state calls for. -/
def State.autoFrag (s : State) (c : Ctx) : Option State :=
  match c.frag.state with
  | .faulted _ _ => firstOf [fun _ => s.evFaultDelivery c.who, fun _ => s.evDelegatedFault c.who, fun _ => s.evCodeAbsentService c.who]
  | .sleeping (.yield _) => s.evYieldExpiry c.who
  | .sleeping (.sleep _) => s.evSleepExpiry c.who
  | .sleeping (.monitorFull _) | .sleeping (.mirrorFull _) => s.evMonitorFallback c.who
  | .sleeping .det => s.evDetTurn c.who
  | .stalled (.wct _ _) => s.evWctWaitEnd c.who
  | .eligible => s.evFragmentPromotion c.who
  | _ => none

/-- The steps of the units of a core. -/
def State.autoCore (s : State) (core : Nat) : Option State :=
  let k := s.core core
  firstOf [fun _ => (List.range 4).findSome? (fun i => s.evDictLoad core i),
    fun _ => (List.range 64).findSome? (fun i => if (k.res i).state = 0 then none else firstOf [fun _ => s.evHoistLoadComplete core i,
      fun _ => s.evHoistLoadFault core i, fun _ => s.evOverlayFree core i, fun _ => s.evForcedEviction core i]),
    fun _ => s.evEngineSlotStart core,
    fun _ => k.queue.findSome? (fun c => firstOf [fun _ => s.evEngineWalkStart core c.id, fun _ => s.evRingTileStart core c.id,
      fun _ => c.copies.findSome? (fun t => s.evMcastCopyLand core c.id t), fun _ => s.evEngineCommandComplete core c.id]),
    fun _ => k.rsvs.findSome? (fun r => s.evArbiterPromotion core r.id),
    fun _ => s.evPassComplete core,
    fun _ => (List.range 4).findSome? (fun b => s.evBankLoadComplete core b),
    fun _ => s.evMatrixGrant core, fun _ => s.evOperandFetch core,
    fun _ => k.rsvs.findSome? (fun r => s.evBankLoad core r.id),
    fun _ => k.storeJobs.findSome? (fun j => s.evMmStoreComplete j.id),
    fun _ => s.evTapEncodeRow core, fun _ => s.evTapAdaptRow core,
    fun _ => s.evSpillWrite core, fun _ => s.evFragmentRefill core, fun _ => s.evSpillWaitExpiry core,
    fun _ => if k.retiring then s.evCoreRetire core else none]

/-- The steps of a group. -/
def State.autoGroup (s : State) (gid : Nat) (g : Group) : Option State :=
  firstOf [fun _ => s.evPermitEffect gid, fun _ => g.tapRows.findSome? (fun t => s.evTapCommit gid t.id),
    fun _ => s.evFocusEnd gid, fun _ => s.evImageSlotClaim gid, fun _ => s.evGroupHalt gid, fun _ => s.evSaveComplete gid,
    fun _ => s.evGroupDrainComplete gid]

/-- The steps of a command queue. -/
def State.autoQueue (s : State) (func q : Nat) : Option State :=
  if !(s.cq func q).runs then none
  else
    firstOf [fun _ => s.evFrontEndFetch func q, fun _ => s.evNopPacket func q, fun _ => s.evLaunchPacket func q,
      fun _ => s.evResumePacket func q, fun _ => s.evIbPacket func q, fun _ => s.evPredPacket func q,
      fun _ => s.evFencePacket func q, fun _ => s.evSignalPacket func q, fun _ => s.evWaitPacket func q, fun _ => s.evArmPacket func q]

/-- The steps of a function: its mailbox and its queues. -/
def State.autoFunc (s : State) (func : Nat) : Option State :=
  firstOf [fun _ => s.evInvalidateComplete func, fun _ => s.evModuleUnloadComplete func,
    fun _ => (List.range 8).findSome? (fun q => s.autoQueue func q)]

/-- The agents place groups: restores first (R200). -/
def State.autoPlace (s : State) : Option State :=
  if s.runList.isEmpty then none
  else firstOf [fun _ => (List.range Config.cores).findSome? (fun k => s.evResumePlace k),
    fun _ => (List.range Config.cores).findSome? (fun k => s.evGroupClaim k)]

/-- The next step of a unit of the device, if one can act. -/
def State.autoNext (s : State) : Option State :=
  let cores := (s.groups.map (fun g => coreOf g.1)).eraseDups
  firstOf [fun _ => s.autoMem,
    fun _ => (cores.flatMap s.fragsOn).findSome? (fun c => s.autoFrag c),
    fun _ => (s.cores.map Prod.fst).findSome? (fun k => s.autoCore k),
    fun _ => s.groups.findSome? (fun g => s.autoGroup g.1 g.2),
    fun _ => s.saves.findSome? (fun x => if x.opened then s.evSaveComplete x.gid else none),
    fun _ => s.pools.findSome? (fun p => (List.range p.2.held.length).findSome? (fun i => s.evGqUpdateApply p.1 i)),
    fun _ => s.launches.findSome? (fun l => if l.2.complete then none else firstOf [fun _ => s.evDetStall l.1, fun _ => s.evLaunchComplete l.1]),
    fun _ => (s.funcs.map Prod.fst).findSome? (fun f => s.autoFunc f),
    fun _ => s.autoPlace]

end Sys2Proof.Machine
end

