-- ==== Sys2Proof/Machine/LaneInt.lean ====
section
/-!
DEFINITION. The integer and logic instructions of the lanes (R264 to R268).
-/

namespace Sys2Proof.Machine

/-! ### Cells (R264 to R266) -/

/-- A clamped sum or difference (R264). -/
def satCell (e : El) (x : Int) : Nat × Flags :=
  let c := clampInt (intLo e.signed e.w) (intHi e.signed e.w) x
  (wrap e.w c.1, c.2)

/-- a and b as the type reads them. -/
def El.ia (e : El) : Int := ext e.signed e.w e.a
def El.ib (e : El) : Int := ext e.signed e.w e.b

def cellAdd : Cell := fun e => ((e.a + e.b) % 2 ^ e.w, 0)
def cellSub : Cell := fun e => (wrap e.w ((e.a : Int) - e.b), 0)
def cellAddSat : Cell := fun e => satCell e (e.ia + e.ib)
def cellSubSat : Cell := fun e => satCell e (e.ia - e.ib)
def cellMul : Cell := fun e => (e.a * e.b % 2 ^ e.w, 0)
def cellMulh : Cell := fun e => (wrap e.w (e.ia * e.ib / (2 ^ e.w : Int)), 0)
def cellMac : Cell := fun e => ((e.d + e.a * e.b) % 2 ^ e.w, 0)
def cellMin : Cell := fun e => (if e.ib < e.ia then e.b else e.a, 0)
def cellMax : Cell := fun e => (if e.ia < e.ib then e.b else e.a, 0)
def cellAbs : Cell := fun e => (wrap e.w (e.ia.natAbs : Int), 0)
def cellNeg : Cell := fun e => (wrap e.w (-(e.a : Int)), 0)
def cellAnd : Cell := fun e => (e.a &&& e.b, 0)
def cellOr : Cell := fun e => (e.a ||| e.b, 0)
def cellXor : Cell := fun e => (e.a ^^^ e.b, 0)
def cellNot : Cell := fun e => (2 ^ e.w - 1 - e.a % 2 ^ e.w, 0)

/-- The shift count (R265). -/
def El.count (e : El) : Nat := if e.w = 64 then e.b % 2 ^ 32 else e.b

def cellShl : Cell := fun e => (if e.w ≤ e.count then 0 else e.a * 2 ^ e.count % 2 ^ e.w, 0)
def cellShr : Cell := fun e => (if e.w ≤ e.count then 0 else e.a / 2 ^ e.count, 0)
def cellSar : Cell := fun e => (wrap e.w (sval e.w e.a / (2 ^ min e.count e.w : Int)), 0)
def cellRot : Cell := fun e =>
  let n := e.count % e.w
  (e.a * 2 ^ n % 2 ^ e.w + e.a / 2 ^ (e.w - n), 0)

/-- p' and n' of R266. -/
def El.bf (e : El) : Nat × Nat :=
  let p := min (bits e.ball 0 8) e.w
  (p, min (bits e.ball 8 8) (e.w - p))

/-- BFE (R266), sign-extended for the signed type. -/
def cellBfe : Cell := fun e =>
  let p := e.bf.1
  let n := e.bf.2
  let x := bits e.a p n
  (if n = 0 then 0 else if e.signed then wrap e.w (sval n x) else x, 0)

/-- BFI (R266). -/
def cellBfi : Cell := fun e =>
  let p := e.bf.1
  let n := e.bf.2
  (e.d % 2 ^ p + e.a % 2 ^ n * 2 ^ p + e.d / 2 ^ (p + n) * 2 ^ (p + n), 0)

/-- The low n bits in reverse order. -/
def revBits : Nat → Nat → Nat
  | 0, _ => 0
  | n + 1, x => x % 2 * 2 ^ n + revBits n (x / 2)

def cellBrev : Cell := fun e => (revBits e.w e.a, 0)

/-- CLZ, FFS and POPC of a w-bit element (R105). -/
def clzN (w x : Nat) : Nat := if x = 0 then w else w - 1 - Nat.log2 x
def ffsN : Nat → Nat → Nat
  | 0, _ => 0
  | w + 1, x => if x % 2 = 1 then 1 else (let r := ffsN w (x / 2); if r = 0 then 0 else r + 1)
def popcN : Nat → Nat → Nat
  | 0, _ => 0
  | w + 1, x => x % 2 + popcN w (x / 2)

def cellClz : Cell := fun e => (clzN e.w e.a, 0)
def cellFfs : Cell := fun e => (ffsN e.w e.a, 0)
def cellPopc : Cell := fun e => (popcN e.w e.a, 0)

/-- The integer comparison of a code (R246): relation in [2:0], unsigned in [3]. -/
def intCmp (code w a b : Nat) : Bool :=
  let s := code / 8 % 2 == 0
  relHolds code (ext s w a - ext s w b)

/-- ICMP of width w (R267). -/
def Ctx.icmpOp (c : Ctx) (o : LR) (w : Nat) : Ctx :=
  c.eachP (c.active o.g) (o.d.toNat % 8) (fun l =>
    intCmp (o.d.toNat / 8) w (c.srcW (w == 64) o.a.toNat l) (c.srcW (w == 64) o.b.toNat l))

/-! ### One-word instructions -/

/-- A native 32-bit integer cell. -/
def State.intRun (s : State) (o : LR) (signed : Bool) (f : Cell) : Host.Outcome State Fault Refusal :=
  s.run 1 (fun c => .ok (c.intOp o 32 signed f))

def execIadd (o : LR) (s : State) := s.intRun o true cellAdd
def execIsub (o : LR) (s : State) := s.intRun o true cellSub
def execIaddSatI32 (o : LR) (s : State) := s.intRun o true cellAddSat
def execIaddSatN32 (o : LR) (s : State) := s.intRun o false cellAddSat
def execIsubSatI32 (o : LR) (s : State) := s.intRun o true cellSubSat
def execIsubSatN32 (o : LR) (s : State) := s.intRun o false cellSubSat
def execImul (o : LR) (s : State) := s.intRun o true cellMul
def execImulhI32 (o : LR) (s : State) := s.intRun o true cellMulh
def execImulhN32 (o : LR) (s : State) := s.intRun o false cellMulh
def execImac (o : LR) (s : State) := s.intRun o true cellMac
def execIminI32 (o : LR) (s : State) := s.intRun o true cellMin
def execIminN32 (o : LR) (s : State) := s.intRun o false cellMin
def execImaxI32 (o : LR) (s : State) := s.intRun o true cellMax
def execImaxN32 (o : LR) (s : State) := s.intRun o false cellMax
def execIabs (o : LR) (s : State) := s.intRun o true cellAbs
def execIneg (o : LR) (s : State) := s.intRun o true cellNeg
def execAnd (o : LR) (s : State) := s.intRun o false cellAnd
def execOr (o : LR) (s : State) := s.intRun o false cellOr
def execXor (o : LR) (s : State) := s.intRun o false cellXor
def execNot (o : LR) (s : State) := s.intRun o false cellNot
def execShl (o : LR) (s : State) := s.intRun o false cellShl
def execShr (o : LR) (s : State) := s.intRun o false cellShr
def execSar (o : LR) (s : State) := s.intRun o true cellSar
def execRot (o : LR) (s : State) := s.intRun o false cellRot
def execBfeN32 (o : LR) (s : State) := s.intRun o false cellBfe
def execBfeI32 (o : LR) (s : State) := s.intRun o true cellBfe
def execBfi (o : LR) (s : State) := s.intRun o false cellBfi
def execBrev (o : LR) (s : State) := s.intRun o false cellBrev
def execClz (o : LR) (s : State) := s.intRun o false cellClz
def execFfs (o : LR) (s : State) := s.intRun o false cellFfs
def execPopc (o : LR) (s : State) := s.intRun o false cellPopc
def execIcmp (o : LR) (s : State) := s.run 1 (fun c => .ok (c.icmpOp o 32))

/-- The cell of an integer opcode, for WIDE (R263). -/
def intCellOf (cell : Nat) : Cell :=
  match cell with
  | 0x00 => cellAdd
  | 0x01 => cellSub
  | 0x02 | 0x03 => cellAddSat
  | 0x04 | 0x05 => cellSubSat
  | 0x06 => cellMul
  | 0x07 | 0x08 => cellMulh
  | 0x09 => cellMac
  | 0x0A | 0x0B => cellMin
  | 0x0C | 0x0D => cellMax
  | 0x0E => cellAbs
  | 0x0F => cellNeg
  | 0x10 => cellAnd
  | 0x11 => cellOr
  | 0x12 => cellXor
  | 0x13 => cellNot
  | 0x14 => cellShl
  | 0x15 => cellShr
  | 0x16 => cellSar
  | 0x17 => cellRot
  | 0x18 | 0x19 => cellBfe
  | 0x1A => cellBfi
  | 0x1B => cellBrev
  | 0x1C => cellClz
  | 0x1D => cellFfs
  | _ => cellPopc

/-! ### Two-word instructions (R268) -/

/-- What a two-word integer instruction reads of a lane, by its TYPE. -/
structure Tri where
  w : Nat
  signed : Bool
  a : Nat
  b : Nat
  c : Nat

/-- Run a two-word integer instruction of 32- or 64-bit elements over the active lanes. -/
def State.triRun (s : State) (o : LX) (f : Tri → Nat × Flags) : Host.Outcome State Fault Refusal :=
  s.run 2 (fun c =>
    let big := tyWidth o.x.ty.toNat == 64
    let sg := tySigned o.x.ty.toNat
    let w := if big then 64 else 32
    let go : Nat → Nat × Flags := fun l =>
      f { w := w, signed := sg, a := c.srcW big o.w.a.toNat l, b := c.srcW big o.w.b.toNat l, c := c.srcW big o.x.c.toNat l }
    .ok (if big then c.each2F (c.active o.w.g) o.w.d.toNat (fun l => let r := go l; (BitVec.ofNat 64 r.1, r.2))
         else c.eachF (c.active o.w.g) o.w.d.toNat (fun l => let r := go l; (BitVec.ofNat 32 r.1, r.2))))

/-- The same for instructions that read bytes or halves of 32-bit registers. -/
def State.tri32Run (s : State) (o : LX) (f : Nat → Nat → Nat → Nat × Flags) : Host.Outcome State Fault Refusal :=
  s.run 2 (fun c =>
    .ok (c.eachF (c.active o.w.g) o.w.d.toNat (fun l =>
      let r := f (c.gang.src32 o.w.a.toNat l).toNat (c.gang.src32 o.w.b.toNat l).toNat (c.gang.src32 o.x.c.toNat l).toNat
      (BitVec.ofNat 32 r.1, r.2))))

def execImad (o : LX) (s : State) := s.triRun o (fun t => ((t.a * t.b + t.c) % 2 ^ t.w, 0))

/-- IMADW: a 64-bit sum of the 32-bit product, which its TYPE extends, and C. -/
def execImadw (o : LX) (s : State) : Host.Outcome State Fault Refusal :=
  s.run 2 (fun c =>
    let sg := tySigned o.x.ty.toNat
    .ok (c.each2 (c.active o.w.g) o.w.d.toNat (fun l =>
      let p := ext sg 32 (c.gang.src32 o.w.a.toNat l).toNat * ext sg 32 (c.gang.src32 o.w.b.toNat l).toNat
      BitVec.ofNat 64 (wrap 64 (p + (c.gang.src64 o.x.c.toNat l).toNat)))))

/-- ISUM3, wrapped or clamped under .SAT. -/
def execIsum3 (o : LX) (s : State) :=
  s.triRun o (fun t =>
    if o.x.sat = 1 then
      let r := clampInt (intLo t.signed t.w) (intHi t.signed t.w)
        (ext t.signed t.w t.a + ext t.signed t.w t.b + ext t.signed t.w t.c)
      (wrap t.w r.1, r.2)
    else ((t.a + t.b + t.c) % 2 ^ t.w, 0))

/-- Bit i of the result is IMM8 bit (a_i + 2 b_i + 4 c_i). -/
def lut3 (imm : Nat) : Nat → Nat → Nat → Nat → Nat
  | 0, _, _, _ => 0
  | w + 1, a, b, c => imm / 2 ^ (a % 2 + 2 * (b % 2) + 4 * (c % 2)) % 2 + 2 * lut3 imm w (a / 2) (b / 2) (c / 2)

def execBitfn (o : LX) (s : State) := s.triRun o (fun t => (lut3 o.x.imm.toNat t.w t.a t.b t.c, 0))

def execWinxN32 (o : LX) (s : State) :=
  s.tri32Run o (fun a b c => ((b * 2 ^ 32 + a) / 2 ^ (c % 128) % 2 ^ 32, 0))

def execWinxI32 (o : LX) (s : State) :=
  s.tri32Run o (fun a b c => (wrap 32 (sval 64 (b * 2 ^ 32 + a) / (2 ^ (c % 128) : Int)), 0))

/-- Σ over k < n of f k. -/
def sumTo (f : Nat → Int) : Nat → Int
  | 0 => 0
  | n + 1 => sumTo f n + f n

/-- IDOT4: c plus the sum of four byte products. -/
def execIdot4 (o : LX) (s : State) :=
  let sg := tySigned o.x.ty.toNat
  s.tri32Run o (fun a b c =>
    let x := ext sg 32 c + sumTo (fun k => ext sg 8 (elem 8 k a) * ext sg 8 (elem 8 k b)) 4
    if o.x.sat = 1 then (let r := clampInt (intLo sg 32) (intHi sg 32) x; (wrap 32 r.1, r.2)) else (wrap 32 x, 0))

/-- min(max(a, b), c) in a type. -/
def clampEl (sg : Bool) (w a b c : Nat) : Nat :=
  let m := if ext sg w a < ext sg w b then b else a
  if ext sg w c < ext sg w m then c else m

/-- ICLAMP, packed for the 8- and 16-bit types. -/
def execIclamp (o : LX) (s : State) :=
  let sg := tySigned o.x.ty.toNat
  let w := tyWidth o.x.ty.toNat
  if w < 32 then
    s.tri32Run o (fun a b c => packEls w (fun k => (clampEl sg w (elem w k a) (elem w k b) (elem w k c), 0)) (32 / w))
  else s.triRun o (fun t => (clampEl sg t.w t.a t.b t.c, 0))

/-- SAD: c plus the sum of absolute differences, modulo 2^32. -/
def execSad (o : LX) (s : State) :=
  let sg := tySigned o.x.ty.toNat
  let w := tyWidth o.x.ty.toNat
  s.tri32Run o (fun a b c =>
    (wrap 32 ((c : Int) + sumTo (fun k => ((ext sg w (elem w k a) - ext sg w (elem w k b)).natAbs : Int)) (32 / w)), 0))

end Sys2Proof.Machine
end

