-- ==== Sys2Proof/Machine/LaneFloat.lean ====
section
/-!
DEFINITION. The floating-point instructions of the lanes (R269 to R273), the one-source conversions and the packing
cells (R276, R277), and the wide form (R263).
-/

namespace Sys2Proof.Machine

/-! ### Cells -/

def fcellAdd : FCell := fun f k a b _ => addNum f k (decodeNum f a) (decodeNum f b)
def fcellSub : FCell := fun f k a b _ => subNum f k (decodeNum f a) (decodeNum f b)
def fcellMul : FCell := fun f k a b _ => mulNum f k (decodeNum f a) (decodeNum f b)
def fcellMac : FCell := fun f k a b d => fmaNum f k (decodeNum f a) (decodeNum f b) (decodeNum f d)
def fcellMin : FCell := fun f _ a b _ => minmaxNum f false false a b
def fcellMax : FCell := fun f _ a b _ => minmaxNum f true false a b
def fcellMinNum : FCell := fun f _ a b _ => minmaxNum f false true a b
def fcellMaxNum : FCell := fun f _ a b _ => minmaxNum f true true a b
def fcellUn (u : Unary) : FCell := fun f k a _ _ => unaryNum u f k a
/-- FABS and FNEG change the sign bit only and set no flag (R269). -/
def fcellAbs : FCell := fun f _ a _ _ => (a % 2 ^ (f.width - 1), 0)
def fcellNeg : FCell := fun f _ a _ _ => (a ^^^ 2 ^ (f.width - 1), 0)

/-- A float cell in its native form: RNE, no saturation. -/
def State.fltRun (s : State) (o : LR) (f : NumFmt) (fn : FCell) : Host.Outcome State Fault Refusal :=
  s.run 1 (fun c => .ok (c.fltOp o f 0 false fn))

def execFadd (o : LR) (s : State) := s.fltRun o fp32 fcellAdd
def execFsub (o : LR) (s : State) := s.fltRun o fp32 fcellSub
def execFmul (o : LR) (s : State) := s.fltRun o fp32 fcellMul
def execFmac (o : LR) (s : State) := s.fltRun o fp32 fcellMac
def execFmin (o : LR) (s : State) := s.fltRun o fp32 fcellMin
def execFmax (o : LR) (s : State) := s.fltRun o fp32 fcellMax
def execFrcp (o : LR) (s : State) := s.fltRun o fp32 (fcellUn .rcp)
def execFrsq (o : LR) (s : State) := s.fltRun o fp32 (fcellUn .rsq)
def execFsqrt (o : LR) (s : State) := s.fltRun o fp32 (fcellUn .sqrt)
def execFexp2 (o : LR) (s : State) := s.fltRun o fp32 (fcellUn .exp2)
def execFlog2 (o : LR) (s : State) := s.fltRun o fp32 (fcellUn .log2)
def execFabs (o : LR) (s : State) := s.fltRun o fp32 fcellAbs
def execFneg (o : LR) (s : State) := s.fltRun o fp32 fcellNeg
def execFminNum (o : LR) (s : State) := s.fltRun o fp32 fcellMinNum
def execFmaxNum (o : LR) (s : State) := s.fltRun o fp32 fcellMaxNum
def execFaddBf16 (o : LR) (s : State) := s.fltRun o bf16 fcellAdd
def execFsubBf16 (o : LR) (s : State) := s.fltRun o bf16 fcellSub
def execFmulBf16 (o : LR) (s : State) := s.fltRun o bf16 fcellMul
def execFmacBf16 (o : LR) (s : State) := s.fltRun o bf16 fcellMac
def execFminBf16 (o : LR) (s : State) := s.fltRun o bf16 fcellMin
def execFmaxBf16 (o : LR) (s : State) := s.fltRun o bf16 fcellMax
def execFabsBf16 (o : LR) (s : State) := s.fltRun o bf16 fcellAbs
def execFnegBf16 (o : LR) (s : State) := s.fltRun o bf16 fcellNeg
def execFaddF16 (o : LR) (s : State) := s.fltRun o fp16 fcellAdd
def execFsubF16 (o : LR) (s : State) := s.fltRun o fp16 fcellSub
def execFmulF16 (o : LR) (s : State) := s.fltRun o fp16 fcellMul
def execFmacF16 (o : LR) (s : State) := s.fltRun o fp16 fcellMac
def execFminF16 (o : LR) (s : State) := s.fltRun o fp16 fcellMin
def execFmaxF16 (o : LR) (s : State) := s.fltRun o fp16 fcellMax
def execFabsF16 (o : LR) (s : State) := s.fltRun o fp16 fcellAbs
def execFnegF16 (o : LR) (s : State) := s.fltRun o fp16 fcellNeg

/-- FCMP (R272). -/
def execFcmp (o : LR) (s : State) : Host.Outcome State Fault Refusal :=
  s.run 1 (fun c => .ok (c.eachPF (c.active o.g) (o.d.toNat % 8) (fun l =>
    fcmpNum (o.d.toNat / 8) (c.gang.src32 o.a.toNat l).toNat (c.gang.src32 o.b.toNat l).toNat)))

/-! ### FRND, I2F, F2I and packing (R276, R277) -/

def fcellI2f (signed : Bool) : FCell := fun f k a _ _ => encodeNum f k (Val.ofInt (ext signed 32 a))
def fcellF2i (t : NumFmt) : FCell := fun f _ a _ _ => encodeNum t { mode := 1, sat := false, r := 0 } (decodeNum f a)

def execFrnd (o : LR) (s : State) := s.fltRun o fp32 (fcellUn .rnd)
def execI2fI32 (o : LR) (s : State) := s.fltRun o fp32 (fcellI2f true)
def execI2fN32 (o : LR) (s : State) := s.fltRun o fp32 (fcellI2f false)
def execF2iI32 (o : LR) (s : State) := s.fltRun o fp32 (fcellF2i i32)
def execF2iN32 (o : LR) (s : State) := s.fltRun o fp32 (fcellF2i n32)

/-- PACK: two F32 values rounded into the halves of D, ELEM 0 for A and 1 for B. -/
def Ctx.packOp (c : Ctx) (o : LR) (f : NumFmt) (mode : Nat) (sat : Bool) : Ctx :=
  c.eachF (c.active o.g) o.d.toNat (fun l =>
    let lo := encodeNum f (c.rndAt mode sat 0 l 0) (decodeNum fp32 (c.gang.src32 o.a.toNat l).toNat)
    let hi := encodeNum f (c.rndAt mode sat 0 l 1) (decodeNum fp32 (c.gang.src32 o.b.toNat l).toNat)
    (BitVec.ofNat 32 (lo.1 + hi.1 * 65536), lo.2 ||| hi.2))

/-- UNPACK: the exact F32 values of the halves of A. -/
def Ctx.unpackOp (c : Ctx) (o : LR) (f : NumFmt) : Ctx :=
  c.each2F (c.active o.g) o.d.toNat (fun l =>
    let a := (c.gang.src32 o.a.toNat l).toNat
    let lo := encodeNum fp32 Rnd.rne (decodeNum f (a % 65536))
    let hi := encodeNum fp32 Rnd.rne (decodeNum f (a / 65536))
    (BitVec.ofNat 64 (lo.1 + hi.1 * 2 ^ 32), lo.2 ||| hi.2))

def execPackBf16 (o : LR) (s : State) := s.run 1 (fun c => .ok (c.packOp o bf16 0 false))
def execPackF16 (o : LR) (s : State) := s.run 1 (fun c => .ok (c.packOp o fp16 0 false))
def execUnpackBf16 (o : LR) (s : State) := s.run 1 (fun c => .ok (c.unpackOp o bf16))
def execUnpackF16 (o : LR) (s : State) := s.run 1 (fun c => .ok (c.unpackOp o fp16))

/-- One byte of BPICK: code, the 8-byte string s, the old byte. -/
def bpickByte (code s old : Nat) : Nat :=
  if code < 8 then elem 8 code s
  else if code = 8 then 0
  else if code = 9 then 0xFF
  else if code = 10 then old
  else if code = 11 then 0x80
  else if 128 ≤ elem 8 (code - 12) s then 0xFF else 0

/-- BPICK (R277). -/
def execBpick (o : LR) (s : State) : Host.Outcome State Fault Refusal :=
  s.run 1 (fun c => .ok (c.each (c.active o.g) o.d.toNat (fun l =>
    let x := (c.gang.src64 o.a.toNat l).toNat
    let b := (c.gang.src32 o.b.toNat l).toNat
    let d := (c.gang.rdV o.d.toNat l).toNat
    BitVec.ofNat 32 (packEls 8 (fun i => (bpickByte (elem 4 i b) x (elem 8 i d), 0)) 4).1)))

/-! ### Two-word float instructions (R273) -/

/-- Run over the active lanes with the rounding of XA. -/
def State.ftriRun (s : State) (o : LX) (f : Rnd → Nat → Nat → Nat → Nat × Flags) :
    Host.Outcome State Fault Refusal :=
  s.run 2 (fun c => .ok (c.eachF (c.active o.w.g) o.w.d.toNat (fun l =>
    let r := f (c.rndAt o.x.rnd.toNat (o.x.sat == 1) 0 l 0)
      (c.gang.src32 o.w.a.toNat l).toNat (c.gang.src32 o.w.b.toNat l).toNat (c.gang.src32 o.x.c.toNat l).toNat
    (BitVec.ofNat 32 r.1, r.2))))

def execFfma (o : LX) (s : State) :=
  s.ftriRun o (fun k a b c => fmaNum fp32 k (decodeNum fp32 a) (decodeNum fp32 b) (decodeNum fp32 c))

def execFdot2 (o : LX) (s : State) :=
  s.ftriRun o (fun k a b c => fdot2Num (if o.x.ty = 9 then bf16 else fp16) k a b c)

def execFclamp (o : LX) (s : State) :=
  s.ftriRun o (fun _ a b c =>
    let m := minmaxNum fp32 true false a b
    let r := minmaxNum fp32 false false m.1 c
    (r.1, m.2 ||| r.2))

def execFscale (o : LX) (s : State) := s.ftriRun o (fun k a b _ => scaleNum k a (sval 32 b))

/-! ### The wide form (R263) -/

/-- The float cell of an opcode, for WIDE; its format is TYPE's. -/
def fltCellOf (cell : Nat) : FCell :=
  match cell with
  | 0x20 | 0x30 | 0x38 => fcellAdd
  | 0x21 | 0x31 | 0x39 => fcellSub
  | 0x22 | 0x32 | 0x3A => fcellMul
  | 0x23 | 0x33 | 0x3B => fcellMac
  | 0x26 => fcellUn .rcp
  | 0x27 => fcellUn .rsq
  | 0x28 => fcellUn .sqrt
  | 0x29 => fcellUn .exp2
  | 0x2A => fcellUn .log2
  | 0x4A => fcellI2f true
  | 0x4B => fcellI2f false
  | _ => fcellUn .rnd

/-- WIDE: the cell of SUB at the width or with the rounding that XA names. -/
def execWide (o : LX) (s : State) : Host.Outcome State Fault Refusal :=
  let cell := o.x.sub.toNat
  let ty := o.x.ty.toNat
  let sat := o.x.sat == 1
  s.run 2 (fun c => .ok (
    if cell = 0x1F then c.icmpOp o.w 64
    else if cell < 0x20 then c.intOp o.w (tyWidth ty) (tySigned ty) (intCellOf cell)
    else if cell = 0x46 then c.packOp o.w bf16 o.x.rnd.toNat sat
    else if cell = 0x47 then c.packOp o.w fp16 o.x.rnd.toNat sat
    else c.fltOp o.w (if ty = 9 then bf16 else if ty = 10 then fp16 else fp32) o.x.rnd.toNat sat (fltCellOf cell)))

end Sys2Proof.Machine
end

