-- ==== Sys2Proof/Machine/LaneCvt.lean ====
section
/-!
DEFINITION. CVT, QSPLIT and SPC.48 (R274, R275, R278, R279).
-/

namespace Sys2Proof.Machine

/-! ### CVT through a slot (R274, R275) -/

/-- What a lane of a slot conversion has read: its value, its block scale byte, and whether it counts as a NaN. -/
structure SlotIn where
  lane : Nat
  x : Val
  code : Nat
  nan : Bool

/-- The rounding mode of a conversion: RND, or the slot's ROUND when RND is 3 (R247). -/
def cvtMode (o : LX) (f : FmtSlot) : Nat := if o.x.rnd = 3 then f.round else o.x.rnd.toNat

/-- A conversion that names a slot: its checks, the values read, NAN FAULT before anything is written, then the
results. `rd` reads a lane's A through the slot with a scale byte; `wr` converts (log 22). -/
def State.slotCvt (s : State) (o : LX) (toFs : Bool) (rd : FmtSlot → Nat → Nat → Val)
    (wr : FmtSlot → Rnd → Nat → Val → Nat × Flags) : Host.Outcome State Fault Refusal :=
  s.run 2 (fun c =>
    let f := c.slot o.x.slot
    if !f.ok || (f.block == 0 && o.w.b != 0) then .bad .badFormatSlot { lanes := c.faultLanes o.w.g }
    else
      let xs : List SlotIn := (c.active o.w.g).map (fun l =>
        let code := (c.gang.src32 o.w.b.toNat l).toNat % 256
        let x := rd f code (c.gang.src32 o.w.a.toNat l).toNat
        { lane := l, x := x, code := code, nan := x.isNan || (toFs && f.scaleSrc == 2 && code == 255) })
      let bad := (xs.filter (fun i => i.nan && !c.helper i.lane)).map SlotIn.lane
      if f.nan = 2 && !bad.isEmpty then .bad .nanOperand { lanes := laneMask bad }
      else
        let res := xs.map (fun i =>
          let k := c.rndAt (cvtMode o f) (o.x.sat == 1) f.seed i.lane 0
          (i.lane, wr f k i.code i.x))
        let out : Nat → Nat × Flags := fun l => ((res.find? (fun r => r.1 == l)).map Prod.snd).getD (0, 0)
        .ok (c.eachF (c.active o.w.g) o.w.d.toNat (fun l => (BitVec.ofNat 32 (out l).1, (out l).2))))

/-- From the slot's format into another: the NaN policy, then one rounding; SAT is the OR of XA's and the slot's. -/
def State.cvtFrom (s : State) (o : LX) (t : NumFmt) : Host.Outcome State Fault Refusal :=
  s.slotCvt o false (fun f code a => f.read code (a % 2 ^ f.bits))
    (fun f k _ x =>
      let p := f.policy x
      let r := encodeNum t { k with sat := k.sat || f.sat } p.1
      (r.1, r.2 ||| p.2))

/-- Into the slot's format. -/
def State.cvtTo (s : State) (o : LX) (src : Nat → Val) : Host.Outcome State Fault Refusal :=
  s.slotCvt o true (fun _ _ a => src a) (fun f k code x => f.write k code x)

def execCvtF32Fs (o : LX) (s : State) := s.cvtFrom o fp32
def execCvtFsF32 (o : LX) (s : State) := s.cvtTo o (fun a => decodeNum fp32 a)
def execCvtBf16Fs (o : LX) (s : State) := s.cvtFrom o bf16
def execCvtFsBf16 (o : LX) (s : State) := s.cvtTo o (fun a => decodeNum bf16 (a % 65536))
def execCvtF16Fs (o : LX) (s : State) := s.cvtFrom o fp16
def execCvtFsF16 (o : LX) (s : State) := s.cvtTo o (fun a => decodeNum fp16 (a % 65536))
def execCvtI32Fs (o : LX) (s : State) := s.cvtFrom o i32
def execCvtFsI32 (o : LX) (s : State) := s.cvtTo o (fun a => decodeNum i32 a)

/-! ### CVT without a slot -/

def State.cvtPlain (s : State) (o : LX) (src t : NumFmt) : Host.Outcome State Fault Refusal :=
  s.ftriRun o (fun k a _ _ => encodeNum t k (decodeNum src (a % 2 ^ src.width)))

def execCvtF32Bf16 (o : LX) (s : State) := s.cvtPlain o bf16 fp32
def execCvtBf16F32 (o : LX) (s : State) := s.cvtPlain o fp32 bf16
def execCvtF32F16 (o : LX) (s : State) := s.cvtPlain o fp16 fp32
def execCvtF16F32 (o : LX) (s : State) := s.cvtPlain o fp32 fp16
def execCvtF32I32 (o : LX) (s : State) := s.cvtPlain o i32 fp32
def execCvtI32F32 (o : LX) (s : State) := s.cvtPlain o fp32 i32
def execCvtF32N32 (o : LX) (s : State) := s.cvtPlain o n32 fp32
def execCvtN32F32 (o : LX) (s : State) := s.cvtPlain o fp32 n32

/-! ### QSPLIT (R278, R101) -/

/-- QSPLIT: the halves, or each half converted through the slot (log 21). -/
def execQsplit (o : LX) (s : State) : Host.Outcome State Fault Refusal :=
  s.run 2 (fun c =>
    let t := if o.x.ty = 9 then bf16 else if o.x.ty = 10 then fp16 else fp32
    let src : Nat → Nat := fun l => (c.gang.src32 o.w.a.toNat l).toNat % 2 ^ t.width
    if o.x.imm = 0 then
      .ok (c.each2F (c.active o.w.g) o.w.d.toNat (fun l =>
        let h := splitHalves t (src l)
        (BitVec.ofNat 64 (h.1 + h.2 * 2 ^ 32), splitFlags t (src l))))
    else
      let f := c.slot o.x.slot
      if !f.ok || f.block != 0 then .bad .badFormatSlot { lanes := c.faultLanes o.w.g }
      else
        let bad := (c.contrib o.w.g).filter (fun l => (decodeNum t (src l)).isNan)
        if f.nan = 2 && !bad.isEmpty then .bad .nanOperand { lanes := laneMask bad }
        else
          .ok (c.each2F (c.active o.w.g) o.w.d.toNat (fun l =>
            let h := splitHalves t (src l)
            let cv : Nat → Nat → Nat × Flags := fun x e =>
              f.write (c.rndAt (cvtMode o f) (o.x.sat == 1) f.seed l e) 0 (decodeNum t x)
            let lo := cv h.1 0
            let hi := cv h.2 1
            (BitVec.ofNat 64 (lo.1 + hi.1 * 2 ^ 32), lo.2 ||| hi.2 ||| splitFlags t (src l)))))

/-! ### SPC.48 (R279) -/

/-- Element i of the eight INT8 values is among the four of largest magnitude, ties to the lower index. -/
def spcKeep (x i : Nat) : Bool :=
  let mag : Nat → Nat := fun k => (sval 8 (elem 8 k x)).natAbs
  let above := (List.range 8).filter (fun k => decide (mag i < mag k) || (mag i == mag k && decide (k < i)))
  decide (above.length < 4)

/-- SPC.48: the kept values in ascending index, and their indices. -/
def execSpc48 (o : LR) (s : State) : Host.Outcome State Fault Refusal :=
  s.run 1 (fun c => .ok (c.each2 (c.active o.g) o.d.toNat (fun l =>
    let x := (c.gang.src64 o.a.toNat l).toNat
    let kept := (List.range 8).filter (spcKeep x)
    let vals := kept.foldr (fun i r => elem 8 i x + 256 * r) 0
    let meta_ := kept.foldr (fun i r => i + 8 * r) 0
    BitVec.ofNat 64 (vals + meta_ * 2 ^ 32))))

end Sys2Proof.Machine
end

