-- ==== Sys2Proof/Machine/CrossLane.lean ====
section
/-!
DEFINITION. The instructions between lanes (R282 to R287), and moves, selection and predicates (R280, R281).
-/

namespace Sys2Proof.Machine

/-! ### QXCH and SHFL (R283, R284) -/

/-- Give each active lane the A of a source lane. -/
def State.xchRun (s : State) (o : LX) (src : Ctx → Nat → Nat) : Host.Outcome State Fault Refusal :=
  s.run 2 (fun c =>
    let big := w64 o.x.ty
    .ok (c.eachW big (c.active o.w.g) o.w.d.toNat (fun l => c.srcW big o.w.a.toNat (src c l))))

def execQxchH (o : LX) (s : State) := s.xchRun o (fun _ l => l ^^^ 1)
def execQxchV (o : LX) (s : State) := s.xchRun o (fun _ l => l ^^^ 2)
def execQxchD (o : LX) (s : State) := s.xchRun o (fun _ l => l ^^^ 3)
def execQxchBc (o : LX) (s : State) := s.xchRun o (fun _ l => l / 4 * 4 + o.x.imm.toNat % 4)

/-- The source lane when it lies in active(F), the lane itself otherwise (R284). -/
def Ctx.shflFrom (c : Ctx) (g : BitVec 3) (l : Nat) (src : Nat) : Nat :=
  if src < c.width && (c.active g).contains src then src else l

/-- The lane's count n, read from B. -/
def Ctx.shflN (c : Ctx) (o : LX) (l : Nat) : Nat := (c.gang.src32 o.w.b.toNat l).toNat

/-- n is a power of two from lo to W. -/
def pow2In (lo w n : Nat) : Bool := decide (lo ≤ n) && decide (n ≤ w) && (n == 2 ^ Nat.log2 n)

def execShflAt (o : LX) (s : State) := s.xchRun o (fun c l => c.shflFrom o.w.g l (c.shflN o l))

def execShflRot (o : LX) (s : State) :=
  s.xchRun o (fun c l => c.shflFrom o.w.g l (((l : Int) + sval 32 (c.shflN o l)) % (c.width : Int)).toNat)

def execShflSpan (o : LX) (s : State) :=
  s.xchRun o (fun c l =>
    let n := c.shflN o l
    c.shflFrom o.w.g l (if pow2In 1 c.width n then l - l % n else l))

def execShflFlip (o : LX) (s : State) :=
  s.xchRun o (fun c l =>
    let n := c.shflN o l
    c.shflFrom o.w.g l (if pow2In 2 c.width n then l ^^^ (n - 1) else l))

/-! ### VREDUCE and VSCAN (R285) -/

/-- A combining operation with its identity: two values to a value and its flags. -/
structure Comb where
  ident : Nat
  op : Nat → Nat → Nat × Flags

/-- One level of the tree: neighbours combined, the lower position first. -/
def combLevel (op : Nat → Nat → Nat × Flags) : List Nat → List Nat × Flags
  | x :: y :: t =>
    let r := combLevel op t
    let z := op x y
    (z.1 :: r.1, z.2 ||| r.2)
  | t => (t, 0)

/-- n levels of the tree over the lane positions. An identity leaves the other operand as it is and raises
nothing. -/
def combTree (op : Nat → Nat → Nat × Flags) : Nat → List Nat → Nat × Flags
  | 0, l => (l.headD 0, 0)
  | n + 1, l =>
    let r := combLevel op l
    let t := combTree op n r.1
    (t.1, r.2 ||| t.2)

/-- The left fold in ascending lane order: the accumulator before and after each position. -/
def scanFrom (k : Comb) : Nat → List (Option Nat) → List (Nat × Nat) × Flags
  | _, [] => ([], 0)
  | acc, x :: t =>
    let st : Nat × Flags :=
      match x with
      | some b => k.op acc b
      | none => (acc, 0)
    let r := scanFrom k st.1 t
    ((acc, st.1) :: r.1, st.2 ||| r.2)

/-- The contributors' values of A over the W lane positions. -/
def Ctx.contribVals (c : Ctx) (o : LX) (big : Bool) : List (Option Nat) :=
  (List.range c.width).map (fun l =>
    if (c.contrib o.w.g).contains l then some (c.srcW big o.w.a.toNat l) else none)

/-- VREDUCE: the tree's result in every receiver. -/
def State.reduceRun (s : State) (o : LX) (k : Nat → Bool → Comb) : Host.Outcome State Fault Refusal :=
  s.run 2 (fun c =>
    let big := w64 o.x.ty
    let cb := k (if big then 64 else 32) (tySigned o.x.ty.toNat)
    let r := combTree cb.op 6 ((c.contribVals o big).map (fun x => x.getD cb.ident))
    .ok ((c.eachW big (c.active o.w.g) o.w.d.toNat (fun _ => r.1)).flags r.2))

/-- VSCAN: the fold's value after a lane, or before it under .EXCL. -/
def State.scanRun (s : State) (o : LX) (k : Nat → Bool → Comb) : Host.Outcome State Fault Refusal :=
  s.run 2 (fun c =>
    let big := w64 o.x.ty
    let cb := k (if big then 64 else 32) (tySigned o.x.ty.toNat)
    let r := scanFrom cb cb.ident (c.contribVals o big)
    .ok ((c.eachW big (c.active o.w.g) o.w.d.toNat (fun l =>
      let p := (r.1[l]?).getD (cb.ident, cb.ident)
      if o.x.imm = 1 then p.1 else p.2)).flags r.2))

def combAdd (w : Nat) (_ : Bool) : Comb := { ident := 0, op := fun a b => ((a + b) % 2 ^ w, 0) }
def combMin (w : Nat) (sg : Bool) : Comb :=
  { ident := wrap w (intHi sg w), op := fun a b => (if ext sg w b < ext sg w a then b else a, 0) }
def combMax (w : Nat) (sg : Bool) : Comb :=
  { ident := wrap w (intLo sg w), op := fun a b => (if ext sg w a < ext sg w b then b else a, 0) }
def combAnd (w : Nat) (_ : Bool) : Comb := { ident := 2 ^ w - 1, op := fun a b => (a &&& b, 0) }
def combOr (_ : Nat) (_ : Bool) : Comb := { ident := 0, op := fun a b => (a ||| b, 0) }
def combXor (_ : Nat) (_ : Bool) : Comb := { ident := 0, op := fun a b => (a ^^^ b, 0) }
def combFadd (_ : Nat) (_ : Bool) : Comb := { ident := 0x80000000, op := fadd32 }
def combFmin (_ : Nat) (_ : Bool) : Comb := { ident := 0x7F800000, op := fun a b => minmaxNum fp32 false false a b }
def combFmax (_ : Nat) (_ : Bool) : Comb := { ident := 0xFF800000, op := fun a b => minmaxNum fp32 true false a b }

def execVreduceAdd (o : LX) (s : State) := s.reduceRun o combAdd
def execVreduceMin (o : LX) (s : State) := s.reduceRun o combMin
def execVreduceMax (o : LX) (s : State) := s.reduceRun o combMax
def execVreduceAnd (o : LX) (s : State) := s.reduceRun o combAnd
def execVreduceOr (o : LX) (s : State) := s.reduceRun o combOr
def execVreduceXor (o : LX) (s : State) := s.reduceRun o combXor
def execVreduceFadd (o : LX) (s : State) := s.reduceRun o combFadd
def execVreduceFmin (o : LX) (s : State) := s.reduceRun o combFmin
def execVreduceFmax (o : LX) (s : State) := s.reduceRun o combFmax
def execVscanAdd (o : LX) (s : State) := s.scanRun o combAdd
def execVscanMin (o : LX) (s : State) := s.scanRun o combMin
def execVscanMax (o : LX) (s : State) := s.scanRun o combMax
def execVscanAnd (o : LX) (s : State) := s.scanRun o combAnd
def execVscanOr (o : LX) (s : State) := s.scanRun o combOr
def execVscanXor (o : LX) (s : State) := s.scanRun o combXor
def execVscanFadd (o : LX) (s : State) := s.scanRun o combFadd
def execVscanFmin (o : LX) (s : State) := s.scanRun o combFmin
def execVscanFmax (o : LX) (s : State) := s.scanRun o combFmax

/-! ### VOTE, BALLOT, EQMASK (R286) -/

/-- A vote of c contributors, t of them true. -/
def State.voteRun (s : State) (o : LX) (f : Nat → Nat → Bool) : Host.Outcome State Fault Refusal :=
  s.run 2 (fun c =>
    let cs := c.contrib o.w.g
    let t := (cs.filter (fun l => c.gang.pred o.w.a.toNat l)).length
    .ok (c.eachP (c.active o.w.g) o.w.d.toNat (fun _ => f cs.length t)))

def execVoteSome (o : LX) (s : State) :=
  s.voteRun o (fun n t => n != 0 && decide ((if o.x.imm = 0 then 1 else o.x.imm.toNat) ≤ t))
def execVoteEvery (o : LX) (s : State) := s.voteRun o (fun n t => t == n)
def execVoteSame (o : LX) (s : State) := s.voteRun o (fun n t => t == 0 || t == n)

def execBallot (o : LR) (s : State) : Host.Outcome State Fault Refusal :=
  s.run 1 (fun c =>
    let m := laneMask ((c.contrib o.g).filter (fun l => c.gang.pred o.a.toNat l))
    .ok (c.each2 (c.active o.g) o.d.toNat (fun _ => m)))

def execEqmask (o : LR) (s : State) : Host.Outcome State Fault Refusal :=
  s.run 1 (fun c =>
    .ok (c.each2 (c.active o.g) o.d.toNat (fun l =>
      laneMask ((c.contrib o.g).filter (fun m => c.gang.src32 o.a.toNat m == c.gang.src32 o.a.toNat l)))))

/-! ### VCOMP and VEXPAND (R287) -/

/-- The position of a lane in a list of lanes. -/
def rankIn (ls : List Nat) (l : Nat) : Nat := (ls.takeWhile (fun x => x != l)).length

def execVcomp (o : LR) (s : State) : Host.Outcome State Fault Refusal :=
  s.run 1 (fun c =>
    let rs := c.active o.g
    let sel := (c.contrib o.g).filter (fun l => c.gang.pred o.b.toNat l)
    .ok (c.each2 rs o.d.toNat (fun l =>
      let x : Nat :=
        match sel[rankIn rs l]? with
        | some m => (c.gang.src32 o.a.toNat m).toNat
        | none => 0
      BitVec.ofNat 64 (x + sel.length * 2 ^ 32))))

def execVexpand (o : LR) (s : State) : Host.Outcome State Fault Refusal :=
  s.run 1 (fun c =>
    let rs := c.active o.g
    let sel := (c.contrib o.g).filter (fun l => c.gang.pred o.b.toNat l)
    .ok (c.each rs o.d.toNat (fun l =>
      if sel.contains l then
        match rs[rankIn sel l]? with
        | some m => c.gang.src32 o.a.toNat m
        | none => 0
      else 0)))

/-! ### Moves, selection, predicates (R280, R281) -/

def execMov (o : LR) (s : State) : Host.Outcome State Fault Refusal :=
  s.run 1 (fun c => .ok (c.each (c.active o.g) o.d.toNat (fun l => c.gang.src32 o.a.toNat l)))

/-- MOVI has no guard. -/
def execMovi (o : LI) (s : State) : Host.Outcome State Fault Refusal :=
  s.run 1 (fun c => .ok (c.each (c.active 7) o.d.toNat (fun _ => o.imm.signExtend 32)))

def execMovw (o : LXI) (s : State) : Host.Outcome State Fault Refusal :=
  s.run 2 (fun c => .ok (c.each (c.active o.w.g) o.w.d.toNat (fun _ => o.xi)))

def execSel (o : LX) (s : State) : Host.Outcome State Fault Refusal :=
  s.run 2 (fun c =>
    let big := w64 o.x.ty
    .ok (c.eachW big (c.active o.w.g) o.w.d.toNat (fun l =>
      c.srcW big (if c.gang.pred o.x.c.toNat l then o.w.a.toNat else o.w.b.toNat) l)))

/-- Bit 4a + 2b + c of a truth table. -/
def lutBit (imm : BitVec 8) (a b c : Bool) : Bool :=
  imm.getLsbD ((if a then 4 else 0) + (if b then 2 else 0) + (if c then 1 else 0))

def execPlop (o : LX) (s : State) : Host.Outcome State Fault Refusal :=
  s.run 2 (fun c => .ok (c.eachP (c.active o.w.g) o.w.d.toNat (fun l =>
    lutBit o.x.imm (c.gang.pred o.w.a.toNat l) (c.gang.pred o.w.b.toNat l) (c.gang.pred o.x.c.toNat l))))

/-- The lane's predicates p7 to p0 as a number. -/
def Gang.predBits (g : Gang) (l : Nat) : Nat → Nat
  | 0 => 0
  | n + 1 => g.predBits l n + (if g.pred n l then 2 ^ n else 0)

def execPget (o : LR) (s : State) : Host.Outcome State Fault Refusal :=
  s.run 1 (fun c => .ok (c.each (c.active o.g) o.d.toNat (fun l => BitVec.ofNat 32 (c.gang.predBits l 8))))

def execPset (o : LR) (s : State) : Host.Outcome State Fault Refusal :=
  s.run 1 (fun c => .ok (c.eachP (c.active o.g) o.d.toNat (fun l => c.gang.src32 o.a.toNat l != 0)))

end Sys2Proof.Machine
end

