-- ==== Sys2Proof/Machine/UniInt.lean ====
section
/-!
DEFINITION. The uniform integer instructions (R342 to R345).
-/

namespace Sys2Proof.Machine

/-- A U-R cell over a, b and the old d (R343). -/
def State.uniRun (s : State) (o : LR) (f : Reg → Reg → Reg → Reg) : Host.Outcome State Fault Refusal :=
  s.runU o.g 1 (fun c =>
    let x := f (c.gang.rdG o.a.toNat) (c.gang.rdG o.b.toNat) (c.gang.rdG o.d.toNat)
    .ok { c with gang := c.gang.wrG o.d.toNat x })

/-- A U-I cell: it has no guard (R344). -/
def State.immRun (s : State) (o : UI) (f : Reg → Reg) : Host.Outcome State Fault Refusal :=
  s.run 1 (fun c => .ok { c with gang := c.gang.wrG o.d.toNat (f (c.gang.rdG o.d.toNat)) })

/-- The high half of a product (R343). -/
def mulHigh (signed : Bool) (a b : Reg) : Reg :=
  if signed then BitVec.ofInt 64 (a.toInt * b.toInt / (2 ^ 64 : Int)) else BitVec.ofNat 64 (a.toNat * b.toNat / 2 ^ 64)

def execUadd (o : LR) (s : State) := s.uniRun o (fun a b _ => a + b)
def execUsub (o : LR) (s : State) := s.uniRun o (fun a b _ => a - b)
def execUmul (o : LR) (s : State) := s.uniRun o (fun a b _ => a * b)
def execUmulhI64 (o : LR) (s : State) := s.uniRun o (fun a b _ => mulHigh true a b)
def execUmulhN64 (o : LR) (s : State) := s.uniRun o (fun a b _ => mulHigh false a b)
def execUmac (o : LR) (s : State) := s.uniRun o (fun a b d => d + a * b)
def execUminI64 (o : LR) (s : State) := s.uniRun o (fun a b _ => if b.toInt < a.toInt then b else a)
def execUminN64 (o : LR) (s : State) := s.uniRun o (fun a b _ => if b.toNat < a.toNat then b else a)
def execUmaxI64 (o : LR) (s : State) := s.uniRun o (fun a b _ => if a.toInt < b.toInt then b else a)
def execUmaxN64 (o : LR) (s : State) := s.uniRun o (fun a b _ => if a.toNat < b.toNat then b else a)
def execUand (o : LR) (s : State) := s.uniRun o (fun a b _ => a &&& b)
def execUor (o : LR) (s : State) := s.uniRun o (fun a b _ => a ||| b)
def execUxor (o : LR) (s : State) := s.uniRun o (fun a b _ => a ^^^ b)
def execUnot (o : LR) (s : State) := s.uniRun o (fun a _ _ => ~~~a)
def execUshl (o : LR) (s : State) := s.uniRun o (fun a b _ => if 64 ≤ b.toNat then 0 else a <<< b.toNat)
def execUshr (o : LR) (s : State) := s.uniRun o (fun a b _ => if 64 ≤ b.toNat then 0 else a >>> b.toNat)
def execUsar (o : LR) (s : State) := s.uniRun o (fun a b _ => a.sshiftRight (min b.toNat 64))
def execUclz (o : LR) (s : State) := s.uniRun o (fun a _ _ => BitVec.ofNat 64 (clzN 64 a.toNat))
def execUffs (o : LR) (s : State) := s.uniRun o (fun a _ _ => BitVec.ofNat 64 (ffsN 64 a.toNat))
def execUpopc (o : LR) (s : State) := s.uniRun o (fun a _ _ => BitVec.ofNat 64 (popcN 64 a.toNat))
def execUmov (o : LR) (s : State) := s.uniRun o (fun a _ _ => a)
def execUdivN64 (o : LR) (s : State) :=
  s.uniRun o (fun a b _ => if b = 0 then BitVec.allOnes 64 else BitVec.ofNat 64 (a.toNat / b.toNat))
def execUremN64 (o : LR) (s : State) := s.uniRun o (fun a b _ => if b = 0 then a else BitVec.ofNat 64 (a.toNat % b.toNat))

/-- UEXT (R344): B gives the width and the sign. -/
def execUext (o : LR) (s : State) :=
  s.uniRun o (fun a _ _ =>
    let n := 8 * 2 ^ (o.b.toNat % 4)
    if o.b.toNat / 4 % 2 = 1 then sext n a.toNat else BitVec.ofNat 64 (a.toNat % 2 ^ n))

def execUmovi (o : UI) (s : State) := s.immRun o (fun _ => o.imm.signExtend 64)
def execUaddi (o : UI) (s : State) := s.immRun o (fun d => d + o.imm.signExtend 64)
def execUcat (o : UI) (s : State) := s.immRun o (fun d => (d <<< 16) + BitVec.ofNat 64 o.imm.toNat)

/-- UCMP (R345): D[6:3] is the comparison code, D[2:0] the predicate. -/
def execUcmp (o : LR) (s : State) : Host.Outcome State Fault Refusal :=
  s.runU o.g 1 (fun c =>
    let b := intCmp (o.d.toNat / 8) 64 (c.gang.rdG o.a.toNat).toNat (c.gang.rdG o.b.toNat).toNat
    .ok { c with gang := c.gang.setQ (o.d.toNat % 8) b })

/-- USEL (R345): the guard field selects, and USEL is unguarded. -/
def execUsel (o : LR) (s : State) : Host.Outcome State Fault Refusal :=
  s.run 1 (fun c =>
    .ok { c with gang := c.gang.wrG o.d.toNat (c.gang.rdG (if c.gang.qpred o.g.toNat then o.a else o.b).toNat) })

/-- UPLOP (R345): D[6:3] is the truth table. -/
def execUplop (o : LR) (s : State) : Host.Outcome State Fault Refusal :=
  s.runU o.g 1 (fun c =>
    let i := 2 * (c.gang.qpred (o.a.toNat % 8)).toNat + (c.gang.qpred (o.b.toNat % 8)).toNat
    .ok { c with gang := c.gang.setQ (o.d.toNat % 8) (bits (o.d.toNat / 8) i 1 == 1) })

end Sys2Proof.Machine
end

