-- ==== Sys2Proof/Machine/Dispatch.lean ====
section
/-!
DEFINITION. The meaning of every instruction and of every step of a unit: one call of it.
-/

namespace Sys2Proof.Machine

/-- Run an instruction of the issuing fragment, or a step of a unit, of the host or of a peer. -/
def exec (i : Instr) (s : State) : Host.Outcome State Fault Refusal :=
  match i with
  | .iadd o => Sys2Proof.Machine.execIadd o s
  | .isub o => Sys2Proof.Machine.execIsub o s
  | .iaddSatI32 o => Sys2Proof.Machine.execIaddSatI32 o s
  | .iaddSatN32 o => Sys2Proof.Machine.execIaddSatN32 o s
  | .isubSatI32 o => Sys2Proof.Machine.execIsubSatI32 o s
  | .isubSatN32 o => Sys2Proof.Machine.execIsubSatN32 o s
  | .imul o => Sys2Proof.Machine.execImul o s
  | .imulhI32 o => Sys2Proof.Machine.execImulhI32 o s
  | .imulhN32 o => Sys2Proof.Machine.execImulhN32 o s
  | .imac o => Sys2Proof.Machine.execImac o s
  | .iminI32 o => Sys2Proof.Machine.execIminI32 o s
  | .iminN32 o => Sys2Proof.Machine.execIminN32 o s
  | .imaxI32 o => Sys2Proof.Machine.execImaxI32 o s
  | .imaxN32 o => Sys2Proof.Machine.execImaxN32 o s
  | .iabs o => Sys2Proof.Machine.execIabs o s
  | .ineg o => Sys2Proof.Machine.execIneg o s
  | .and o => Sys2Proof.Machine.execAnd o s
  | .or o => Sys2Proof.Machine.execOr o s
  | .xor o => Sys2Proof.Machine.execXor o s
  | .not o => Sys2Proof.Machine.execNot o s
  | .shl o => Sys2Proof.Machine.execShl o s
  | .shr o => Sys2Proof.Machine.execShr o s
  | .sar o => Sys2Proof.Machine.execSar o s
  | .rot o => Sys2Proof.Machine.execRot o s
  | .bfeN32 o => Sys2Proof.Machine.execBfeN32 o s
  | .bfeI32 o => Sys2Proof.Machine.execBfeI32 o s
  | .bfi o => Sys2Proof.Machine.execBfi o s
  | .brev o => Sys2Proof.Machine.execBrev o s
  | .clz o => Sys2Proof.Machine.execClz o s
  | .ffs o => Sys2Proof.Machine.execFfs o s
  | .popc o => Sys2Proof.Machine.execPopc o s
  | .icmp o => Sys2Proof.Machine.execIcmp o s
  | .fadd o => Sys2Proof.Machine.execFadd o s
  | .fsub o => Sys2Proof.Machine.execFsub o s
  | .fmul o => Sys2Proof.Machine.execFmul o s
  | .fmac o => Sys2Proof.Machine.execFmac o s
  | .fmin o => Sys2Proof.Machine.execFmin o s
  | .fmax o => Sys2Proof.Machine.execFmax o s
  | .frcp o => Sys2Proof.Machine.execFrcp o s
  | .frsq o => Sys2Proof.Machine.execFrsq o s
  | .fsqrt o => Sys2Proof.Machine.execFsqrt o s
  | .fexp2 o => Sys2Proof.Machine.execFexp2 o s
  | .flog2 o => Sys2Proof.Machine.execFlog2 o s
  | .fcmp o => Sys2Proof.Machine.execFcmp o s
  | .fabs o => Sys2Proof.Machine.execFabs o s
  | .fneg o => Sys2Proof.Machine.execFneg o s
  | .fminNum o => Sys2Proof.Machine.execFminNum o s
  | .fmaxNum o => Sys2Proof.Machine.execFmaxNum o s
  | .faddBf16 o => Sys2Proof.Machine.execFaddBf16 o s
  | .fsubBf16 o => Sys2Proof.Machine.execFsubBf16 o s
  | .fmulBf16 o => Sys2Proof.Machine.execFmulBf16 o s
  | .fmacBf16 o => Sys2Proof.Machine.execFmacBf16 o s
  | .fminBf16 o => Sys2Proof.Machine.execFminBf16 o s
  | .fmaxBf16 o => Sys2Proof.Machine.execFmaxBf16 o s
  | .fabsBf16 o => Sys2Proof.Machine.execFabsBf16 o s
  | .fnegBf16 o => Sys2Proof.Machine.execFnegBf16 o s
  | .faddF16 o => Sys2Proof.Machine.execFaddF16 o s
  | .fsubF16 o => Sys2Proof.Machine.execFsubF16 o s
  | .fmulF16 o => Sys2Proof.Machine.execFmulF16 o s
  | .fmacF16 o => Sys2Proof.Machine.execFmacF16 o s
  | .fminF16 o => Sys2Proof.Machine.execFminF16 o s
  | .fmaxF16 o => Sys2Proof.Machine.execFmaxF16 o s
  | .fabsF16 o => Sys2Proof.Machine.execFabsF16 o s
  | .fnegF16 o => Sys2Proof.Machine.execFnegF16 o s
  | .cvtF32Fs o => Sys2Proof.Machine.execCvtF32Fs o s
  | .cvtFsF32 o => Sys2Proof.Machine.execCvtFsF32 o s
  | .cvtBf16Fs o => Sys2Proof.Machine.execCvtBf16Fs o s
  | .cvtFsBf16 o => Sys2Proof.Machine.execCvtFsBf16 o s
  | .cvtF16Fs o => Sys2Proof.Machine.execCvtF16Fs o s
  | .cvtFsF16 o => Sys2Proof.Machine.execCvtFsF16 o s
  | .cvtI32Fs o => Sys2Proof.Machine.execCvtI32Fs o s
  | .cvtFsI32 o => Sys2Proof.Machine.execCvtFsI32 o s
  | .cvtF32Bf16 o => Sys2Proof.Machine.execCvtF32Bf16 o s
  | .cvtBf16F32 o => Sys2Proof.Machine.execCvtBf16F32 o s
  | .cvtF32F16 o => Sys2Proof.Machine.execCvtF32F16 o s
  | .cvtF16F32 o => Sys2Proof.Machine.execCvtF16F32 o s
  | .cvtF32I32 o => Sys2Proof.Machine.execCvtF32I32 o s
  | .cvtI32F32 o => Sys2Proof.Machine.execCvtI32F32 o s
  | .cvtF32N32 o => Sys2Proof.Machine.execCvtF32N32 o s
  | .cvtN32F32 o => Sys2Proof.Machine.execCvtN32F32 o s
  | .qsplit o => Sys2Proof.Machine.execQsplit o s
  | .vcomp o => Sys2Proof.Machine.execVcomp o s
  | .spc48 o => Sys2Proof.Machine.execSpc48 o s
  | .bpick o => Sys2Proof.Machine.execBpick o s
  | .frnd o => Sys2Proof.Machine.execFrnd o s
  | .packBf16 o => Sys2Proof.Machine.execPackBf16 o s
  | .packF16 o => Sys2Proof.Machine.execPackF16 o s
  | .unpackBf16 o => Sys2Proof.Machine.execUnpackBf16 o s
  | .unpackF16 o => Sys2Proof.Machine.execUnpackF16 o s
  | .i2fI32 o => Sys2Proof.Machine.execI2fI32 o s
  | .i2fN32 o => Sys2Proof.Machine.execI2fN32 o s
  | .f2iI32 o => Sys2Proof.Machine.execF2iI32 o s
  | .f2iN32 o => Sys2Proof.Machine.execF2iN32 o s
  | .vexpand o => Sys2Proof.Machine.execVexpand o s
  | .qxchH o => Sys2Proof.Machine.execQxchH o s
  | .qxchV o => Sys2Proof.Machine.execQxchV o s
  | .qxchD o => Sys2Proof.Machine.execQxchD o s
  | .qxchBc o => Sys2Proof.Machine.execQxchBc o s
  | .shflAt o => Sys2Proof.Machine.execShflAt o s
  | .shflRot o => Sys2Proof.Machine.execShflRot o s
  | .shflSpan o => Sys2Proof.Machine.execShflSpan o s
  | .shflFlip o => Sys2Proof.Machine.execShflFlip o s
  | .vreduceAdd o => Sys2Proof.Machine.execVreduceAdd o s
  | .vreduceMin o => Sys2Proof.Machine.execVreduceMin o s
  | .vreduceMax o => Sys2Proof.Machine.execVreduceMax o s
  | .vreduceAnd o => Sys2Proof.Machine.execVreduceAnd o s
  | .vreduceOr o => Sys2Proof.Machine.execVreduceOr o s
  | .vreduceXor o => Sys2Proof.Machine.execVreduceXor o s
  | .vreduceFadd o => Sys2Proof.Machine.execVreduceFadd o s
  | .vreduceFmin o => Sys2Proof.Machine.execVreduceFmin o s
  | .vreduceFmax o => Sys2Proof.Machine.execVreduceFmax o s
  | .vscanAdd o => Sys2Proof.Machine.execVscanAdd o s
  | .vscanMin o => Sys2Proof.Machine.execVscanMin o s
  | .vscanMax o => Sys2Proof.Machine.execVscanMax o s
  | .vscanAnd o => Sys2Proof.Machine.execVscanAnd o s
  | .vscanOr o => Sys2Proof.Machine.execVscanOr o s
  | .vscanXor o => Sys2Proof.Machine.execVscanXor o s
  | .vscanFadd o => Sys2Proof.Machine.execVscanFadd o s
  | .vscanFmin o => Sys2Proof.Machine.execVscanFmin o s
  | .vscanFmax o => Sys2Proof.Machine.execVscanFmax o s
  | .voteSome o => Sys2Proof.Machine.execVoteSome o s
  | .voteEvery o => Sys2Proof.Machine.execVoteEvery o s
  | .voteSame o => Sys2Proof.Machine.execVoteSame o s
  | .ballot o => Sys2Proof.Machine.execBallot o s
  | .eqmask o => Sys2Proof.Machine.execEqmask o s
  | .sel o => Sys2Proof.Machine.execSel o s
  | .plop o => Sys2Proof.Machine.execPlop o s
  | .mov o => Sys2Proof.Machine.execMov o s
  | .movi o => Sys2Proof.Machine.execMovi o s
  | .pget o => Sys2Proof.Machine.execPget o s
  | .pset o => Sys2Proof.Machine.execPset o s
  | .ldN8Lane o => Sys2Proof.Machine.execLdN8Lane o s
  | .ldI8Lane o => Sys2Proof.Machine.execLdI8Lane o s
  | .ldN16Lane o => Sys2Proof.Machine.execLdN16Lane o s
  | .ldI16Lane o => Sys2Proof.Machine.execLdI16Lane o s
  | .ldN32Lane o => Sys2Proof.Machine.execLdN32Lane o s
  | .ldN64Lane o => Sys2Proof.Machine.execLdN64Lane o s
  | .ldN128Lane o => Sys2Proof.Machine.execLdN128Lane o s
  | .stN8Lane o => Sys2Proof.Machine.execStN8Lane o s
  | .stN16Lane o => Sys2Proof.Machine.execStN16Lane o s
  | .stN32Lane o => Sys2Proof.Machine.execStN32Lane o s
  | .stN64Lane o => Sys2Proof.Machine.execStN64Lane o s
  | .stN128Lane o => Sys2Proof.Machine.execStN128Lane o s
  | .atomAddLane o => Sys2Proof.Machine.execAtomAddLane o s
  | .atomFaddLane o => Sys2Proof.Machine.execAtomFaddLane o s
  | .atomMinLane o => Sys2Proof.Machine.execAtomMinLane o s
  | .atomMaxLane o => Sys2Proof.Machine.execAtomMaxLane o s
  | .atomAndLane o => Sys2Proof.Machine.execAtomAndLane o s
  | .atomOrLane o => Sys2Proof.Machine.execAtomOrLane o s
  | .atomXorLane o => Sys2Proof.Machine.execAtomXorLane o s
  | .atomXchgLane o => Sys2Proof.Machine.execAtomXchgLane o s
  | .atomCasLane o => Sys2Proof.Machine.execAtomCasLane o s
  | .pref o => Sys2Proof.Machine.execPref o s
  | .wide o => Sys2Proof.Machine.execWide o s
  | .movw o => Sys2Proof.Machine.execMovw o s
  | .ffma o => Sys2Proof.Machine.execFfma o s
  | .imad o => Sys2Proof.Machine.execImad o s
  | .isum3 o => Sys2Proof.Machine.execIsum3 o s
  | .bitfn o => Sys2Proof.Machine.execBitfn o s
  | .winxN32 o => Sys2Proof.Machine.execWinxN32 o s
  | .winxI32 o => Sys2Proof.Machine.execWinxI32 o s
  | .idot4 o => Sys2Proof.Machine.execIdot4 o s
  | .fdot2 o => Sys2Proof.Machine.execFdot2 o s
  | .iclamp o => Sys2Proof.Machine.execIclamp o s
  | .fclamp o => Sys2Proof.Machine.execFclamp o s
  | .sad o => Sys2Proof.Machine.execSad o s
  | .fscale o => Sys2Proof.Machine.execFscale o s
  | .imadw o => Sys2Proof.Machine.execImadw o s
  | .uadd o => Sys2Proof.Machine.execUadd o s
  | .usub o => Sys2Proof.Machine.execUsub o s
  | .umul o => Sys2Proof.Machine.execUmul o s
  | .umulhI64 o => Sys2Proof.Machine.execUmulhI64 o s
  | .umulhN64 o => Sys2Proof.Machine.execUmulhN64 o s
  | .umac o => Sys2Proof.Machine.execUmac o s
  | .uminI64 o => Sys2Proof.Machine.execUminI64 o s
  | .uminN64 o => Sys2Proof.Machine.execUminN64 o s
  | .umaxI64 o => Sys2Proof.Machine.execUmaxI64 o s
  | .umaxN64 o => Sys2Proof.Machine.execUmaxN64 o s
  | .uand o => Sys2Proof.Machine.execUand o s
  | .uor o => Sys2Proof.Machine.execUor o s
  | .uxor o => Sys2Proof.Machine.execUxor o s
  | .unot o => Sys2Proof.Machine.execUnot o s
  | .ushl o => Sys2Proof.Machine.execUshl o s
  | .ushr o => Sys2Proof.Machine.execUshr o s
  | .usar o => Sys2Proof.Machine.execUsar o s
  | .uext o => Sys2Proof.Machine.execUext o s
  | .uclz o => Sys2Proof.Machine.execUclz o s
  | .uffs o => Sys2Proof.Machine.execUffs o s
  | .upopc o => Sys2Proof.Machine.execUpopc o s
  | .ucmp o => Sys2Proof.Machine.execUcmp o s
  | .usel o => Sys2Proof.Machine.execUsel o s
  | .uplop o => Sys2Proof.Machine.execUplop o s
  | .umov o => Sys2Proof.Machine.execUmov o s
  | .umovi o => Sys2Proof.Machine.execUmovi o s
  | .uaddi o => Sys2Proof.Machine.execUaddi o s
  | .ucat o => Sys2Proof.Machine.execUcat o s
  | .udivN64 o => Sys2Proof.Machine.execUdivN64 o s
  | .uremN64 o => Sys2Proof.Machine.execUremN64 o s
  | .ldN8Uniform o => Sys2Proof.Machine.execLdN8Uniform o s
  | .ldN16Uniform o => Sys2Proof.Machine.execLdN16Uniform o s
  | .ldN32Uniform o => Sys2Proof.Machine.execLdN32Uniform o s
  | .ldI32Uniform o => Sys2Proof.Machine.execLdI32Uniform o s
  | .ldN64Uniform o => Sys2Proof.Machine.execLdN64Uniform o s
  | .stN8Uniform o => Sys2Proof.Machine.execStN8Uniform o s
  | .stN16Uniform o => Sys2Proof.Machine.execStN16Uniform o s
  | .stN32Uniform o => Sys2Proof.Machine.execStN32Uniform o s
  | .stN64Uniform o => Sys2Proof.Machine.execStN64Uniform o s
  | .ldc o => Sys2Proof.Machine.execLdc o s
  | .atomAddUniform o => Sys2Proof.Machine.execAtomAddUniform o s
  | .atomFaddUniform o => Sys2Proof.Machine.execAtomFaddUniform o s
  | .atomMinUniform o => Sys2Proof.Machine.execAtomMinUniform o s
  | .atomMaxUniform o => Sys2Proof.Machine.execAtomMaxUniform o s
  | .atomAndUniform o => Sys2Proof.Machine.execAtomAndUniform o s
  | .atomOrUniform o => Sys2Proof.Machine.execAtomOrUniform o s
  | .atomXorUniform o => Sys2Proof.Machine.execAtomXorUniform o s
  | .atomXchgUniform o => Sys2Proof.Machine.execAtomXchgUniform o s
  | .atomCasUniform o => Sys2Proof.Machine.execAtomCasUniform o s
  | .waitcmp o => Sys2Proof.Machine.execWaitcmp o s
  | .fenceW o => Sys2Proof.Machine.execFenceW o s
  | .fenceL o => Sys2Proof.Machine.execFenceL o s
  | .fenceS o => Sys2Proof.Machine.execFenceS o s
  | .cinv o => Sys2Proof.Machine.execCinv o s
  | .br o => Sys2Proof.Machine.execBr o s
  | .bra o => Sys2Proof.Machine.execBra o s
  | .brl o => Sys2Proof.Machine.execBrl o s
  | .call o => Sys2Proof.Machine.execCall o s
  | .calll o => Sys2Proof.Machine.execCalll o s
  | .callo o => Sys2Proof.Machine.execCallo o s
  | .bri o => Sys2Proof.Machine.execBri o s
  | .calli o => Sys2Proof.Machine.execCalli o s
  | .ret o => Sys2Proof.Machine.execRet o s
  | .regang o => Sys2Proof.Machine.execRegang o s
  | .exit o => Sys2Proof.Machine.execExit o s
  | .hoist o => Sys2Proof.Machine.execHoist o s
  | .hwait o => Sys2Proof.Machine.execHwait o s
  | .evict o => Sys2Proof.Machine.execEvict o s
  | .pin o => Sys2Proof.Machine.execPin o s
  | .unpin o => Sys2Proof.Machine.execUnpin o s
  | .hset o => Sys2Proof.Machine.execHset o s
  | .hget o => Sys2Proof.Machine.execHget o s
  | .mmLoadb o => Sys2Proof.Machine.execMmLoadb o s
  | .mmPass o => Sys2Proof.Machine.execMmPass o s
  | .mmSpass o => Sys2Proof.Machine.execMmSpass o s
  | .mmStore o => Sys2Proof.Machine.execMmStore o s
  | .mmZero o => Sys2Proof.Machine.execMmZero o s
  | .twLoad o => Sys2Proof.Machine.execTwLoad o s
  | .twStore o => Sys2Proof.Machine.execTwStore o s
  | .twMcast o => Sys2Proof.Machine.execTwMcast o s
  | .twGather o => Sys2Proof.Machine.execTwGather o s
  | .twRed o => Sys2Proof.Machine.execTwRed o s
  | .twPermit o => Sys2Proof.Machine.execTwPermit o s
  | .cbatch o => Sys2Proof.Machine.execCbatch o s
  | .cwait o => Sys2Proof.Machine.execCwait o s
  | .barInit o => Sys2Proof.Machine.execBarInit o s
  | .barArrive o => Sys2Proof.Machine.execBarArrive o s
  | .barWait o => Sys2Proof.Machine.execBarWait o s
  | .twait o => Sys2Proof.Machine.execTwait o s
  | .tread o => Sys2Proof.Machine.execTread o s
  | .tapEnc o => Sys2Proof.Machine.execTapEnc o s
  | .tapAdapt o => Sys2Proof.Machine.execTapAdapt o s
  | .tapNext o => Sys2Proof.Machine.execTapNext o s
  | .tapRead o => Sys2Proof.Machine.execTapRead o s
  | .tapResumeApply o => Sys2Proof.Machine.execTapResumeApply o s
  | .tapResumeSkip o => Sys2Proof.Machine.execTapResumeSkip o s
  | .tapResumeRewritten o => Sys2Proof.Machine.execTapResumeRewritten o s
  | .gqIns o => Sys2Proof.Machine.execGqIns o s
  | .gqPop o => Sys2Proof.Machine.execGqPop o s
  | .gqAdd o => Sys2Proof.Machine.execGqAdd o s
  | .gqMax o => Sys2Proof.Machine.execGqMax o s
  | .gqDone o => Sys2Proof.Machine.execGqDone o s
  | .kvFork o => Sys2Proof.Machine.execKvFork o s
  | .kvApp o => Sys2Proof.Machine.execKvApp o s
  | .kvDrop o => Sys2Proof.Machine.execKvDrop o s
  | .kvDropFrame o => Sys2Proof.Machine.execKvDropFrame o s
  | .sread o => Sys2Proof.Machine.execSread o s
  | .swrite o => Sys2Proof.Machine.execSwrite o s
  | .trap o => Sys2Proof.Machine.execTrap o s
  | .tret o => Sys2Proof.Machine.execTret o s
  | .elect o => Sys2Proof.Machine.execElect o s
  | .lsel o => Sys2Proof.Machine.execLsel o s
  | .lwr o => Sys2Proof.Machine.execLwr o s
  | .launchTrig o => Sys2Proof.Machine.execLaunchTrig o s
  | .gridwait o => Sys2Proof.Machine.execGridwait o s
  | .nop o => Sys2Proof.Machine.execNop o s
  | .sleep o => Sys2Proof.Machine.execSleep o s
  | .gqRead o => Sys2Proof.Machine.execGqRead o s
  | .gqResid o => Sys2Proof.Machine.execGqResid o s
  | .yield o => Sys2Proof.Machine.execYield o s
  | .bkpt o => Sys2Proof.Machine.execBkpt o s
  | .mark o => Sys2Proof.Machine.execMark o s
  | .time o => Sys2Proof.Machine.execTime o s
  | .dictionaryPair o => Sys2Proof.Machine.execDictionaryPair o s
  | .issueSelect => Sys2Proof.Machine.execIssueSelect s
  | .fragmentPromotion f => Sys2Proof.Machine.execFragmentPromotion f s
  | .fragmentRefill core => Sys2Proof.Machine.execFragmentRefill core s
  | .spillWaitExpiry core => Sys2Proof.Machine.execSpillWaitExpiry core s
  | .yieldExpiry f => Sys2Proof.Machine.execYieldExpiry f s
  | .sleepExpiry f => Sys2Proof.Machine.execSleepExpiry f s
  | .wctWaitEnd f => Sys2Proof.Machine.execWctWaitEnd f s
  | .detTurn f => Sys2Proof.Machine.execDetTurn f s
  | .detStall launch => Sys2Proof.Machine.execDetStall launch s
  | .pageWalk n => Sys2Proof.Machine.execPageWalk n s
  | .faultqOverflowRewalk n => Sys2Proof.Machine.execFaultqOverflowRewalk n s
  | .homeSliceWrite id => Sys2Proof.Machine.execHomeSliceWrite id s
  | .writeVisible id => Sys2Proof.Machine.execWriteVisible id s
  | .homeSliceRead id => Sys2Proof.Machine.execHomeSliceRead id s
  | .mxAliasWrite id => Sys2Proof.Machine.execMxAliasWrite id s
  | .ownershipGrant id => Sys2Proof.Machine.execOwnershipGrant id s
  | .stashWriteback gid line => Sys2Proof.Machine.execStashWriteback gid line s
  | .leaseRecordDrop line => Sys2Proof.Machine.execLeaseRecordDrop line s
  | .atomicPerform id => Sys2Proof.Machine.execAtomicPerform id s
  | .relAtomicRelease id => Sys2Proof.Machine.execRelAtomicRelease id s
  | .routerMerge n j => Sys2Proof.Machine.execRouterMerge n j s
  | .mergeHoldExpiry id => Sys2Proof.Machine.execMergeHoldExpiry id s
  | .atomicReturn id => Sys2Proof.Machine.execAtomicReturn id s
  | .monitorFallback f => Sys2Proof.Machine.execMonitorFallback f s
  | .hostWriteAck id => Sys2Proof.Machine.execHostWriteAck id s
  | .hostBar2Access func va a data => Sys2Proof.Machine.execHostBar2Access func va a data s
  | .engineSlotStart core => Sys2Proof.Machine.execEngineSlotStart core s
  | .engineWalkStart core n => Sys2Proof.Machine.execEngineWalkStart core n s
  | .permitEffect gid => Sys2Proof.Machine.execPermitEffect gid s
  | .ringTileStart core n => Sys2Proof.Machine.execRingTileStart core n s
  | .engineCommandComplete core n => Sys2Proof.Machine.execEngineCommandComplete core n s
  | .mcastCopyLand core n target => Sys2Proof.Machine.execMcastCopyLand core n target s
  | .operandFetch core => Sys2Proof.Machine.execOperandFetch core s
  | .matrixGrant core => Sys2Proof.Machine.execMatrixGrant core s
  | .arbiterPromotion core n => Sys2Proof.Machine.execArbiterPromotion core n s
  | .bankLoad core n => Sys2Proof.Machine.execBankLoad core n s
  | .bankLoadComplete core bank => Sys2Proof.Machine.execBankLoadComplete core bank s
  | .passComplete core => Sys2Proof.Machine.execPassComplete core s
  | .mmStoreComplete id => Sys2Proof.Machine.execMmStoreComplete id s
  | .tapEncodeRow core => Sys2Proof.Machine.execTapEncodeRow core s
  | .tapCommit gid n => Sys2Proof.Machine.execTapCommit gid n s
  | .tapAdaptRow core => Sys2Proof.Machine.execTapAdaptRow core s
  | .hoistLoadComplete core slot => Sys2Proof.Machine.execHoistLoadComplete core slot s
  | .hoistLoadFault core slot => Sys2Proof.Machine.execHoistLoadFault core slot s
  | .overlayFree core slot => Sys2Proof.Machine.execOverlayFree core slot s
  | .codeAbsentService f => Sys2Proof.Machine.execCodeAbsentService f s
  | .forcedEviction core slot => Sys2Proof.Machine.execForcedEviction core slot s
  | .dictLoad core k => Sys2Proof.Machine.execDictLoad core k s
  | .groupClaim core => Sys2Proof.Machine.execGroupClaim core s
  | .groupDrainComplete gid => Sys2Proof.Machine.execGroupDrainComplete gid s
  | .launchComplete launch => Sys2Proof.Machine.execLaunchComplete launch s
  | .gqUpdateApply pool n => Sys2Proof.Machine.execGqUpdateApply pool n s
  | .faultDelivery f => Sys2Proof.Machine.execFaultDelivery f s
  | .delegatedFault f => Sys2Proof.Machine.execDelegatedFault f s
  | .imageSlotClaim gid => Sys2Proof.Machine.execImageSlotClaim gid s
  | .groupHalt gid => Sys2Proof.Machine.execGroupHalt gid s
  | .saveComplete gid => Sys2Proof.Machine.execSaveComplete gid s
  | .resumePlace core => Sys2Proof.Machine.execResumePlace core s
  | .focusEnd gid => Sys2Proof.Machine.execFocusEnd gid s
  | .uncorrectableWriteback pa => Sys2Proof.Machine.execUncorrectableWriteback pa s
  | .errorRetry die kind pa => Sys2Proof.Machine.execErrorRetry die kind pa s
  | .coreRetire core => Sys2Proof.Machine.execCoreRetire core s
  | .sliceRetire slice => Sys2Proof.Machine.execSliceRetire slice s
  | .deviceSpare dev => Sys2Proof.Machine.execDeviceSpare dev s
  | .droopStretch pair => Sys2Proof.Machine.execDroopStretch pair s
  | .droopRelease pair => Sys2Proof.Machine.execDroopRelease pair s
  | .powerLimitStretch watts => Sys2Proof.Machine.execPowerLimitStretch watts s
  | .firmwareVerify => Sys2Proof.Machine.execFirmwareVerify s
  | .dieRestart die => Sys2Proof.Machine.execDieRestart die s
  | .taggedMessageArrive func m payload mp mc => Sys2Proof.Machine.execTaggedMessageArrive func m payload mp mc s
  | .flitReplay port seq => Sys2Proof.Machine.execFlitReplay port seq s
  | .frontEndFetch func q => Sys2Proof.Machine.execFrontEndFetch func q s
  | .nopPacket func q => Sys2Proof.Machine.execNopPacket func q s
  | .launchPacket func q => Sys2Proof.Machine.execLaunchPacket func q s
  | .resumePacket func q => Sys2Proof.Machine.execResumePacket func q s
  | .ibPacket func q => Sys2Proof.Machine.execIbPacket func q s
  | .predPacket func q => Sys2Proof.Machine.execPredPacket func q s
  | .fencePacket func q => Sys2Proof.Machine.execFencePacket func q s
  | .signalPacket func q => Sys2Proof.Machine.execSignalPacket func q s
  | .waitPacket func q => Sys2Proof.Machine.execWaitPacket func q s
  | .armPacket func q => Sys2Proof.Machine.execArmPacket func q s
  | .cqDoorbell func q v => Sys2Proof.Machine.execCqDoorbell func q v s
  | .cqEnable func q v => Sys2Proof.Machine.execCqEnable func q v s
  | .cqRestart func q skip => Sys2Proof.Machine.execCqRestart func q skip s
  | .evqCtlWrite func v => Sys2Proof.Machine.execEvqCtlWrite func v s
  | .evqHeadWrite func v => Sys2Proof.Machine.execEvqHeadWrite func v s
  | .mxModeChange e mode => Sys2Proof.Machine.execMxModeChange e mode s
  | .mxModeChangeDone e => Sys2Proof.Machine.execMxModeChangeDone e s
  | .l2WaysWrite func v => Sys2Proof.Machine.execL2WaysWrite func v s
  | .l2LeaseWrite func v => Sys2Proof.Machine.execL2LeaseWrite func v s
  | .codeCantonWrite func v => Sys2Proof.Machine.execCodeCantonWrite func v s
  | .gqPoolOpen func k => Sys2Proof.Machine.execGqPoolOpen func k s
  | .gqPoolClose func k => Sys2Proof.Machine.execGqPoolClose func k s
  | .traceEnable func v => Sys2Proof.Machine.execTraceEnable func v s
  | .profClear core => Sys2Proof.Machine.execProfClear core s
  | .profFreeze core on => Sys2Proof.Machine.execProfFreeze core on s
  | .powerLimitWrite v => Sys2Proof.Machine.execPowerLimitWrite v s
  | .registerWrite func off size v => Sys2Proof.Machine.execRegisterWrite func off size v s
  | .hcCmdUnknown func code => Sys2Proof.Machine.execHcCmdUnknown func code s
  | .preempt func => Sys2Proof.Machine.execPreempt func s
  | .retry func => Sys2Proof.Machine.execRetry func s
  | .terminate func => Sys2Proof.Machine.execTerminate func s
  | .replay func => Sys2Proof.Machine.execReplay func s
  | .cancel func => Sys2Proof.Machine.execCancel func s
  | .invalidate func => Sys2Proof.Machine.execInvalidate func s
  | .invalidateComplete func => Sys2Proof.Machine.execInvalidateComplete func s
  | .peerSet func => Sys2Proof.Machine.execPeerSet func s
  | .collSetup func => Sys2Proof.Machine.execCollSetup func s
  | .attest func => Sys2Proof.Machine.execAttest func s
  | .functionReset func => Sys2Proof.Machine.execFunctionReset func s
  | .moduleLoad func => Sys2Proof.Machine.execModuleLoad func s
  | .moduleBind func => Sys2Proof.Machine.execModuleBind func s
  | .moduleUnload func => Sys2Proof.Machine.execModuleUnload func s
  | .moduleUnloadComplete func => Sys2Proof.Machine.execModuleUnloadComplete func s
  | .keyEnroll func => Sys2Proof.Machine.execKeyEnroll func s
  | .fwLoad func => Sys2Proof.Machine.execFwLoad func s
  | .hostReadCompletion id data => Sys2Proof.Machine.execHostReadCompletion id data s
  | .twRedContribution func k rank data mp mc => Sys2Proof.Machine.execTwRedContribution func k rank data mp mc s
  | .powerLimitRelease watts => Sys2Proof.Machine.execPowerLimitRelease watts s
  | .dieRepairReset die => Sys2Proof.Machine.execDieRepairReset die s
  | .spareDeviceCopy dev line => Sys2Proof.Machine.execSpareDeviceCopy dev line s

end Sys2Proof.Machine
end

