-- ==== Sys2Proof/Machine/Run.lean ====
section
/-!
DEFINITION. What a step does around `exec`: the issue of the next picked fragment, the turns of the schedule, and the
loading of a program from outside the machine.
-/

namespace Sys2Proof.Machine

/-- The turn of a picked fragment: its checks, its instruction, and what follows it. -/
noncomputable def State.issueTurn (s : State) (w : Who) : Host.Outcome State Fault Refusal :=
  match s.preIssue w with
  | .drop t => .next t
  | .go i t =>
    match exec i t with
    | .next u => .next (u.postIssue w)
    | r => r

/-- The next picked fragment issues; with none picked nothing changes. -/
noncomputable def State.issueHead (s : State) : Host.Outcome State Fault Refusal :=
  match s.issuing with
  | [] => .next s
  | w :: t => State.issueTurn { s with issuing := t } w

/-- What happens when the schedule names no turn: picked fragments issue, then units act, then a clk begins. -/
noncomputable def State.freeTurn (s : State) : Host.Outcome State Fault Refusal :=
  match s.issuing with
  | _ :: _ => s.issueHead
  | [] =>
    match s.autoNext with
    | some t => .next t
    | none => .next s.evIssueSelect

/-- A turn of the schedule. -/
noncomputable def State.turn (s : State) : Turn → Host.Outcome State Fault Refusal
  | .unit i => exec i s
  | .issue => s.issueHead
  | .root func aspace pa => .next (s.giveRoot func aspace pa)
  | .spill core => .next ((s.evSpillWrite core).getD s)

/-! ### A program loaded from outside (log 13) -/

/-- Where the loaded code lies: one module of one overlay, bound at address 0 and resident in slot 0 of core 0. -/
def loadedModule (ws : List Word) : Module :=
  { digest := List.replicate 32 0, state := 1, shared := false, len := 1, dirOff := 0, dirCount := 1, dir := [(0, 0)]
    bytes := ws.flatMap (fun w => toLE 4 w.toNat) }

/-- The record of the launch that runs it: one gang of 64 lanes with every register. -/
def loadedRecord : LaunchRec :=
  { entry := 0, groups := 1, shape := 0, gangs := 1, width := 64, lastLanes := 64, regs := 96, accRows := 0, stash4k := 0
    tapMask := 0, cluster := false, det := false, dict := 0, fmtBase := 0, tapBase := 0, reqBase := 0, reqCount := 0
    ticket := 0, saveBase := 0, faultBase := 0, tapEntry := 0, cowEntry := 0, ginit := List.replicate 16 0 }

def loadedEntry : ResEntry := { ResEntry.free with state := 2, func := Config.physFn, charged := [Config.physFn] }

/-- Words at address 0, and a fragment on core 0 that is the next to issue from there. -/
def State.loadWords (s : State) (ws : List Word) : State :=
  let s0 := s.setModl 0 (loadedModule ws)
  let s1 : State := { s0 with agenda := [], issuing := [{ gid := 0, gang := 0, frag := 0 }] }
  let s2 := s1.updFn Config.physFn (fun f => { f with bindings := f.bindings.set 0 { modIdx := 0, aspace := 0, va4k := 0 } })
  let s3 := s2.updCore 0 (fun k => { k.setRes 0 loadedEntry with istore := putWords k.istore 0 ws })
  let a := s3.addLaunch { newLaunch Config.physFn 0 0 none none loadedRecord [] [] with claimed := 1, allClaimed := true }
  let g := groupAt a.2 0 (newLaunch Config.physFn 0 0 none none loadedRecord [] []) false s.now
    { place := 0, slots := [0], stash := 0, acc := 0 } true
  let g1 : Group := { g with gangs := g.gangs.map (fun x =>
    { x with frags := [fragAt 0 (List.range 16) 0 (some 0) 0], nextFrag := 1 }) }
  { a.1 with groups := a.1.groups.set 0 g1 }

end Sys2Proof.Machine
end

