-- ==== Sys2Proof/Machine/Step.lean ====
section
/-!
DEFINITION. One step of the device, and a state in which a given instruction is the next to run.
-/

namespace Sys2Proof.Machine

/-- One step: the schedule's next turn, else what the device does by itself (log 13). -/
noncomputable def step (s : State) : Host.Outcome State Fault Refusal :=
  match s.agenda with
  | t :: rest => State.turn { s with agenda := rest } t
  | [] => s.freeTurn

/-- The state with an instruction where the next step fetches: its words at address 0, loaded as a program, and a
fragment that issues from there (log 13). -/
def State.withFetchWord (s : State) (nbits w : Nat) : State :=
  s.loadWords ((List.range 3).map (fun i => BitVec.ofNat 32 (w % 2 ^ nbits / 2 ^ (32 * i))))

end Sys2Proof.Machine
end

