-- ==== Sys2Proof/Safety.lean ====
section
/-!
DEFINITION. The terms of the claims: the invariant of memory, what an instruction of one fragment may change, and what
it changes when it retires.
-/

namespace Sys2Proof.Machine

/-- Memory is in its canonical form, so that equal memories are equal data. -/
def State.MemOk (s : State) : Prop := s.mem.wf = true

/-- No line is held EXCLUSIVE. -/
def State.NoOwner (s : State) : Prop := ∀ line, (s.recOf line).owner = none

/-- Nothing stands in the way of a unit's access: no line is held EXCLUSIVE, no request is out, no mode change under way. -/
def State.Quiet (s : State) : Prop := s.NoOwner ∧ s.reqs = [] ∧ ∀ e ∈ s.mx, e.2.busy = false

/-- From s to t nothing changes but the fragment of c and its gang's own registers: no other group, no other gang, no
other fragment, nothing of the group (its stash, its accumulators, its barriers, its special registers), nothing of the
device (memory, cores, queues, functions, clocks). c' is what the fragment then is. -/
structure Effect (s t : State) (c c' : Ctx) : Prop where
  device : { t with groups := s.groups } = s
  others : ∀ k, k ≠ c.who.gid → t.groups.find k = s.groups.find k
  here : t.ctxOf c.who = some c'
  launch : c'.lau = c.lau
  group : { c'.grp with gangs := c.grp.gangs } = c.grp
  gangs : ∀ k, k ≠ c.who.gang → c'.grp.gangs[k]? = c.grp.gangs[k]?
  frags : ∀ n, n ≠ c.frag.id → c'.gang.frag n = c.gang.frag n

/-- The fragment has retired an instruction and goes on at pc: it is eligible, %dix and %lclk of each of its quads have
gone on by 1 (R100, R206), those of other quads stand, and so does all else of every quad. -/
structure Retired (c c' : Ctx) (pc : Reg) : Prop where
  frag : c'.frag = { c.frag with ret := some c.frag.pc, code := none, grant := none, frozen := none, state := .eligible, pc := pc }
  quads : ∀ i : Fin 16, c'.gang.quads[i] =
    if i.val ∈ c.frag.quads then { c.gang.quads[i] with dix := c.gang.quads[i].dix + 1, lclk := c.gang.quads[i].lclk + 1 }
    else c.gang.quads[i]

/-- Of the gang's registers only lane registers, lane predicates, uniform registers, uniform predicates and the sticky
flags may differ (besides what `Retired` says). -/
def Gang.SameBut (g g' : Gang) : Prop :=
  { g' with v := g.v, p := g.p, g := g.g, q := g.q, fsticky := g.fsticky, quads := g.quads, frags := g.frags } = g

/-- The lane registers after: register d of the lanes in ls holds f, every other register stands. -/
def LanesAre (c c' : Ctx) (ls : List Nat) (d : Nat) (f : Nat → Word) : Prop :=
  ∀ r l, l < 64 → c'.gang.rdV r l = if r = d ∧ l ∈ ls then f l else c.gang.rdV r l

/-- The same for a 64-bit value in the pair d, d + 1. -/
def PairsAre (c c' : Ctx) (ls : List Nat) (d : Nat) (f : Nat → Reg) : Prop :=
  ∀ r l, l < 64 → c'.gang.rdV r l =
    if l ∈ ls ∧ r = d then (f l).setWidth 32
    else if l ∈ ls ∧ r = d + 1 then BitVec.ofNat 32 ((f l).toNat / 2 ^ 32)
    else c.gang.rdV r l

/-- The lane predicates after: predicate d of the lanes in ls is f, every other one stands; p7 reads true always. -/
def PredsAre (c c' : Ctx) (ls : List Nat) (d : Nat) (f : Nat → Bool) : Prop :=
  ∀ p l, p < 8 → l < 64 → c'.gang.pred p l = if p = d ∧ d ≠ 7 ∧ l ∈ ls then f l else c.gang.pred p l

/-- The uniform register d after holds x, every other one stands. -/
def UniformIs (c c' : Ctx) (d : Nat) (x : Reg) : Prop :=
  ∀ r, 96 ≤ r → r < 128 → c'.gang.rdG r = if r = d then x else c.gang.rdG r

/-- The uniform predicate d after is b, every other one stands; q7 reads true always. -/
def UPredIs (c c' : Ctx) (d : Nat) (b : Bool) : Prop :=
  ∀ q, q < 8 → c'.gang.qpred q = if q = d ∧ d ≠ 7 then b else c.gang.qpred q

/-- No lane register and no lane predicate changes. -/
def Gang.LanesSame (g g' : Gang) : Prop := g'.v = g.v ∧ g'.p = g.p

/-- No uniform register and no uniform predicate changes. -/
def Gang.UniformSame (g g' : Gang) : Prop := g'.g = g.g ∧ g'.q = g.q

/-- The sticky flags after: those before, and f's of every lane of ls that is no helper lane (R94, R175). -/
def FlagsAre (c c' : Ctx) (ls : List Nat) (f : Nat → BitVec 4) : Prop :=
  ∀ k, k < 4 → c'.gang.fsticky.getLsbD k =
    (c.gang.fsticky.getLsbD k || ls.any (fun l => !c.helper l && (f l).getLsbD k))

/-- The instruction completes, and all it does is this: it retires, `len` words on; register d of the lanes in ls holds f,
and their flags fl come into %fsticky. -/
def LaneResult (i : Instr) (s : State) (c : Ctx) (len : Nat) (ls : List Nat) (d : Nat) (f : Nat → Word)
    (fl : Nat → BitVec 4) : Prop :=
  ∃ t c', exec i s = .next t ∧ Effect s t c c' ∧ Retired c c' (c.nextPc len) ∧ LanesAre c c' ls d f ∧
    FlagsAre c c' ls fl ∧ c.gang.SameBut c'.gang ∧ c'.gang.p = c.gang.p ∧ c.gang.UniformSame c'.gang

/-- The same for a 64-bit result in the pair d, d + 1. -/
def PairResult (i : Instr) (s : State) (c : Ctx) (len : Nat) (ls : List Nat) (d : Nat) (f : Nat → Reg)
    (fl : Nat → BitVec 4) : Prop :=
  ∃ t c', exec i s = .next t ∧ Effect s t c c' ∧ Retired c c' (c.nextPc len) ∧ PairsAre c c' ls d f ∧
    FlagsAre c c' ls fl ∧ c.gang.SameBut c'.gang ∧ c'.gang.p = c.gang.p ∧ c.gang.UniformSame c'.gang

/-- The same for a lane predicate. -/
def PredResult (i : Instr) (s : State) (c : Ctx) (len : Nat) (ls : List Nat) (d : Nat) (f : Nat → Bool)
    (fl : Nat → BitVec 4) : Prop :=
  ∃ t c', exec i s = .next t ∧ Effect s t c c' ∧ Retired c c' (c.nextPc len) ∧ PredsAre c c' ls d f ∧
    FlagsAre c c' ls fl ∧ c.gang.SameBut c'.gang ∧ c'.gang.v = c.gang.v ∧ c.gang.UniformSame c'.gang

/-- The same for a uniform register: it holds x, and nothing else of the gang differs. -/
def UniformResult (i : Instr) (s : State) (c : Ctx) (len d : Nat) (x : Reg) : Prop :=
  ∃ t c', exec i s = .next t ∧ Effect s t c c' ∧ Retired c c' (c.nextPc len) ∧ UniformIs c c' d x ∧
    c.gang.SameBut c'.gang ∧ c.gang.LanesSame c'.gang ∧ c'.gang.q = c.gang.q ∧ c'.gang.fsticky = c.gang.fsticky

/-- The same for a uniform predicate. -/
def UPredResult (i : Instr) (s : State) (c : Ctx) (len d : Nat) (b : Bool) : Prop :=
  ∃ t c', exec i s = .next t ∧ Effect s t c c' ∧ Retired c c' (c.nextPc len) ∧ UPredIs c c' d b ∧
    c.gang.SameBut c'.gang ∧ c.gang.LanesSame c'.gang ∧ c'.gang.g = c.gang.g ∧ c'.gang.fsticky = c.gang.fsticky

/-- The instruction only retires. -/
def OnlyRetires (i : Instr) (s : State) (c : Ctx) (len : Nat) : Prop :=
  ∃ t c', exec i s = .next t ∧ Effect s t c c' ∧ Retired c c' (c.nextPc len) ∧
    c.gang.SameBut c'.gang ∧ c.gang.LanesSame c'.gang ∧ c.gang.UniformSame c'.gang ∧ c'.gang.fsticky = c.gang.fsticky

/-- Like `Effect`, of an instruction that also does something to the device, which is then dev but for the groups, or to
the fragment's group, which is then grp but for the gangs. -/
structure Change (s dev t : State) (c c' : Ctx) (grp : Group) : Prop where
  device : { t with groups := dev.groups } = dev
  others : ∀ k, k ≠ c.who.gid → t.groups.find k = s.groups.find k
  here : t.ctxOf c.who = some c'
  launch : c'.lau = c.lau
  group : { c'.grp with gangs := grp.gangs } = grp
  gangs : ∀ k, k ≠ c.who.gang → c'.grp.gangs[k]? = c.grp.gangs[k]?
  frags : ∀ n, n ≠ c.frag.id → c'.gang.frag n = c.gang.frag n

/-- The instruction retires, the device is then dev and the group grp, and of the gang's own registers none changes. -/
def ChangeResult (i : Instr) (s : State) (c : Ctx) (len : Nat) (dev : State) (grp : Group) : Prop :=
  ∃ t c', exec i s = .next t ∧ Change s dev t c c' grp ∧ Retired c c' (c.nextPc len) ∧
    c.gang.SameBut c'.gang ∧ c.gang.LanesSame c'.gang ∧ c.gang.UniformSame c'.gang ∧ c'.gang.fsticky = c.gang.fsticky

/-- The instruction retires and the fragment goes on at pc; nothing else changes. -/
def GoesTo (i : Instr) (s : State) (c : Ctx) (pc : Reg) : Prop :=
  ∃ t c', exec i s = .next t ∧ Effect s t c c' ∧ Retired c c' pc ∧
    c.gang.SameBut c'.gang ∧ c.gang.LanesSame c'.gang ∧ c.gang.UniformSame c'.gang ∧ c'.gang.fsticky = c.gang.fsticky

/-- A fragment but for its place in the split table. -/
def Frag.sansTable (f : Frag) : Frag := { f with entry := none, since := 0, spillNo := 0, busy := 0 }

/-- A gang but for its fragments' places in the split table. -/
def Gang.sansTable (g : Gang) : Gang := { g with frags := g.frags.map Frag.sansTable }

/-- The split table of a core has n free entries (R170). -/
def State.tableRoom (s : State) (core n : Nat) : Prop :=
  ((s.fragsOn core).filter (fun c => c.frag.entry.isSome)).length + n ≤ Config.splitEntries

/-- A group but for its gangs. -/
def Group.sansGangs (g : Group) : Group := { g with gangs := [] }

/-- A fragment's quads are some, each once, of the gang's sixteen. -/
def Frag.QuadsOk (f : Frag) : Prop := f.quads ≠ [] ∧ f.quads.Nodup ∧ ∀ q ∈ f.quads, q < 16

/-- Every fragment of every group is so, and every launch's gangs have lanes (R165, R170). -/
def State.FragsOk (s : State) : Prop :=
  (∀ k g, (k, g) ∈ s.groups → ∀ x ∈ g.gangs, ∀ f ∈ x.frags, f.QuadsOk) ∧
  ∀ l x, (l, x) ∈ s.launches → 0 < x.rcd.width ∧ 0 < x.rcd.lastLanes

/-- From s to t only the gang of c changes, which is then g: its quads, its fragments and their numbering; where the core's
split table is full, other fragments of the core may lose their places to the new ones, and their entries go out to the
spill area (R170, R172). -/
structure Scattered (s t : State) (c : Ctx) (g : Gang) : Prop where
  device : { t with groups := s.groups, cores := s.cores, nextId := s.nextId } = s
  room : s.tableRoom c.core 15 → t.cores = s.cores ∧ t.nextId = s.nextId
  cores : ∀ k, k ≠ c.core → t.cores.find k = s.cores.find k
  core : { t.core c.core with spilled := (s.core c.core).spilled } = s.core c.core
  groups : ∀ k, (t.groups.find k).map Group.sansGangs = (s.groups.find k).map Group.sansGangs
  others : ∀ k n, (k, n) ≠ (c.who.gid, c.who.gang) → (t.gangAt k n).map Gang.sansTable = (s.gangAt k n).map Gang.sansTable
  here : t.gangAt c.who.gid c.who.gang = some g
  gang : { g with quads := c.gang.quads, frags := c.gang.frags, nextFrag := c.gang.nextFrag } = c.gang

/-- Some fragment of the gang holds the quad, at pc, eligible. -/
def Gang.QuadGoes (g : Gang) (q : Nat) (pc : Reg) : Prop := ∃ f ∈ g.frags, q ∈ f.quads ∧ f.pc = pc ∧ f.state = .eligible

/-- The quad of a number, but for its counts. -/
def Gang.QuadIs (g : Gang) (q : Nat) (mask : BitVec 4) (stack : List MaskEntry) : Prop :=
  ∃ x, g.quads[q]? = some x ∧ x.mask = mask ∧ x.stack = stack

end Sys2Proof.Machine
end

