-- ==== Sys2Proof/Certificates/Slice0/Obligations.lean ====
section
/-!
DEFINITION. The statements for the provers, with the tables of results that they share.
-/

namespace Sys2Proof.Claims
open Sys2Proof.Machine

/-! ## Lanes -/

/-- The one-word 32-bit integer instructions whose result is a function of a, b and the old d (R264, R265). -/
def laneInt : Instr → Option (LR × (Word → Word → Word → Word))
  | .iadd o => some (o, fun a b _ => a + b)
  | .isub o => some (o, fun a b _ => a - b)
  | .imul o => some (o, fun a b _ => a * b)
  | .imulhI32 o => some (o, fun a b _ => BitVec.ofInt 32 (a.toInt * b.toInt / 2 ^ 32))
  | .imulhN32 o => some (o, fun a b _ => BitVec.ofNat 32 (a.toNat * b.toNat / 2 ^ 32))
  | .imac o => some (o, fun a b d => d + a * b)
  | .iminI32 o => some (o, fun a b _ => if b.toInt < a.toInt then b else a)
  | .iminN32 o => some (o, fun a b _ => if b.toNat < a.toNat then b else a)
  | .imaxI32 o => some (o, fun a b _ => if a.toInt < b.toInt then b else a)
  | .imaxN32 o => some (o, fun a b _ => if a.toNat < b.toNat then b else a)
  | .iabs o => some (o, fun a _ _ => if a.toInt < 0 then -a else a)
  | .ineg o => some (o, fun a _ _ => -a)
  | .and o => some (o, fun a b _ => a &&& b)
  | .or o => some (o, fun a b _ => a ||| b)
  | .xor o => some (o, fun a b _ => a ^^^ b)
  | .not o => some (o, fun a _ _ => ~~~a)
  | .shl o => some (o, fun a b _ => if 32 ≤ b.toNat then 0 else a <<< b.toNat)
  | .shr o => some (o, fun a b _ => if 32 ≤ b.toNat then 0 else a >>> b.toNat)
  | .sar o => some (o, fun a b _ =>
      if 32 ≤ b.toNat then (if a.toInt < 0 then BitVec.allOnes 32 else 0) else a.sshiftRight b.toNat)
  | .rot o => some (o, fun a b _ => a.rotateLeft (b.toNat % 32))
  | _ => none

/-- The clamped sums and differences: signed or not, and the exact result (R264). -/
def laneSat : Instr → Option (LR × Bool × (Int → Int → Int))
  | .iaddSatI32 o => some (o, true, fun a b => a + b)
  | .iaddSatN32 o => some (o, false, fun a b => a + b)
  | .isubSatI32 o => some (o, true, fun a b => a - b)
  | .isubSatN32 o => some (o, false, fun a b => a - b)
  | _ => none

/-- A 32-bit word read as its type says, and the bounds of the type. -/
def wordInt (signed : Bool) (x : Word) : Int := if signed then x.toInt else (x.toNat : Int)
def wordLo (signed : Bool) : Int := if signed then -2147483648 else 0
def wordHi (signed : Bool) : Int := if signed then 2147483647 else 4294967295

/-- The field positions of BFE and BFI (R266): start and length. -/
def fieldOf (b : Word) : Nat × Nat :=
  let p := min (b.toNat % 256) 32
  (p, min (b.toNat / 256 % 256) (32 - p))

/-- Bit k of the results of R266 and of BREV, from a, b and the old d. -/
def laneBit : Instr → Option (LR × (Word → Word → Word → Nat → Bool))
  | .bfeN32 o => some (o, fun a b _ k => decide (k < (fieldOf b).2) && a.getLsbD ((fieldOf b).1 + k))
  | .bfeI32 o => some (o, fun a b _ k =>
      decide (0 < (fieldOf b).2) && a.getLsbD ((fieldOf b).1 + min k ((fieldOf b).2 - 1)))
  | .bfi o => some (o, fun a b d k =>
      if (fieldOf b).1 ≤ k ∧ k < (fieldOf b).1 + (fieldOf b).2 then a.getLsbD (k - (fieldOf b).1) else d.getLsbD k)
  | .brev o => some (o, fun a _ _ k => a.getLsbD (31 - k))
  | _ => none

/-- The counts of R105: leading zeros, the lowest set bit counted from 1 (0 where there is none), set bits. -/
def laneCount : Instr → Option (LR × (Word → Nat))
  | .clz o => some (o, fun a => ((List.range 32).takeWhile (fun k => !a.getLsbD (31 - k))).length)
  | .ffs o => some (o, fun a => if a = 0 then 0 else ((List.range 32).takeWhile (fun k => !a.getLsbD k)).length + 1)
  | .popc o => some (o, fun a => ((List.range 32).filter (fun k => a.getLsbD k)).length)
  | _ => none

/-- A relation of R246 between integers. -/
def rel (code : Nat) (a b : Int) : Bool :=
  match code % 8 with
  | 0 => a == b
  | 1 => a != b
  | 2 => decide (a < b)
  | 3 => decide (a ≤ b)
  | 4 => decide (b < a)
  | 5 => decide (b ≤ a)
  | 6 => false
  | _ => true

/-- The float instructions of one word: the format of their elements and what an element becomes (R269 to R271, R276),
rounded to nearest even. -/
def laneFloat : Instr → Option (LR × NumFmt × (Nat → Nat → Nat → Nat × Flags))
  | .fadd o => some (o, fp32, fun a b _ => addNum fp32 Rnd.rne (decodeNum fp32 a) (decodeNum fp32 b))
  | .fsub o => some (o, fp32, fun a b _ => subNum fp32 Rnd.rne (decodeNum fp32 a) (decodeNum fp32 b))
  | .fmul o => some (o, fp32, fun a b _ => mulNum fp32 Rnd.rne (decodeNum fp32 a) (decodeNum fp32 b))
  | .fmac o => some (o, fp32, fun a b d => fmaNum fp32 Rnd.rne (decodeNum fp32 a) (decodeNum fp32 b) (decodeNum fp32 d))
  | .fmin o => some (o, fp32, fun a b _ => minmaxNum fp32 false false a b)
  | .fmax o => some (o, fp32, fun a b _ => minmaxNum fp32 true false a b)
  | .fminNum o => some (o, fp32, fun a b _ => minmaxNum fp32 false true a b)
  | .fmaxNum o => some (o, fp32, fun a b _ => minmaxNum fp32 true true a b)
  | .frcp o => some (o, fp32, fun a _ _ => unaryNum .rcp fp32 Rnd.rne a)
  | .frsq o => some (o, fp32, fun a _ _ => unaryNum .rsq fp32 Rnd.rne a)
  | .fsqrt o => some (o, fp32, fun a _ _ => unaryNum .sqrt fp32 Rnd.rne a)
  | .fexp2 o => some (o, fp32, fun a _ _ => unaryNum .exp2 fp32 Rnd.rne a)
  | .flog2 o => some (o, fp32, fun a _ _ => unaryNum .log2 fp32 Rnd.rne a)
  | .frnd o => some (o, fp32, fun a _ _ => unaryNum .rnd fp32 Rnd.rne a)
  | .fabs o => some (o, fp32, fun a _ _ => (a % 2 ^ 31, 0))
  | .fneg o => some (o, fp32, fun a _ _ => (if a < 2 ^ 31 then a + 2 ^ 31 else a - 2 ^ 31, 0))
  | .i2fI32 o => some (o, fp32, fun a _ _ => encodeNum fp32 Rnd.rne (Val.ofInt (ext true 32 a)))
  | .i2fN32 o => some (o, fp32, fun a _ _ => encodeNum fp32 Rnd.rne (Val.ofInt (ext false 32 a)))
  | .f2iI32 o => some (o, fp32, fun a _ _ => encodeNum i32 { mode := 1, sat := false, r := 0 } (decodeNum fp32 a))
  | .f2iN32 o => some (o, fp32, fun a _ _ => encodeNum n32 { mode := 1, sat := false, r := 0 } (decodeNum fp32 a))
  | .faddBf16 o => some (o, bf16, fun a b _ => addNum bf16 Rnd.rne (decodeNum bf16 a) (decodeNum bf16 b))
  | .fsubBf16 o => some (o, bf16, fun a b _ => subNum bf16 Rnd.rne (decodeNum bf16 a) (decodeNum bf16 b))
  | .fmulBf16 o => some (o, bf16, fun a b _ => mulNum bf16 Rnd.rne (decodeNum bf16 a) (decodeNum bf16 b))
  | .fmacBf16 o => some (o, bf16, fun a b d => fmaNum bf16 Rnd.rne (decodeNum bf16 a) (decodeNum bf16 b) (decodeNum bf16 d))
  | .fminBf16 o => some (o, bf16, fun a b _ => minmaxNum bf16 false false a b)
  | .fmaxBf16 o => some (o, bf16, fun a b _ => minmaxNum bf16 true false a b)
  | .fabsBf16 o => some (o, bf16, fun a _ _ => (a % 2 ^ 15, 0))
  | .fnegBf16 o => some (o, bf16, fun a _ _ => (if a < 2 ^ 15 then a + 2 ^ 15 else a - 2 ^ 15, 0))
  | .faddF16 o => some (o, fp16, fun a b _ => addNum fp16 Rnd.rne (decodeNum fp16 a) (decodeNum fp16 b))
  | .fsubF16 o => some (o, fp16, fun a b _ => subNum fp16 Rnd.rne (decodeNum fp16 a) (decodeNum fp16 b))
  | .fmulF16 o => some (o, fp16, fun a b _ => mulNum fp16 Rnd.rne (decodeNum fp16 a) (decodeNum fp16 b))
  | .fmacF16 o => some (o, fp16, fun a b d => fmaNum fp16 Rnd.rne (decodeNum fp16 a) (decodeNum fp16 b) (decodeNum fp16 d))
  | .fminF16 o => some (o, fp16, fun a b _ => minmaxNum fp16 false false a b)
  | .fmaxF16 o => some (o, fp16, fun a b _ => minmaxNum fp16 true false a b)
  | .fabsF16 o => some (o, fp16, fun a _ _ => (a % 2 ^ 15, 0))
  | .fnegF16 o => some (o, fp16, fun a _ _ => (if a < 2 ^ 15 then a + 2 ^ 15 else a - 2 ^ 15, 0))
  | _ => none

/-- The elements of a register of a format: one of 32 bits or two halves, element 0 lowest; their flags together. -/
def elements (f : NumFmt) (fn : Nat → Nat × Flags) : Word × Flags :=
  if f.width = 32 then (BitVec.ofNat 32 (fn 0).1, (fn 0).2)
  else (BitVec.ofNat 32 ((fn 0).1 % 2 ^ 16 + (fn 1).1 % 2 ^ 16 * 2 ^ 16), (fn 0).2 ||| (fn 1).2)

/-- A w-bit value read as its type says, and the bounds of the type (R262). -/
def typeInt {w : Nat} (signed : Bool) (x : BitVec w) : Int := if signed then x.toInt else (x.toNat : Int)
def typeLo (signed : Bool) (w : Nat) : Int := if signed then -(2 ^ (w - 1) : Int) else 0
def typeHi (signed : Bool) (w : Nat) : Int := if signed then (2 ^ (w - 1) : Int) - 1 else (2 ^ w : Int) - 1

/-- IMAD, ISUM3 and ICLAMP on one w-bit element: result and flags from a, b and c (R268). -/
def laneInt3 (w : Nat) (sg : Bool) : Instr → Option (LX × (BitVec w → BitVec w → BitVec w → BitVec w × Flags))
  | .imad o => some (o, fun a b c => (a * b + c, 0))
  | .isum3 o => some (o, fun a b c =>
      if o.x.sat = 0 then (a + b + c, 0)
      else
        let x := typeInt sg a + typeInt sg b + typeInt sg c
        (BitVec.ofInt w (max (typeLo sg w) (min (typeHi sg w) x)),
          Flags.when (x < typeLo sg w || typeHi sg w < x) Flags.saturated))
  | .iclamp o => some (o, fun a b c =>
      let m := if typeInt sg a < typeInt sg b then b else a
      (if typeInt sg c < typeInt sg m then c else m, 0))
  | _ => none

/-- Element k of width w of a word, read as its type says. -/
def elemInt (signed : Bool) (w : Nat) (x : Word) (k : Nat) : Int :=
  typeInt signed (BitVec.ofNat w (x.toNat / 2 ^ (w * k)))

end Sys2Proof.Claims

open Sys2Proof Sys2Proof.Machine Sys2Proof.Claims

/-- IADD, ISUB, IMUL, IMULH, IMAC, IMIN, IMAX, IABS, INEG, AND, OR, XOR, NOT and the shifts: register D of every active
lane takes the result that R264 and R265 give, of the lane's a, b and old d; nothing else changes. -/
def Sys2Proof.Claims.LaneIntegerResults : Prop :=
  ∀ (i : Instr) (o : LR) (f : Word → Word → Word → Word) (s : State) (c : Ctx),
    laneInt i = some (o, f) → s.ctx = some c →
    LaneResult i s c 1 (c.active o.g) o.d.toNat
      (fun l => f (c.gang.src32 o.a.toNat l) (c.gang.src32 o.b.toNat l) (c.gang.rdV o.d.toNat l)) (fun _ => 0)

/-- IADD.SAT and ISUB.SAT: the exact sum or difference clamped to the type's range; a clamp sets SATURATED. -/
def Sys2Proof.Claims.LaneSaturatingResults : Prop :=
  ∀ (i : Instr) (o : LR) (sg : Bool) (f : Int → Int → Int) (s : State) (c : Ctx),
    laneSat i = some (o, sg, f) → s.ctx = some c →
    LaneResult i s c 1 (c.active o.g) o.d.toNat
      (fun l => BitVec.ofInt 32 (max (wordLo sg) (min (wordHi sg)
        (f (wordInt sg (c.gang.src32 o.a.toNat l)) (wordInt sg (c.gang.src32 o.b.toNat l))))))
      (fun l =>
        let x := f (wordInt sg (c.gang.src32 o.a.toNat l)) (wordInt sg (c.gang.src32 o.b.toNat l))
        if x < wordLo sg ∨ wordHi sg < x then Flags.saturated else 0)

/-- BFE, BFI and BREV bit by bit, CLZ, FFS and POPC as counts. -/
def Sys2Proof.Claims.LaneBitResults : Prop :=
  (∀ (i : Instr) (o : LR) (f : Word → Word → Word → Nat → Bool) (s : State) (c : Ctx),
    laneBit i = some (o, f) → s.ctx = some c →
    ∃ r : Nat → Word, LaneResult i s c 1 (c.active o.g) o.d.toNat r (fun _ => 0) ∧
      ∀ l k, k < 32 → (r l).getLsbD k =
        f (c.gang.src32 o.a.toNat l) (c.gang.src32 o.b.toNat l) (c.gang.rdV o.d.toNat l) k) ∧
  (∀ (i : Instr) (o : LR) (f : Word → Nat) (s : State) (c : Ctx),
    laneCount i = some (o, f) → s.ctx = some c →
    LaneResult i s c 1 (c.active o.g) o.d.toNat (fun l => BitVec.ofNat 32 (f (c.gang.src32 o.a.toNat l))) (fun _ => 0))

/-- ICMP writes the comparison of its code into the lane predicate; FCMP its own, with INVALID for a signalling NaN;
PSET whether a is not 0; PLOP its truth table. -/
def Obligations.LanePredicateResults : Prop :=
  (∀ (o : LR) (s : State) (c : Ctx), s.ctx = some c →
    PredResult (.icmp o) s c 1 (c.active o.g) (o.d.toNat % 8)
      (fun l =>
        let sg := o.d.toNat / 64 == 0
        rel (o.d.toNat / 8) (wordInt sg (c.gang.src32 o.a.toNat l)) (wordInt sg (c.gang.src32 o.b.toNat l)))
      (fun _ => 0)) ∧
  (∀ (o : LR) (s : State) (c : Ctx), s.ctx = some c →
    PredResult (.fcmp o) s c 1 (c.active o.g) (o.d.toNat % 8)
      (fun l => (fcmpNum (o.d.toNat / 8) (c.gang.src32 o.a.toNat l).toNat (c.gang.src32 o.b.toNat l).toNat).1)
      (fun l => (fcmpNum (o.d.toNat / 8) (c.gang.src32 o.a.toNat l).toNat (c.gang.src32 o.b.toNat l).toNat).2)) ∧
  (∀ (o : LR) (s : State) (c : Ctx), s.ctx = some c →
    PredResult (.pset o) s c 1 (c.active o.g) o.d.toNat (fun l => decide (c.gang.src32 o.a.toNat l ≠ 0)) (fun _ => 0)) ∧
  (∀ (o : LX) (s : State) (c : Ctx), s.ctx = some c →
    PredResult (.plop o) s c 2 (c.active o.w.g) o.w.d.toNat
      (fun l => o.x.imm.getLsbD (4 * (c.gang.pred o.w.a.toNat l).toNat + 2 * (c.gang.pred o.w.b.toNat l).toNat
        + (c.gang.pred o.x.c.toNat l).toNat)) (fun _ => 0))

/-- The float instructions of one word: each element of D takes the rounded result, and the flags of the lanes that are
no helper lanes come into %fsticky. -/
def Sys2Proof.Claims.LaneFloatResults : Prop :=
  ∀ (i : Instr) (o : LR) (f : NumFmt) (fn : Nat → Nat → Nat → Nat × Flags) (s : State) (c : Ctx),
    laneFloat i = some (o, f, fn) → s.ctx = some c →
    let r : Nat → Word × Flags := fun l => elements f (fun k =>
      fn (elem f.width k (c.gang.src32 o.a.toNat l).toNat) (elem f.width k (c.gang.src32 o.b.toNat l).toNat)
        (elem f.width k (c.gang.rdV o.d.toNat l).toNat))
    LaneResult i s c 1 (c.active o.g) o.d.toNat (fun l => (r l).1) (fun l => (r l).2)

/-- IMAD, ISUM3 and ICLAMP on 32-bit elements (TYPE .N32, .I32) and 64-bit ones (.N64, .I64); ICLAMP on packed ones;
WINX; BITFN bit by bit; IDOT4 and SAD over packed elements; IMADW's 64-bit sum. -/
def Sys2Proof.Claims.LaneTernaryIntegerResults : Prop :=
  (∀ (i : Instr) (o : LX) (f : Word → Word → Word → Word × Flags) (s : State) (c : Ctx),
    laneInt3 32 (o.x.ty == 6) i = some (o, f) → o.x.ty = 2 ∨ o.x.ty = 6 → s.ctx = some c →
    let r : Nat → Word × Flags := fun l =>
      f (c.gang.src32 o.w.a.toNat l) (c.gang.src32 o.w.b.toNat l) (c.gang.src32 o.x.c.toNat l)
    LaneResult i s c 2 (c.active o.w.g) o.w.d.toNat (fun l => (r l).1) (fun l => (r l).2)) ∧
  (∀ (i : Instr) (o : LX) (f : Reg → Reg → Reg → Reg × Flags) (s : State) (c : Ctx),
    laneInt3 64 (o.x.ty == 7) i = some (o, f) → o.x.ty = 3 ∨ o.x.ty = 7 → s.ctx = some c →
    let r : Nat → Reg × Flags := fun l =>
      f (c.gang.src64 o.w.a.toNat l) (c.gang.src64 o.w.b.toNat l) (c.gang.src64 o.x.c.toNat l)
    PairResult i s c 2 (c.active o.w.g) o.w.d.toNat (fun l => (r l).1) (fun l => (r l).2)) ∧
  (∀ (o : LX) (w : Nat) (sg : Bool) (s : State) (c : Ctx),
    (o.x.ty = 0 ∧ w = 8 ∧ sg = false) ∨ (o.x.ty = 4 ∧ w = 8 ∧ sg = true) ∨
      (o.x.ty = 1 ∧ w = 16 ∧ sg = false) ∨ (o.x.ty = 5 ∧ w = 16 ∧ sg = true) → s.ctx = some c →
    ∃ r : Nat → Word, LaneResult (.iclamp o) s c 2 (c.active o.w.g) o.w.d.toNat r (fun _ => 0) ∧
      ∀ l k, k < 32 / w → elemInt sg w (r l) k =
        min (max (elemInt sg w (c.gang.src32 o.w.a.toNat l) k) (elemInt sg w (c.gang.src32 o.w.b.toNat l) k))
          (elemInt sg w (c.gang.src32 o.x.c.toNat l) k)) ∧
  (∀ (o : LX) (s : State) (c : Ctx), s.ctx = some c →
    LaneResult (.winxN32 o) s c 2 (c.active o.w.g) o.w.d.toNat
      (fun l => BitVec.ofNat 32 (((c.gang.src32 o.w.b.toNat l).toNat * 2 ^ 32 + (c.gang.src32 o.w.a.toNat l).toNat)
        / 2 ^ ((c.gang.src32 o.x.c.toNat l).toNat % 128))) (fun _ => 0)) ∧
  (∀ (o : LX) (s : State) (c : Ctx), s.ctx = some c →
    LaneResult (.winxI32 o) s c 2 (c.active o.w.g) o.w.d.toNat
      (fun l => BitVec.ofInt 32 (((c.gang.src32 o.w.b.toNat l).toInt * 2 ^ 32 + (c.gang.src32 o.w.a.toNat l).toNat)
        / 2 ^ ((c.gang.src32 o.x.c.toNat l).toNat % 128))) (fun _ => 0)) ∧
  (∀ (o : LX) (s : State) (c : Ctx), o.x.ty = 2 → s.ctx = some c →
    ∃ r : Nat → Word, LaneResult (.bitfn o) s c 2 (c.active o.w.g) o.w.d.toNat r (fun _ => 0) ∧
      ∀ l k, k < 32 → (r l).getLsbD k = o.x.imm.getLsbD (((c.gang.src32 o.w.a.toNat l).getLsbD k).toNat
        + 2 * ((c.gang.src32 o.w.b.toNat l).getLsbD k).toNat + 4 * ((c.gang.src32 o.x.c.toNat l).getLsbD k).toNat)) ∧
  (∀ (o : LX) (s : State) (c : Ctx), o.x.ty = 3 → s.ctx = some c →
    ∃ r : Nat → Reg, PairResult (.bitfn o) s c 2 (c.active o.w.g) o.w.d.toNat r (fun _ => 0) ∧
      ∀ l k, k < 64 → (r l).getLsbD k = o.x.imm.getLsbD (((c.gang.src64 o.w.a.toNat l).getLsbD k).toNat
        + 2 * ((c.gang.src64 o.w.b.toNat l).getLsbD k).toNat + 4 * ((c.gang.src64 o.x.c.toNat l).getLsbD k).toNat)) ∧
  (∀ (o : LX) (s : State) (c : Ctx), o.x.ty = 0 ∨ o.x.ty = 4 → s.ctx = some c →
    let sg := o.x.ty == 4
    let x : Nat → Int := fun l =>
      let a := c.gang.src32 o.w.a.toNat l
      let b := c.gang.src32 o.w.b.toNat l
      wordInt sg (c.gang.src32 o.x.c.toNat l) + elemInt sg 8 a 0 * elemInt sg 8 b 0 + elemInt sg 8 a 1 * elemInt sg 8 b 1
        + elemInt sg 8 a 2 * elemInt sg 8 b 2 + elemInt sg 8 a 3 * elemInt sg 8 b 3
    LaneResult (.idot4 o) s c 2 (c.active o.w.g) o.w.d.toNat
      (fun l => BitVec.ofInt 32 (if o.x.sat = 1 then max (wordLo sg) (min (wordHi sg) (x l)) else x l))
      (fun l => if o.x.sat = 1 ∧ (x l < wordLo sg ∨ wordHi sg < x l) then Flags.saturated else 0)) ∧
  (∀ (o : LX) (s : State) (c : Ctx), o.x.ty = 0 ∨ o.x.ty = 4 → s.ctx = some c →
    let sg := o.x.ty == 4
    let dif : Nat → Nat → Int := fun l k =>
      ((elemInt sg 8 (c.gang.src32 o.w.a.toNat l) k - elemInt sg 8 (c.gang.src32 o.w.b.toNat l) k).natAbs : Int)
    LaneResult (.sad o) s c 2 (c.active o.w.g) o.w.d.toNat
      (fun l => BitVec.ofInt 32 (((c.gang.src32 o.x.c.toNat l).toNat : Int) + dif l 0 + dif l 1 + dif l 2 + dif l 3))
      (fun _ => 0)) ∧
  (∀ (o : LX) (s : State) (c : Ctx), o.x.ty = 1 ∨ o.x.ty = 5 → s.ctx = some c →
    let sg := o.x.ty == 5
    let dif : Nat → Nat → Int := fun l k =>
      ((elemInt sg 16 (c.gang.src32 o.w.a.toNat l) k - elemInt sg 16 (c.gang.src32 o.w.b.toNat l) k).natAbs : Int)
    LaneResult (.sad o) s c 2 (c.active o.w.g) o.w.d.toNat
      (fun l => BitVec.ofInt 32 (((c.gang.src32 o.x.c.toNat l).toNat : Int) + dif l 0 + dif l 1)) (fun _ => 0)) ∧
  (∀ (o : LX) (s : State) (c : Ctx), o.x.ty = 2 ∨ o.x.ty = 6 → s.ctx = some c →
    let sg := o.x.ty == 6
    PairResult (.imadw o) s c 2 (c.active o.w.g) o.w.d.toNat
      (fun l => BitVec.ofInt 64 (wordInt sg (c.gang.src32 o.w.a.toNat l) * wordInt sg (c.gang.src32 o.w.b.toNat l))
        + c.gang.src64 o.x.c.toNat l) (fun _ => 0))

namespace Sys2Proof.Claims
open Sys2Proof.Machine

/-- The rounding that a two-word instruction asks for in lane l for element e, with a slot's seed or none (R247, R98). -/
def roundingOf (c : Ctx) (o : LX) (mode : Nat) (seed : Reg) (l e : Nat) : Rnd :=
  { mode := mode, sat := o.x.sat == 1, r := if mode = 2 then srBits seed (c.dixOf l) l e else 0 }

/-- The two-word float instructions and the conversions between plain formats: result and flags from the rounding and
a, b, c (R273, R274). -/
def laneFloat3 : Instr → Option (LX × (Rnd → Nat → Nat → Nat → Nat × Flags))
  | .ffma o => some (o, fun k a b c => fmaNum fp32 k (decodeNum fp32 a) (decodeNum fp32 b) (decodeNum fp32 c))
  | .fdot2 o => some (o, fun k a b c => fdot2Num (if o.x.ty = 9 then bf16 else fp16) k a b c)
  | .fclamp o => some (o, fun _ a b c =>
      let m := minmaxNum fp32 true false a b
      let r := minmaxNum fp32 false false m.1 c
      (r.1, m.2 ||| r.2))
  | .fscale o => some (o, fun k a b _ => scaleNum k a (sval 32 b))
  | .cvtF32Bf16 o => some (o, fun k a _ _ => encodeNum fp32 k (decodeNum bf16 (a % 2 ^ 16)))
  | .cvtBf16F32 o => some (o, fun k a _ _ => encodeNum bf16 k (decodeNum fp32 a))
  | .cvtF32F16 o => some (o, fun k a _ _ => encodeNum fp32 k (decodeNum fp16 (a % 2 ^ 16)))
  | .cvtF16F32 o => some (o, fun k a _ _ => encodeNum fp16 k (decodeNum fp32 a))
  | .cvtF32I32 o => some (o, fun k a _ _ => encodeNum fp32 k (decodeNum i32 a))
  | .cvtI32F32 o => some (o, fun k a _ _ => encodeNum i32 k (decodeNum fp32 a))
  | .cvtF32N32 o => some (o, fun k a _ _ => encodeNum fp32 k (decodeNum n32 a))
  | .cvtN32F32 o => some (o, fun k a _ _ => encodeNum n32 k (decodeNum fp32 a))
  | _ => none

/-- The conversions out of a format slot, with the target, and those into one, with the source (R274). -/
def fromSlot : Instr → Option (LX × NumFmt)
  | .cvtF32Fs o => some (o, fp32)
  | .cvtBf16Fs o => some (o, bf16)
  | .cvtF16Fs o => some (o, fp16)
  | .cvtI32Fs o => some (o, i32)
  | _ => none
def intoSlot : Instr → Option (LX × NumFmt)
  | .cvtFsF32 o => some (o, fp32)
  | .cvtFsBf16 o => some (o, bf16)
  | .cvtFsF16 o => some (o, fp16)
  | .cvtFsI32 o => some (o, i32)
  | _ => none

/-- What a lane of a slot conversion reads: the value, the block scale byte, and whether it counts as a NaN. -/
def slotRead (c : Ctx) (o : LX) (l : Nat) : Val :=
  (c.slot o.x.slot).read ((c.gang.src32 o.w.b.toNat l).toNat % 256)
    ((c.gang.src32 o.w.a.toNat l).toNat % 2 ^ (c.slot o.x.slot).bits)

/-- The slot may be named by the instruction: it is in order, and B is v0 unless the slot has block scales. -/
def slotUsable (c : Ctx) (o : LX) : Bool := (c.slot o.x.slot).ok && ((c.slot o.x.slot).block != 0 || o.w.b == 0)

/-- The source lane of QXCH and SHFL (R283, R284). -/
def exchange : Instr → Option (LX × (Ctx → Nat → Nat))
  | .qxchH o => some (o, fun _ l => l ^^^ 1)
  | .qxchV o => some (o, fun _ l => l ^^^ 2)
  | .qxchD o => some (o, fun _ l => l ^^^ 3)
  | .qxchBc o => some (o, fun _ l => 4 * (l / 4) + o.x.imm.toNat % 4)
  | .shflAt o => some (o, fun c l => c.shflFrom o.w.g l (c.gang.src32 o.w.b.toNat l).toNat)
  | .shflRot o => some (o, fun c l =>
      c.shflFrom o.w.g l (((l : Int) + (c.gang.src32 o.w.b.toNat l).toInt) % (c.width : Int)).toNat)
  | .shflSpan o => some (o, fun c l =>
      let n := (c.gang.src32 o.w.b.toNat l).toNat
      c.shflFrom o.w.g l (if pow2In 1 c.width n then l - l % n else l))
  | .shflFlip o => some (o, fun c l =>
      let n := (c.gang.src32 o.w.b.toNat l).toNat
      c.shflFrom o.w.g l (if pow2In 2 c.width n then l ^^^ (n - 1) else l))
  | _ => none

/-- The integer combining operations of VREDUCE and VSCAN on w-bit values, with their identities (R285). -/
def combineInt : Instr → Option (LX × Bool × (Nat → Bool → Nat) × (Nat → Bool → Nat → Nat → Nat))
  | .vreduceAdd o => some (o, true, fun _ _ => 0, fun w _ a b => (a + b) % 2 ^ w)
  | .vreduceMin o => some (o, true, fun w sg => if sg then 2 ^ (w - 1) - 1 else 2 ^ w - 1,
      fun w sg a b => if ext sg w b < ext sg w a then b else a)
  | .vreduceMax o => some (o, true, fun w sg => if sg then 2 ^ (w - 1) else 0,
      fun w sg a b => if ext sg w a < ext sg w b then b else a)
  | .vreduceAnd o => some (o, true, fun w _ => 2 ^ w - 1, fun _ _ a b => a &&& b)
  | .vreduceOr o => some (o, true, fun _ _ => 0, fun _ _ a b => a ||| b)
  | .vreduceXor o => some (o, true, fun _ _ => 0, fun _ _ a b => a ^^^ b)
  | .vscanAdd o => some (o, false, fun _ _ => 0, fun w _ a b => (a + b) % 2 ^ w)
  | .vscanMin o => some (o, false, fun w sg => if sg then 2 ^ (w - 1) - 1 else 2 ^ w - 1,
      fun w sg a b => if ext sg w b < ext sg w a then b else a)
  | .vscanMax o => some (o, false, fun w sg => if sg then 2 ^ (w - 1) else 0,
      fun w sg a b => if ext sg w a < ext sg w b then b else a)
  | .vscanAnd o => some (o, false, fun w _ => 2 ^ w - 1, fun _ _ a b => a &&& b)
  | .vscanOr o => some (o, false, fun _ _ => 0, fun _ _ a b => a ||| b)
  | .vscanXor o => some (o, false, fun _ _ => 0, fun _ _ a b => a ^^^ b)
  | _ => none

/-- The FP32 ones: reduction or scan, identity, operation with its flags (R285). -/
def combineFloat : Instr → Option (LX × Bool × Nat × (Nat → Nat → Nat × Flags))
  | .vreduceFadd o => some (o, true, 0x80000000, fadd32)
  | .vreduceFmin o => some (o, true, 0x7F800000, minmaxNum fp32 false false)
  | .vreduceFmax o => some (o, true, 0xFF800000, minmaxNum fp32 true false)
  | .vscanFadd o => some (o, false, 0x80000000, fadd32)
  | .vscanFmin o => some (o, false, 0x7F800000, minmaxNum fp32 false false)
  | .vscanFmax o => some (o, false, 0xFF800000, minmaxNum fp32 true false)
  | _ => none

/-- The contributing lanes (R282): active, within the gang, no helper lane; in rising order. -/
def contributors (c : Ctx) (o : LX) : List Nat :=
  (List.range c.width).filter (fun l => (c.active o.w.g).contains l && !c.helper l)

/-- The lanes a scan's value at lane l folds: those below l, and l itself unless .EXCL (IMM8 1) is given. -/
def upTo (o : LX) (l : Nat) (ls : List Nat) : List Nat := ls.filter (fun m => decide (m < l) || (m == l && o.x.imm != 1))

/-- A left fold of an operation with flags. -/
def foldFlags (op : Nat → Nat → Nat × Flags) (vals : List Nat) (e : Nat) : Nat × Flags :=
  vals.foldl (fun a x => let r := op a.1 x; (r.1, a.2 ||| r.2)) (e, 0)

end Sys2Proof.Claims

/-- FFMA, FDOT2, FCLAMP, FSCALE and the conversions between plain formats. -/
def Sys2Proof.Claims.LaneTernaryFloatResults : Prop :=
  ∀ (i : Instr) (o : LX) (f : Rnd → Nat → Nat → Nat → Nat × Flags) (s : State) (c : Ctx),
    laneFloat3 i = some (o, f) → s.ctx = some c →
    let r : Nat → Nat × Flags := fun l => f (roundingOf c o o.x.rnd.toNat 0 l 0) (c.gang.src32 o.w.a.toNat l).toNat
      (c.gang.src32 o.w.b.toNat l).toNat (c.gang.src32 o.x.c.toNat l).toNat
    LaneResult i s c 2 (c.active o.w.g) o.w.d.toNat (fun l => BitVec.ofNat 32 (r l).1) (fun l => (r l).2)

/-- A conversion out of or into a format slot: with a usable slot and, where its NAN policy is FAULT, no NaN among the
lanes that are no helper lanes, every active lane takes the converted value. -/
def Sys2Proof.Claims.SlotConversionResults : Prop :=
  (∀ (i : Instr) (o : LX) (t : NumFmt) (s : State) (c : Ctx),
    fromSlot i = some (o, t) → s.ctx = some c → slotUsable c o = true →
    ((c.slot o.x.slot).nan = 2 → ∀ l ∈ c.active o.w.g, c.helper l = false → (slotRead c o l).isNan = false) →
    let f := c.slot o.x.slot
    let r : Nat → Nat × Flags := fun l =>
      let p := f.policy (slotRead c o l)
      let k := roundingOf c o (if o.x.rnd = 3 then f.round else o.x.rnd.toNat) f.seed l 0
      let q := encodeNum t { k with sat := k.sat || f.sat } p.1
      (q.1, q.2 ||| p.2)
    ∃ v : Nat → Word × Flags, LaneResult i s c 2 (c.active o.w.g) o.w.d.toNat (fun l => (v l).1) (fun l => (v l).2) ∧
      ∀ l ∈ c.active o.w.g, v l = (BitVec.ofNat 32 (r l).1, (r l).2)) ∧
  (∀ (i : Instr) (o : LX) (src : NumFmt) (s : State) (c : Ctx),
    intoSlot i = some (o, src) → s.ctx = some c → slotUsable c o = true →
    let f := c.slot o.x.slot
    let x : Nat → Val := fun l => decodeNum src ((c.gang.src32 o.w.a.toNat l).toNat % 2 ^ src.width)
    let code : Nat → Nat := fun l => (c.gang.src32 o.w.b.toNat l).toNat % 256
    (f.nan = 2 → ∀ l ∈ c.active o.w.g, c.helper l = false → (x l).isNan = false ∧ ¬(f.scaleSrc = 2 ∧ code l = 255)) →
    let r : Nat → Nat × Flags := fun l =>
      f.write (roundingOf c o (if o.x.rnd = 3 then f.round else o.x.rnd.toNat) f.seed l 0) (code l) (x l)
    ∃ v : Nat → Word × Flags, LaneResult i s c 2 (c.active o.w.g) o.w.d.toNat (fun l => (v l).1) (fun l => (v l).2) ∧
      ∀ l ∈ c.active o.w.g, v l = (BitVec.ofNat 32 (r l).1, (r l).2))

/-- PACK and UNPACK, BPICK, QSPLIT without a slot and with one, SPC.48. -/
def Sys2Proof.Claims.PackingResults : Prop :=
  (∀ (o : LR) (s : State) (c : Ctx), s.ctx = some c →
    let h : NumFmt → Nat → Nat → Nat × Flags := fun f r l => encodeNum f Rnd.rne (decodeNum fp32 (c.gang.src32 r l).toNat)
    let r : NumFmt → Nat → Word × Flags := fun f l =>
      (BitVec.ofNat 32 ((h f o.a.toNat l).1 + (h f o.b.toNat l).1 * 2 ^ 16), (h f o.a.toNat l).2 ||| (h f o.b.toNat l).2)
    LaneResult (.packBf16 o) s c 1 (c.active o.g) o.d.toNat (fun l => (r bf16 l).1) (fun l => (r bf16 l).2) ∧
    LaneResult (.packF16 o) s c 1 (c.active o.g) o.d.toNat (fun l => (r fp16 l).1) (fun l => (r fp16 l).2)) ∧
  (∀ (o : LR) (s : State) (c : Ctx), s.ctx = some c →
    let h : NumFmt → Nat → Nat → Nat × Flags := fun f k l =>
      encodeNum fp32 Rnd.rne (decodeNum f ((c.gang.src32 o.a.toNat l).toNat / 2 ^ (16 * k) % 2 ^ 16))
    let r : NumFmt → Nat → Reg × Flags := fun f l =>
      (BitVec.ofNat 64 ((h f 0 l).1 + (h f 1 l).1 * 2 ^ 32), (h f 0 l).2 ||| (h f 1 l).2)
    PairResult (.unpackBf16 o) s c 1 (c.active o.g) o.d.toNat (fun l => (r bf16 l).1) (fun l => (r bf16 l).2) ∧
    PairResult (.unpackF16 o) s c 1 (c.active o.g) o.d.toNat (fun l => (r fp16 l).1) (fun l => (r fp16 l).2)) ∧
  (∀ (o : LR) (s : State) (c : Ctx), s.ctx = some c →
    ∃ v : Nat → Word, LaneResult (.bpick o) s c 1 (c.active o.g) o.d.toNat v (fun _ => 0) ∧
      ∀ l k, k < 4 → elem 8 k (v l).toNat =
        (let code := elem 4 k (c.gang.src32 o.b.toNat l).toNat
         let x := (c.gang.src64 o.a.toNat l).toNat
         if code < 8 then elem 8 code x
         else if code = 8 then 0 else if code = 9 then 0xFF
         else if code = 10 then elem 8 k (c.gang.rdV o.d.toNat l).toNat
         else if code = 11 then 0x80
         else if 128 ≤ elem 8 (code - 12) x then 0xFF else 0)) ∧
  (∀ (o : LX) (s : State) (c : Ctx), o.x.imm = 0 → s.ctx = some c →
    let t := if o.x.ty = 9 then bf16 else if o.x.ty = 10 then fp16 else fp32
    PairResult (.qsplit o) s c 2 (c.active o.w.g) o.w.d.toNat
      (fun l =>
        let h := splitHalves t ((c.gang.src32 o.w.a.toNat l).toNat % 2 ^ t.width)
        BitVec.ofNat 64 (h.1 + h.2 * 2 ^ 32))
      (fun l => splitFlags t ((c.gang.src32 o.w.a.toNat l).toNat % 2 ^ t.width))) ∧
  (∀ (o : LX) (s : State) (c : Ctx), o.x.imm ≠ 0 → s.ctx = some c →
    let t := if o.x.ty = 9 then bf16 else if o.x.ty = 10 then fp16 else fp32
    let f := c.slot o.x.slot
    let a : Nat → Nat := fun l => (c.gang.src32 o.w.a.toNat l).toNat % 2 ^ t.width
    f.ok = true → f.block = 0 →
    (f.nan = 2 → ∀ l ∈ c.active o.w.g, c.helper l = false → (decodeNum t (a l)).isNan = false) →
    let half : Nat → Nat → Nat → Nat × Flags := fun l e x =>
      f.write (roundingOf c o (if o.x.rnd = 3 then f.round else o.x.rnd.toNat) f.seed l e) 0 (decodeNum t x)
    let r : Nat → (Nat × Flags) × (Nat × Flags) := fun l =>
      (half l 0 (splitHalves t (a l)).1, half l 1 (splitHalves t (a l)).2)
    PairResult (.qsplit o) s c 2 (c.active o.w.g) o.w.d.toNat
      (fun l => BitVec.ofNat 64 ((r l).1.1 + (r l).2.1 * 2 ^ 32)) (fun l => (r l).1.2 ||| (r l).2.2 ||| splitFlags t (a l))) ∧
  (∀ (o : LR) (s : State) (c : Ctx), s.ctx = some c →
    let kept : Nat → List Nat := fun l => (List.range 8).filter (spcKeep (c.gang.src64 o.a.toNat l).toNat)
    PairResult (.spc48 o) s c 1 (c.active o.g) o.d.toNat
      (fun l => BitVec.ofNat 64 ((kept l).foldr (fun i r => elem 8 i (c.gang.src64 o.a.toNat l).toNat + 256 * r) 0
        + (kept l).foldr (fun i r => i + 8 * r) 0 * 2 ^ 32)) (fun _ => 0) ∧
    ∀ l, (kept l).length = 4)

/-- MOV, MOVI, MOVW, SEL, PGET, and LSEL, LWR and ELECT of the uniform pipe. -/
def Sys2Proof.Claims.MoveResults : Prop :=
  (∀ (o : LR) (s : State) (c : Ctx), s.ctx = some c →
    LaneResult (.mov o) s c 1 (c.active o.g) o.d.toNat (fun l => c.gang.src32 o.a.toNat l) (fun _ => 0) ∧
    LaneResult (.pget o) s c 1 (c.active o.g) o.d.toNat
      (fun l => BitVec.ofNat 32 (((List.range 8).map (fun p => if c.gang.pred p l then 2 ^ p else 0)).sum)) (fun _ => 0)) ∧
  (∀ (o : LI) (s : State) (c : Ctx), s.ctx = some c →
    LaneResult (.movi o) s c 1 (c.active 7) o.d.toNat (fun _ => o.imm.signExtend 32) (fun _ => 0)) ∧
  (∀ (o : LXI) (s : State) (c : Ctx), s.ctx = some c →
    LaneResult (.movw o) s c 2 (c.active o.w.g) o.w.d.toNat (fun _ => o.xi) (fun _ => 0)) ∧
  (∀ (o : LX) (s : State) (c : Ctx), s.ctx = some c →
    let from_ : Nat → Nat := fun l => if c.gang.pred o.x.c.toNat l then o.w.a.toNat else o.w.b.toNat
    (w64 o.x.ty = false →
      LaneResult (.sel o) s c 2 (c.active o.w.g) o.w.d.toNat (fun l => c.gang.src32 (from_ l) l) (fun _ => 0)) ∧
    (w64 o.x.ty = true →
      PairResult (.sel o) s c 2 (c.active o.w.g) o.w.d.toNat (fun l => c.gang.src64 (from_ l) l) (fun _ => 0))) ∧
  (∀ (o : LR) (s : State) (c : Ctx), 96 ≤ o.d.toNat → c.gang.qpred o.g.toNat = true → s.ctx = some c →
    let i := (c.gang.rdG o.b.toNat).toNat
    UniformResult (.lsel o) s c 1 o.d.toNat
      (if i < c.width ∧ i ∈ c.lanes then (c.gang.rdV o.a.toNat i).setWidth 64 else 0)) ∧
  (∀ (o : LR) (s : State) (c : Ctx), c.gang.qpred o.g.toNat = true → s.ctx = some c →
    let i := (c.gang.rdG o.b.toNat).toNat
    LaneResult (.lwr o) s c 1 ((c.active 7).filter (fun l => l == i)) o.d.toNat
      (fun _ => (c.gang.rdG o.a.toNat).setWidth 32) (fun _ => 0)) ∧
  (∀ (o : LR) (s : State) (c : Ctx), 96 ≤ o.a.toNat → c.gang.qpred o.g.toNat = true → s.ctx = some c →
    let e := (c.contrib 7).head?
    ∃ t c', exec (.elect o) s = .next t ∧ Effect s t c c' ∧ Retired c c' (c.nextPc 1) ∧
      PredsAre c c' (c.active 7) o.d.toNat (fun l => e == some l) ∧
      UniformIs c c' o.a.toNat (match e with | some l => BitVec.ofNat 64 l | none => BitVec.allOnes 64) ∧
      c.gang.SameBut c'.gang ∧ c'.gang.v = c.gang.v ∧ c'.gang.q = c.gang.q ∧ c'.gang.fsticky = c.gang.fsticky)

/-- QXCH and SHFL: each active lane takes A of its source lane. -/
def Sys2Proof.Claims.ExchangeResults : Prop :=
  ∀ (i : Instr) (o : LX) (src : Ctx → Nat → Nat) (s : State) (c : Ctx),
    exchange i = some (o, src) → s.ctx = some c →
    (w64 o.x.ty = false →
      LaneResult i s c 2 (c.active o.w.g) o.w.d.toNat (fun l => c.gang.src32 o.w.a.toNat (src c l)) (fun _ => 0)) ∧
    (w64 o.x.ty = true →
      PairResult i s c 2 (c.active o.w.g) o.w.d.toNat (fun l => c.gang.src64 o.w.a.toNat (src c l)) (fun _ => 0))

/-- VREDUCE and VSCAN: a reduction gives every active lane the combination of all contributors; a scan gives lane l that
of the contributors up to l, or before l under .EXCL. The integer operations in any order give this; the FP32 reductions
combine in the tree over the lane positions, and the FP32 scans in ascending order. -/
def Sys2Proof.Claims.ReductionResults : Prop :=
  (∀ (i : Instr) (o : LX) (red : Bool) (e : Nat → Bool → Nat) (op : Nat → Bool → Nat → Nat → Nat) (s : State) (c : Ctx),
    combineInt i = some (o, red, e, op) → c.width ≤ 64 → s.ctx = some c →
    let sg := tySigned o.x.ty.toNat
    let v : Nat → Nat → Nat := fun w l =>
      ((if red then contributors c o else upTo o l (contributors c o)).map (fun m => c.srcW (w == 64) o.w.a.toNat m)).foldl
        (op w sg) (e w sg)
    (w64 o.x.ty = false →
      ∃ r : Nat → Word, LaneResult i s c 2 (c.active o.w.g) o.w.d.toNat r (fun _ => 0) ∧
        ∀ l ∈ c.active o.w.g, l < c.width → (r l).toNat = v 32 l) ∧
    (w64 o.x.ty = true →
      ∃ r : Nat → Reg, PairResult i s c 2 (c.active o.w.g) o.w.d.toNat r (fun _ => 0) ∧
        ∀ l ∈ c.active o.w.g, l < c.width → (r l).toNat = v 64 l)) ∧
  (∀ (i : Instr) (o : LX) (e : Nat) (op : Nat → Nat → Nat × Flags) (s : State) (c : Ctx),
    combineFloat i = some (o, true, e, op) → w64 o.x.ty = false → s.ctx = some c →
    let r := combTree op 6 ((List.range c.width).map (fun l =>
      if l ∈ contributors c o then (c.gang.src32 o.w.a.toNat l).toNat else e))
    ∃ t c', exec i s = .next t ∧ Effect s t c c' ∧ Retired c c' (c.nextPc 2) ∧
      LanesAre c c' (c.active o.w.g) o.w.d.toNat (fun _ => BitVec.ofNat 32 r.1) ∧
      c'.gang.fsticky = c.gang.fsticky ||| r.2 ∧ c.gang.SameBut c'.gang ∧ c'.gang.p = c.gang.p ∧ c.gang.UniformSame c'.gang) ∧
  (∀ (i : Instr) (o : LX) (e : Nat) (op : Nat → Nat → Nat × Flags) (s : State) (c : Ctx),
    combineFloat i = some (o, false, e, op) → w64 o.x.ty = false → s.ctx = some c →
    let val : List Nat → Nat × Flags := fun ls => foldFlags op (ls.map (fun m => (c.gang.src32 o.w.a.toNat m).toNat)) e
    ∃ t c', exec i s = .next t ∧ Effect s t c c' ∧ Retired c c' (c.nextPc 2) ∧
      (∀ r l, l < c.width → l < 64 → c'.gang.rdV r l =
        if r = o.w.d.toNat ∧ l ∈ c.active o.w.g then BitVec.ofNat 32 (val (upTo o l (contributors c o))).1
        else c.gang.rdV r l) ∧
      c'.gang.fsticky = c.gang.fsticky ||| (val (contributors c o)).2 ∧
      c.gang.SameBut c'.gang ∧ c'.gang.p = c.gang.p ∧ c.gang.UniformSame c'.gang)

/-- VOTE, BALLOT, EQMASK, VCOMP and VEXPAND over the contributors. -/
def Sys2Proof.Claims.VoteAndCompactResults : Prop :=
  (∀ (o : LX) (s : State) (c : Ctx), s.ctx = some c →
    let n := (c.contrib o.w.g).length
    let t := ((c.contrib o.w.g).filter (fun l => c.gang.pred o.w.a.toNat l)).length
    PredResult (.voteSome o) s c 2 (c.active o.w.g) o.w.d.toNat
      (fun _ => decide (0 < n ∧ max 1 o.x.imm.toNat ≤ t)) (fun _ => 0) ∧
    PredResult (.voteEvery o) s c 2 (c.active o.w.g) o.w.d.toNat (fun _ => decide (t = n)) (fun _ => 0) ∧
    PredResult (.voteSame o) s c 2 (c.active o.w.g) o.w.d.toNat (fun _ => decide (t = 0 ∨ t = n)) (fun _ => 0)) ∧
  (∀ (o : LR) (s : State) (c : Ctx), s.ctx = some c →
    (∃ r : Reg, PairResult (.ballot o) s c 1 (c.active o.g) o.d.toNat (fun _ => r) (fun _ => 0) ∧
      ∀ k, k < 64 → r.getLsbD k = decide (k ∈ c.contrib o.g ∧ c.gang.pred o.a.toNat k = true)) ∧
    (∃ r : Nat → Reg, PairResult (.eqmask o) s c 1 (c.active o.g) o.d.toNat r (fun _ => 0) ∧
      ∀ l k, k < 64 → (r l).getLsbD k =
        decide (k ∈ c.contrib o.g ∧ c.gang.src32 o.a.toNat k = c.gang.src32 o.a.toNat l)) ∧
    (let rs := c.active o.g
     let sel := (c.contrib o.g).filter (fun l => c.gang.pred o.b.toNat l)
     PairResult (.vcomp o) s c 1 rs o.d.toNat
       (fun l =>
         let x : Nat := match sel[rankIn rs l]? with
           | some m => (c.gang.src32 o.a.toNat m).toNat
           | none => 0
         BitVec.ofNat 64 (x + sel.length * 2 ^ 32)) (fun _ => 0) ∧
     LaneResult (.vexpand o) s c 1 rs o.d.toNat
       (fun l => if l ∈ sel then
           (match rs[rankIn sel l]? with
            | some m => c.gang.src32 o.a.toNat m
            | none => 0)
         else 0) (fun _ => 0)))

/-- WIDE: the cell that SUB names, over 64-bit, packed 16- or 8-bit elements or with the rounding that XA names. -/
def Obligations.WideFormResults : Prop :=
  ∀ (o : LX) (s : State) (c : Ctx), s.ctx = some c →
    let cell := o.x.sub.toNat
    let ty := o.x.ty.toNat
    let el : Nat → Nat → El := fun l k =>
      { w := tyWidth ty, signed := tySigned ty, a := elem (tyWidth ty) k (c.gang.src32 o.w.a.toNat l).toNat
        b := elem (tyWidth ty) k (c.gang.src32 o.w.b.toNat l).toNat
        d := elem (tyWidth ty) k (c.gang.rdV o.w.d.toNat l).toNat, ball := (c.gang.src32 o.w.b.toNat l).toNat }
    (cell < 0x1F → tyWidth ty = 64 →
      let r : Nat → Nat × Flags := fun l => intCellOf cell
        { w := 64, signed := tySigned ty, a := (c.gang.src64 o.w.a.toNat l).toNat, b := (c.gang.src64 o.w.b.toNat l).toNat
          d := (c.gang.src64 o.w.d.toNat l).toNat, ball := (c.gang.src64 o.w.b.toNat l).toNat }
      PairResult (.wide o) s c 2 (c.active o.w.g) o.w.d.toNat (fun l => BitVec.ofNat 64 (r l).1) (fun l => (r l).2)) ∧
    (cell < 0x1F → tyWidth ty < 64 →
      let r : Nat → Nat × Flags := fun l => packEls (tyWidth ty) (fun k => intCellOf cell (el l k)) (32 / tyWidth ty)
      LaneResult (.wide o) s c 2 (c.active o.w.g) o.w.d.toNat (fun l => BitVec.ofNat 32 (r l).1) (fun l => (r l).2)) ∧
    (cell = 0x1F →
      let sg := o.w.d.toNat / 64 == 0
      PredResult (.wide o) s c 2 (c.active o.w.g) (o.w.d.toNat % 8)
        (fun l => rel (o.w.d.toNat / 8) (typeInt sg (c.gang.src64 o.w.a.toNat l)) (typeInt sg (c.gang.src64 o.w.b.toNat l)))
        (fun _ => 0)) ∧
    (cell = 0x46 ∨ cell = 0x47 →
      let f := if cell = 0x46 then bf16 else fp16
      let h : Nat → Nat → Nat → Nat × Flags := fun r e l =>
        encodeNum f (roundingOf c o o.x.rnd.toNat 0 l e) (decodeNum fp32 (c.gang.src32 r l).toNat)
      LaneResult (.wide o) s c 2 (c.active o.w.g) o.w.d.toNat
        (fun l => BitVec.ofNat 32 ((h o.w.a.toNat 0 l).1 + (h o.w.b.toNat 1 l).1 * 2 ^ 16))
        (fun l => (h o.w.a.toNat 0 l).2 ||| (h o.w.b.toNat 1 l).2)) ∧
    (0x20 ≤ cell → cell ≠ 0x46 → cell ≠ 0x47 →
      let f := if o.x.ty = 9 then bf16 else if o.x.ty = 10 then fp16 else fp32
      let r : Nat → Word × Flags := fun l => elements f (fun k =>
        fltCellOf cell f (roundingOf c o o.x.rnd.toNat 0 l k) (elem f.width k (c.gang.src32 o.w.a.toNat l).toNat)
          (elem f.width k (c.gang.src32 o.w.b.toNat l).toNat) (elem f.width k (c.gang.rdV o.w.d.toNat l).toNat))
      LaneResult (.wide o) s c 2 (c.active o.w.g) o.w.d.toNat (fun l => (r l).1) (fun l => (r l).2))


namespace Sys2Proof.Claims
open Sys2Proof.Machine

/-! ## The uniform pipe -/

/-- The U-R instructions whose result is a function of a, b and the old d (R343, R344). -/
def uniInt : Instr → Option (LR × (Reg → Reg → Reg → Reg))
  | .uadd o => some (o, fun a b _ => a + b)
  | .usub o => some (o, fun a b _ => a - b)
  | .umul o => some (o, fun a b _ => a * b)
  | .umulhI64 o => some (o, fun a b _ => BitVec.ofInt 64 (a.toInt * b.toInt / 2 ^ 64))
  | .umulhN64 o => some (o, fun a b _ => BitVec.ofNat 64 (a.toNat * b.toNat / 2 ^ 64))
  | .umac o => some (o, fun a b d => d + a * b)
  | .uminI64 o => some (o, fun a b _ => if a.toInt ≤ b.toInt then a else b)
  | .uminN64 o => some (o, fun a b _ => if a.toNat ≤ b.toNat then a else b)
  | .umaxI64 o => some (o, fun a b _ => if b.toInt ≤ a.toInt then a else b)
  | .umaxN64 o => some (o, fun a b _ => if b.toNat ≤ a.toNat then a else b)
  | .uand o => some (o, fun a b _ => a &&& b)
  | .uor o => some (o, fun a b _ => a ||| b)
  | .uxor o => some (o, fun a b _ => a ^^^ b)
  | .unot o => some (o, fun a _ _ => ~~~a)
  | .ushl o => some (o, fun a b _ => if b.toNat < 64 then BitVec.ofNat 64 (a.toNat * 2 ^ b.toNat) else 0)
  | .ushr o => some (o, fun a b _ => if b.toNat < 64 then BitVec.ofNat 64 (a.toNat / 2 ^ b.toNat) else 0)
  | .usar o => some (o, fun a b _ =>
      if b.toNat < 64 then BitVec.ofInt 64 (a.toInt / 2 ^ b.toNat) else if a.toInt < 0 then BitVec.allOnes 64 else 0)
  | .uext o => some (o, fun a _ _ =>
      let cut := 64 - 8 * 2 ^ (o.b.toNat % 4)
      if o.b.getLsbD 2 then (a <<< cut).sshiftRight cut else (a <<< cut) >>> cut)
  | .uclz o => some (o, fun a _ _ => BitVec.ofNat 64 ((List.range 64).takeWhile (fun k => !a.getLsbD (63 - k))).length)
  | .uffs o => some (o, fun a _ _ => if a = 0 then 0 else
      BitVec.ofNat 64 (((List.range 64).takeWhile (fun k => !a.getLsbD k)).length + 1))
  | .upopc o => some (o, fun a _ _ => BitVec.ofNat 64 ((List.range 64).filter (fun k => a.getLsbD k)).length)
  | .umov o => some (o, fun a _ _ => a)
  | .udivN64 o => some (o, fun a b _ => if b = 0 then BitVec.allOnes 64 else BitVec.ofNat 64 (a.toNat / b.toNat))
  | .uremN64 o => some (o, fun a b _ => if b = 0 then a else BitVec.ofNat 64 (a.toNat % b.toNat))
  | _ => none

/-- The guard and the length of the uniform-set instructions that carry a guard (R342). -/
def uniGuard : Instr → Option (BitVec 3 × Nat)
  | .uadd o | .usub o | .umul o | .umulhI64 o | .umulhN64 o | .umac o | .uminI64 o | .uminN64 o | .umaxI64 o
  | .umaxN64 o | .uand o | .uor o | .uxor o | .unot o | .ushl o | .ushr o | .usar o | .uext o | .uclz o | .uffs o
  | .upopc o | .ucmp o | .uplop o | .umov o | .udivN64 o | .uremN64 o => some (o.g, 1)
  | .ldN8Uniform o | .ldN16Uniform o | .ldN32Uniform o | .ldI32Uniform o | .ldN64Uniform o | .stN8Uniform o
  | .stN16Uniform o | .stN32Uniform o | .stN64Uniform o | .ldc o | .atomAddUniform o | .atomFaddUniform o
  | .atomMinUniform o | .atomMaxUniform o | .atomAndUniform o | .atomOrUniform o | .atomXorUniform o
  | .atomXchgUniform o | .atomCasUniform o | .waitcmp o => some (o.w.g, 2)
  | .fenceW o | .fenceL o | .fenceS o | .cinv o | .callo o | .bri o | .calli o | .ret o | .exit o | .hwait o | .evict o
  | .pin o | .unpin o | .hget o | .cbatch o | .cwait o | .barInit o | .barArrive o | .barWait o | .twait o | .tread o
  | .tapNext o | .tapRead o | .tret o | .elect o | .lsel o | .lwr o | .launchTrig o | .gridwait o | .nop o | .sleep o
  | .gqRead o | .gqResid o | .yield o | .bkpt o | .mark o | .time o | .swrite o => some (o.g, 1)
  | .hoist o | .hset o | .mmLoadb o | .mmPass o | .mmSpass o | .mmStore o | .mmZero o | .twLoad o | .twStore o
  | .twMcast o | .twGather o | .twRed o | .tapEnc o | .tapAdapt o | .tapResumeApply o | .tapResumeSkip o
  | .tapResumeRewritten o | .gqIns o | .gqPop o | .gqAdd o | .gqMax o | .gqDone o | .kvFork o | .kvApp o | .kvDrop o
  | .kvDropFrame o => some (o.w.g, 2)
  | .br o | .call o => some (o.g, 1)
  | .brl o | .calll o => some (o.g, 3)
  | _ => none

/-- The target of a short branch (R250, R346): DISP21 words from the word that holds the instruction. -/
def shortTo (c : Ctx) (o : UB) : Reg :=
  BitVec.ofInt 64 ((c.frag.pc.toNat - c.frag.pc.toNat % 4 : Nat) + 4 * o.disp.toInt)

/-- A link register's field: 0 stands for g31 (R348). -/
def linkField (f : BitVec 7) : Nat := if f = 0 then 127 else f.toNat

/-- The jumps: guard and target (R347, R348). -/
def jumpTo : Instr → Option (BitVec 3 × (Ctx → Reg))
  | .br o => some (o.g, fun c => shortTo c o)
  | .brl o => some (o.g, fun c => c.frag.pc + o.d64)
  | .bri o => some (o.g, fun c => c.gang.rdG o.a.toNat)
  | .ret o => some (o.g, fun c => c.gang.rdG (linkField o.a))
  | _ => none

/-- The calls: guard, length, link and target (R348). -/
def callTo : Instr → Option (BitVec 3 × Nat × Nat × (Ctx → Reg))
  | .call o => some (o.g, 1, 127, fun c => shortTo c o)
  | .calll o => some (o.g, 3, 127, fun c => c.frag.pc + o.d64)
  | .calli o => some (o.g, 1, linkField o.d, fun c => c.gang.rdG o.a.toNat)
  | _ => none

/-- The lanes of a quad's mask that branch. -/
def branching (c : Ctx) (p q : Nat) : BitVec 4 :=
  BitVec.ofNat 4 (((List.range 4).map (fun i =>
    if (c.gang.quad q).mask.getLsbD i && c.gang.pred p (4 * q + i) then 2 ^ i else 0)).sum)

/-- An entry that settling at X pops by the third row of R169's table. -/
def pops (x : Reg) (e : MaskEntry) : Bool := e.phase && (e.join == some x || e.join == none)

/-- The masks that such entries give back. -/
def given (es : List MaskEntry) : BitVec 4 := es.foldl (fun m e => m ||| e.doneMask) 0

/-- What a special register reads as (R356), in lane l or, with no lane, in the uniform pipe. -/
def special (s : State) (c : Ctx) (l : Option Nat) : SReg → Option Reg
  | .lane => l.map (fun l => BitVec.ofNat 64 l)
  | .quad => l.map (fun l => BitVec.ofNat 64 (l / 4))
  | .helper => l.map (fun l => if c.gang.lanes ≤ l then 1 else 0)
  | .gang => some (BitVec.ofNat 64 c.who.gang)
  | .group => some (if c.grp.handlerOf then 0xFFFFFFFF else BitVec.ofNat 64 c.grp.index)
  | .dix => match l with
    | some l => some (c.gang.quad (l / 4)).dix
    | none => some (c.gang.quad (c.frag.quads.head?.getD 0)).dix
  | .lclk => some (c.gang.quad (c.frag.quads.head?.getD 0)).lclk
  | .wct => some (BitVec.ofNat 64 c.gang.wct)
  | .fsticky => some (c.gang.fsticky.setWidth 64)
  | .hlc => some (BitVec.ofNat 64 ((s.die (dieOf (coreOf c.who.gid))).hlc.next s.now).full)
  | .smap i => some c.grp.smap[i]
  | .mcast => some c.grp.mcast
  | .tcbind i => some c.grp.tcbind[i]
  | .rready i => some (c.grp.rready.extractLsb' (64 * i.val) 64)
  | .rpend i => some (c.grp.rpend.extractLsb' (64 * i.val) 64)
  | .frec i => some (if c.frag.handler then c.gang.frec[i] else 0)
  | .m i => some c.gang.m[i]

end Sys2Proof.Claims

/-- The uniform integer instructions with a true guard: gD takes the result that R343 and R344 give; nothing else
changes. UMOVI, UADDI and UCAT carry no guard; USEL's guard field selects. -/
def Sys2Proof.Claims.UniformIntegerResults : Prop :=
  (∀ (i : Instr) (o : LR) (f : Reg → Reg → Reg → Reg) (s : State) (c : Ctx),
    uniInt i = some (o, f) → 96 ≤ o.d.toNat → c.gang.qpred o.g.toNat = true → s.ctx = some c →
    UniformResult i s c 1 o.d.toNat (f (c.gang.rdG o.a.toNat) (c.gang.rdG o.b.toNat) (c.gang.rdG o.d.toNat))) ∧
  (∀ (o : UI) (s : State) (c : Ctx), 96 ≤ o.d.toNat → s.ctx = some c →
    UniformResult (.umovi o) s c 1 o.d.toNat (BitVec.ofInt 64 o.imm.toInt) ∧
    UniformResult (.uaddi o) s c 1 o.d.toNat (c.gang.rdG o.d.toNat + BitVec.ofInt 64 o.imm.toInt) ∧
    UniformResult (.ucat o) s c 1 o.d.toNat
      (BitVec.ofNat 64 ((c.gang.rdG o.d.toNat).toNat * 2 ^ 16 + o.imm.toNat))) ∧
  (∀ (o : LR) (s : State) (c : Ctx), 96 ≤ o.d.toNat → s.ctx = some c →
    UniformResult (.usel o) s c 1 o.d.toNat
      (if c.gang.qpred o.g.toNat then c.gang.rdG o.a.toNat else c.gang.rdG o.b.toNat))

/-- UCMP writes the comparison of its code into the uniform predicate, UPLOP its truth table of two uniform predicates. -/
def Sys2Proof.Claims.UniformPredicateResults : Prop :=
  ∀ (o : LR) (s : State) (c : Ctx), c.gang.qpred o.g.toNat = true → s.ctx = some c →
    UPredResult (.ucmp o) s c 1 (o.d.toNat % 8)
      (let sg := o.d.toNat / 64 == 0
       rel (o.d.toNat / 8) (typeInt sg (c.gang.rdG o.a.toNat)) (typeInt sg (c.gang.rdG o.b.toNat))) ∧
    UPredResult (.uplop o) s c 1 (o.d.toNat % 8)
      (o.d.getLsbD (3 + 2 * (c.gang.qpred (o.a.toNat % 8)).toNat + (c.gang.qpred (o.b.toNat % 8)).toNat))

/-- A uniform-set instruction whose guard is false retires and does nothing else (R342). -/
def Obligations.FalseGuardOnlyRetires : Prop :=
  ∀ (i : Instr) (g : BitVec 3) (len : Nat) (s : State) (c : Ctx),
    uniGuard i = some (g, len) → c.gang.qpred g.toNat = false → c.src.qpred g.toNat = false → s.ctx = some c →
      OnlyRetires i s c len

/-- BR, BRL, BRI and RET with a true guard go to their targets; CALL, CALLL and CALLI also write the following address
into their link; CALLO does so and may touch the use of the residency entry that its token names. -/
def Obligations.JumpAndCallResults : Prop :=
  (∀ (i : Instr) (g : BitVec 3) (dest : Ctx → Reg) (s : State) (c : Ctx),
    jumpTo i = some (g, dest) → c.gang.qpred g.toNat = true → s.ctx = some c → GoesTo i s c (dest c)) ∧
  (∀ (i : Instr) (g : BitVec 3) (len link : Nat) (dest : Ctx → Reg) (s : State) (c : Ctx),
    callTo i = some (g, len, link, dest) → 96 ≤ link → c.gang.qpred g.toNat = true → s.ctx = some c →
    ∃ t c', exec i s = .next t ∧ Effect s t c c' ∧ Retired c c' (dest c) ∧ UniformIs c c' link (c.nextPc len) ∧
      c.gang.SameBut c'.gang ∧ c.gang.LanesSame c'.gang ∧ c'.gang.q = c.gang.q ∧ c'.gang.fsticky = c.gang.fsticky) ∧
  (∀ (o : LR) (s : State) (c : Ctx), 96 ≤ linkField o.d → c.gang.qpred o.g.toNat = true → s.ctx = some c →
    ∃ dev t c', exec (.callo o) s = .next t ∧ Change s dev t c c' c.grp ∧ { dev with cores := s.cores } = s ∧
      (∀ k, k ≠ c.core → dev.cores.find k = s.cores.find k) ∧ Retired c c' (c.gang.rdG o.b.toNat) ∧
      UniformIs c c' (linkField o.d) (c.nextPc 1) ∧
      c.gang.SameBut c'.gang ∧ c.gang.LanesSame c'.gang ∧ c'.gang.q = c.gang.q ∧ c'.gang.fsticky = c.gang.fsticky)

/-- BRA: each quad decides from its active lanes. Where they agree its mask stands; where they disagree it puts the
others aside with the fall-through address and branches with the rest (R167). -/
def Sys2Proof.Claims.LaneBranchResults : Prop :=
  ∀ (o : UB) (s : State) (c : Ctx), s.ctx = some c → c.frag.QuadsOk →
    (∀ q ∈ c.frag.quads, branching c o.g.toNat q ≠ 0 → branching c o.g.toNat q ≠ (c.gang.quad q).mask →
      (c.gang.quad q).stack.length < 32) →
    ∃ t g, exec (.bra o) s = .next t ∧ Scattered s t c g ∧ (∀ n, n ≠ c.frag.id → n < c.gang.nextFrag →
        (g.frag n).map Frag.sansTable = (c.gang.frag n).map Frag.sansTable) ∧
      ∀ q ∈ c.frag.quads,
        let x := c.gang.quad q
        let b := branching c o.g.toNat q
        (b = 0 → g.QuadGoes q (c.nextPc 1) ∧ g.QuadIs q x.mask x.stack) ∧
        (b ≠ 0 → b = x.mask → g.QuadGoes q (shortTo c o) ∧ g.QuadIs q x.mask x.stack) ∧
        (b ≠ 0 → b ≠ x.mask → g.QuadGoes q (shortTo c o) ∧
          g.QuadIs q b ({ resume := c.nextPc 1, join := none, phase := false, doneMask := 0, other := x.mask &&& ~~~b } :: x.stack))

/-- REGANG settles the top entry of each quad's mask stack by R169's table and goes on popping at the same address; a
quad that has arrived waits there, or goes on after it where the gang has fused (R173). -/
def Sys2Proof.Claims.RegangResults : Prop :=
  ∀ (o : LR) (s : State) (c : Ctx), s.ctx = some c → c.frag.QuadsOk →
    (∀ q ∈ c.frag.quads, ∀ e t, (c.gang.quad q).stack = e :: t → e.phase = true → pops c.frag.pc e = true) →
    ∃ t g, exec (.regang o) s = .next t ∧ Scattered s t c g ∧
      ∀ q ∈ c.frag.quads,
        let arrives := ∃ f ∈ g.frags, q ∈ f.quads ∧ ((f.pc = c.frag.pc ∧ f.state = .regangWait) ∨
          (f.pc = s.afterRegang c c.frag.pc ∧ f.state = .eligible))
        let m := (c.gang.quad q).mask
        ((c.gang.quad q).stack = [] → arrives ∧ g.QuadIs q m []) ∧
        (∀ e r, (c.gang.quad q).stack = e :: r →
          (e.phase = false → g.QuadGoes q e.resume ∧
            g.QuadIs q e.other ({ e with doneMask := m, join := some c.frag.pc, phase := true } :: r)) ∧
          (e.phase = true → arrives ∧
            g.QuadIs q (m ||| e.doneMask ||| given (r.takeWhile (pops c.frag.pc))) (r.dropWhile (pops c.frag.pc))))

/-- EXIT with a true guard ends the current lanes of every quad. A quad whose stack holds lanes put aside goes on with
them (R169); the fragment leaves when none does; with its last fragment the gang gives up its pins, and with its last gang
the group drains (R351). -/
def Sys2Proof.Claims.ExitResults : Prop :=
  (∀ (o : LR) (s : State) (c : Ctx), c.gang.qpred o.g.toNat = true → s.ctx = some c → c.frag.QuadsOk →
    (∃ q ∈ c.frag.quads, ∃ e r, (c.gang.quad q).stack.dropWhile (fun e => e.phase && e.join.isNone) = e :: r ∧ e.phase = false) →
    ∃ t g, exec (.exit o) s = .next t ∧ Scattered s t c g ∧
      ∀ q ∈ c.frag.quads,
        let st := (c.gang.quad q).stack.dropWhile (fun e => e.phase && e.join.isNone)
        (st = [] → g.QuadIs q 0 [] ∧ ∀ f ∈ g.frags, f.id = c.frag.id → q ∉ f.quads) ∧
        (∀ e r, st = e :: r → e.phase = false →
          g.QuadGoes q e.resume ∧ g.QuadIs q e.other ({ e with doneMask := 0, phase := true } :: r)) ∧
        (∀ e r x, st = e :: r → e.phase = true → e.join = some x →
          (∃ f ∈ g.frags, q ∈ f.quads ∧ f.pc = x ∧ f.state = .regangWait) ∧
          g.QuadIs q (e.doneMask ||| given (r.takeWhile (pops x))) (r.dropWhile (pops x)))) ∧
  (∀ (o : LR) (s : State) (c : Ctx), c.gang.qpred o.g.toNat = true → s.ctx = some c → c.frag.QuadsOk →
    (∀ q ∈ c.frag.quads, (c.gang.quad q).stack = []) →
    ((∃ f ∈ c.gang.frags, f.id ≠ c.frag.id ∧ f.state ≠ .regangWait) →
      ∃ t g, exec (.exit o) s = .next t ∧ Scattered s t c g ∧
        g.frags = c.gang.frags.filter (fun f => f.id != c.frag.id)) ∧
    ((∀ f ∈ c.gang.frags, f.id = c.frag.id) →
      ∃ t grp, exec (.exit o) s = .next t ∧ t.groups.find c.who.gid = some grp ∧
        ((grp.gangs[c.who.gang]?).map (fun g => (g.frags, g.pins))) = some ([], []) ∧
        ((∀ k g, k ≠ c.who.gang → c.grp.gangs[k]? = some g → g.frags = []) → grp.draining = true)))

/-- SREAD: a register of the uniform pipe, a lane register or a pair takes the special register's value; reading %hlc
takes the die's stamp. -/
def Sys2Proof.Claims.SpecialReadResults : Prop :=
  (∀ (o : LR) (r : SReg) (x : Reg) (s : State) (c : Ctx),
    sregOf o.a o.b = some r → r ≠ .hlc → c.gang.qpred o.g.toNat = true → s.ctx = some c → 96 ≤ o.d.toNat →
    special s c none r = some x → UniformResult (.sread o) s c 1 o.d.toNat x) ∧
  (∀ (o : LR) (r : SReg) (x : Nat → Reg) (s : State) (c : Ctx),
    sregOf o.a o.b = some r → r ≠ .hlc → c.gang.qpred o.g.toNat = true → s.ctx = some c → o.d.toNat < 96 →
    (∀ l ∈ c.active 7, special s c (some l) r = some (x l)) →
    (r.narrow = true → ∃ f, LaneResult (.sread o) s c 1 (c.active 7) o.d.toNat f (fun _ => 0) ∧
      ∀ l ∈ c.active 7, f l = (x l).setWidth 32) ∧
    (r.narrow = false → ∃ f, PairResult (.sread o) s c 1 (c.active 7) o.d.toNat f (fun _ => 0) ∧
      ∀ l ∈ c.active 7, f l = x l)) ∧
  (∀ (o : LR) (x : Reg) (s : State) (c : Ctx),
    sregOf o.a o.b = some .hlc → c.gang.qpred o.g.toNat = true → s.ctx = some c → 96 ≤ o.d.toNat →
    special s c none .hlc = some x →
    ∃ dev t c', exec (.sread o) s = .next t ∧ Change s dev t c c' c.grp ∧ { dev with dies := s.dies } = s ∧
      (dev.die (dieOf (coreOf c.who.gid))).hlc = (s.die (dieOf (coreOf c.who.gid))).hlc.next s.now ∧
      Retired c c' (c.nextPc 1) ∧ UniformIs c c' o.d.toNat x ∧ c.gang.SameBut c'.gang ∧ c.gang.LanesSame c'.gang) ∧
  (∀ (o : LR) (x : Reg) (s : State) (c : Ctx),
    sregOf o.a o.b = some .hlc → c.gang.qpred o.g.toNat = true → s.ctx = some c → o.d.toNat < 96 →
    special s c none .hlc = some x →
    ∃ dev t c', exec (.sread o) s = .next t ∧ Change s dev t c c' c.grp ∧ { dev with dies := s.dies } = s ∧
      Retired c c' (c.nextPc 1) ∧ PairsAre c c' (c.active 7) o.d.toNat (fun _ => x) ∧
      c.gang.SameBut c'.gang ∧ c'.gang.p = c.gang.p ∧ c.gang.UniformSame c'.gang)

/-- SWRITE of each register that a program may write: the register takes gD, %rpend loses the bits that gD sets, and
nothing else changes but the window that a %smap entry unmaps. -/
def Sys2Proof.Claims.SpecialWriteResults : Prop :=
  ∀ (o : LR) (s : State) (c : Ctx), c.gang.qpred o.g.toNat = true → s.ctx = some c →
    let v := c.gang.rdG o.d.toNat
    (sregOf o.a o.b = some .dix →
      ∃ t c', exec (.swrite o) s = .next t ∧ Effect s t c c' ∧ c'.frag.pc = c.nextPc 1 ∧ c'.frag.state = .eligible ∧
        { c'.gang with quads := c.gang.quads, frags := c.gang.frags } = c.gang ∧
        ∀ q x, q < 16 → c.gang.quads[q]? = some x → c'.gang.quads[q]? = some
          (if q ∈ c.frag.quads then { x with dix := v, lclk := x.lclk + 1 } else x)) ∧
    (sregOf o.a o.b = some .fsticky → v.toNat < 16 →
      ∃ t c', exec (.swrite o) s = .next t ∧ Effect s t c c' ∧ Retired c c' (c.nextPc 1) ∧
        c.gang.SameBut c'.gang ∧ c.gang.LanesSame c'.gang ∧ c.gang.UniformSame c'.gang ∧
        c'.gang.fsticky = v.setWidth 4) ∧
    (∀ i, sregOf o.a o.b = some (.smap i) → c.smapOk i v = true → smapLen c.grp.smap[i] = 0 →
      ChangeResult (.swrite o) s c 1 s { c.grp with smap := c.grp.smap.set i v }) ∧
    (∀ i, sregOf o.a o.b = some (.smap i) → c.smapOk i v = true →
      ∃ t, exec (.swrite o) s = .next t ∧ (t.groups.find c.who.gid).map Group.smap = some (c.grp.smap.set i v)) ∧
    (sregOf o.a o.b = some .mcast → v.toNat < 2 ^ 13 → ChangeResult (.swrite o) s c 1 s { c.grp with mcast := v }) ∧
    (∀ i, sregOf o.a o.b = some (.tcbind i) → s.tcbindOk c i v = true →
      ChangeResult (.swrite o) s c 1 s { c.grp with tcbind := c.grp.tcbind.set i v }) ∧
    (∀ i, sregOf o.a o.b = some (.rready i) →
      ∃ x, ChangeResult (.swrite o) s c 1 s { c.grp with rready := x } ∧
        ∀ k, k < 256 → x.getLsbD k = if k / 64 = i.val then v.getLsbD (k % 64) else c.grp.rready.getLsbD k) ∧
    (∀ i, sregOf o.a o.b = some (.rpend i) →
      ∃ x, ChangeResult (.swrite o) s c 1 s { c.grp with rpend := x } ∧
        ∀ k, k < 256 → x.getLsbD k = (c.grp.rpend.getLsbD k && !(k / 64 == i.val && v.getLsbD (k % 64)))) ∧
    (∀ i, sregOf o.a o.b = some (.m i) →
      ∃ t c', exec (.swrite o) s = .next t ∧ Effect s t c c' ∧ Retired c c' (c.nextPc 1) ∧
        { c'.gang with m := c.gang.m, quads := c.gang.quads, frags := c.gang.frags } = c.gang ∧
        c'.gang.m = c.gang.m.set i v)

/-- TRAP and BKPT stop the fragment at the following instruction with their reason; TRET leaves handler mode and resumes
at the checkpoint that %frec1 holds. -/
def Obligations.TrapAndReturnResults : Prop :=
  (∀ (o : UI) (s : State) (c : Ctx), s.ctx = some c →
    ∃ t c', exec (.trap o) s = .next t ∧ Effect s t c c' ∧ c'.frag.pc = c.nextPc 1 ∧
      c'.frag.state = .faulted { reason := .trap, addr := 0, lanes := 0, pc := c.frag.pc, tick := s.now,
                                 d0 := BitVec.ofNat 64 o.imm.toNat, d1 := 0, d2 := 0 } none ∧
      c.gang.SameBut c'.gang ∧ c.gang.LanesSame c'.gang ∧ c.gang.UniformSame c'.gang) ∧
  (∀ (o : LR) (s : State) (c : Ctx), c.gang.qpred o.g.toNat = true → s.ctx = some c →
    ∃ t c', exec (.bkpt o) s = .next t ∧ Effect s t c c' ∧ c'.frag.pc = c.nextPc 1 ∧
      c'.frag.state = .faulted { reason := .debug, addr := 0, lanes := 0, pc := c.frag.pc, tick := s.now, d0 := 0, d1 := 0, d2 := 0 } none ∧
      c.gang.SameBut c'.gang ∧ c.gang.LanesSame c'.gang ∧ c.gang.UniformSame c'.gang) ∧
  (∀ (o : LR) (s : State) (c : Ctx), c.gang.qpred o.g.toNat = true → c.frag.handler = true → s.ctx = some c →
    ∃ t c', exec (.tret o) s = .next t ∧ Effect s t c c' ∧ c'.frag.handler = false ∧ c'.frag.pc = c.gang.frec[1] ∧
      c'.frag.state = .eligible ∧ c.gang.SameBut c'.gang ∧ c.gang.LanesSame c'.gang ∧ c.gang.UniformSame c'.gang)

/-- NOP only retires; TIME reads the clock; SLEEP of 0 returns at once and any other sleeps at most 2^20 ticks; YIELD
retires and is not eligible for 16 clk; GRIDWAIT retires once its predecessor is complete and the gang's loads are in;
LAUNCH.TRIG, with no writes unsettled, records the gang's trigger, which counts for no group in a handler group; MARK retires with tracing off. -/
def Obligations.SystemResults : Prop :=
  ∀ (o : LR) (s : State) (c : Ctx), c.gang.qpred o.g.toNat = true → c.src.qpred o.g.toNat = true → s.ctx = some c →
    let settled := c.frag.grant = some .passed ∨ (s.unsettled c.who.gid c.who.gang = false ∧ c.gang.wct ≤ s.now)
    let kept : Option Frozen := some { g := c.src.g, q := c.src.q }
    OnlyRetires (.nop o) s c 1 ∧
    (96 ≤ o.d.toNat → UniformResult (.time o) s c 1 o.d.toNat (BitVec.ofNat 64 s.now)) ∧
    (c.gang.rdG o.a.toNat = 0 → OnlyRetires (.sleep o) s c 1) ∧
    (c.gang.rdG o.a.toNat ≠ 0 → c.frag.grant ≠ some .passed →
      ∃ t c', exec (.sleep o) s = .next t ∧ Effect s t c c' ∧ c'.frag =
        { c.frag with frozen := kept, code := none, state := .sleeping (.sleep (s.now + min (c.gang.rdG o.a.toNat).toNat (2 ^ 20))) } ∧
        { c'.gang with frags := c.gang.frags } = c.gang) ∧
    (∃ t c', exec (.yield o) s = .next t ∧ Effect s t c c' ∧ c'.frag.pc = c.nextPc 1 ∧
      c'.frag.state = .sleeping (.yield (s.clkOf c.core + 16)) ∧ c'.frag.waited = 0 ∧ c'.frag.promoted = none ∧
      c.gang.SameBut c'.gang ∧ c.gang.LanesSame c'.gang ∧ c.gang.UniformSame c'.gang) ∧
    (s.depComplete c.lau = true → s.loadsOut c.who.gid c.who.gang = false → c.otherMonitors = false →
      OnlyRetires (.gridwait o) s c 1) ∧
    (s.depComplete c.lau = false →
      ∃ t c', exec (.gridwait o) s = .next t ∧ Effect s t c c' ∧
        c'.frag = { c.frag with frozen := kept, code := none, state := .sleeping (.timeline none 0) } ∧
        { c'.gang with frags := c.gang.frags } = c.gang) ∧
    (c.grp.lines = [] → settled → c.gang.triggered = false → c.grp.handlerOf = true →
      ∃ t c', exec (.launchTrig o) s = .next t ∧ Effect s t c c' ∧ Retired c c' (c.nextPc 1) ∧ c'.gang.triggered = true) ∧
    (c.grp.lines = [] → settled → c.gang.triggered = false → c.grp.handlerOf = false →
      ∃ t c', exec (.launchTrig o) s = .next t ∧ { t with groups := s.groups, launches := s.launches } = s ∧
        (∀ k, k ≠ c.who.gid → t.groups.find k = s.groups.find k) ∧ t.ctxOf c.who = some c' ∧
        c'.gang.triggered = true ∧ Retired c c' (c.nextPc 1) ∧
        c'.lau = { c.lau with triggers := c.lau.triggers ++ [(c.grp.index, c.who.gang)] } ∧
        ∀ k, k ≠ c.grp.launch → t.launches.find k = s.launches.find k) ∧
    (c.grp.lines = [] → settled → c.gang.triggered = true → OnlyRetires (.launchTrig o) s c 1) ∧
    ((s.fn c.lau.func).trcEn = false → OnlyRetires (.mark o) s c 1) ∧
    ((s.fn c.lau.func).trcEn = true → (s.fn c.lau.func).trcKinds % 2 = 1 → c.gang.rdG o.a.toNat ≠ 0 →
      ∀ r, (s.fn c.lau.func).rings[dieOf c.core]? = some r →
        2 ≤ 2 ^ (s.fn c.lau.func).trcSize - (r.tail + 2 ^ 32 - r.head) % 2 ^ 32 →
        ∃ t c', exec (.mark o) s = .next t ∧ t.ctxOf c.who = some c' ∧ c'.frag.pc = c.nextPc 1 ∧
          ((t.fn c.lau.func).rings[dieOf c.core]?.map (fun r => (r.last, r.dropped))) =
            some (some ((s.die (dieOf c.core)).hlc.next s.now).full, 0))

namespace Sys2Proof.Claims
open Sys2Proof.Machine

/-! ## Memory instructions -/

/-- Lane loads: size in bytes and whether a short value is sign-extended (R294, R296). -/
def laneLd : Instr → Option (LM × Nat × Bool)
  | .ldN8Lane o => some (o, 1, false)
  | .ldI8Lane o => some (o, 1, true)
  | .ldN16Lane o => some (o, 2, false)
  | .ldI16Lane o => some (o, 2, true)
  | .ldN32Lane o => some (o, 4, false)
  | .ldN64Lane o => some (o, 8, false)
  | .ldN128Lane o => some (o, 16, false)
  | _ => none
def laneSt : Instr → Option (LM × Nat)
  | .stN8Lane o => some (o, 1)
  | .stN16Lane o => some (o, 2)
  | .stN32Lane o => some (o, 4)
  | .stN64Lane o => some (o, 8)
  | .stN128Lane o => some (o, 16)
  | _ => none
def uniLd : Instr → Option (LM × Nat × Bool)
  | .ldN8Uniform o => some (o, 1, false)
  | .ldN16Uniform o => some (o, 2, false)
  | .ldN32Uniform o => some (o, 4, false)
  | .ldI32Uniform o => some (o, 4, true)
  | .ldN64Uniform o => some (o, 8, false)
  | _ => none
def uniSt : Instr → Option (LM × Nat)
  | .stN8Uniform o => some (o, 1)
  | .stN16Uniform o => some (o, 2)
  | .stN32Uniform o => some (o, 4)
  | .stN64Uniform o => some (o, 8)
  | _ => none
def laneAtomOp : Instr → Option (LM × Nat)
  | .atomAddLane o => some (o, 0)
  | .atomFaddLane o => some (o, 1)
  | .atomMinLane o => some (o, 2)
  | .atomMaxLane o => some (o, 3)
  | .atomAndLane o => some (o, 4)
  | .atomOrLane o => some (o, 5)
  | .atomXorLane o => some (o, 6)
  | .atomXchgLane o => some (o, 7)
  | .atomCasLane o => some (o, 8)
  | _ => none
def uniAtomOp : Instr → Option (LM × Nat)
  | .atomAddUniform o => some (o, 0)
  | .atomFaddUniform o => some (o, 1)
  | .atomMinUniform o => some (o, 2)
  | .atomMaxUniform o => some (o, 3)
  | .atomAndUniform o => some (o, 4)
  | .atomOrUniform o => some (o, 5)
  | .atomXorUniform o => some (o, 6)
  | .atomXchgUniform o => some (o, 7)
  | .atomCasUniform o => some (o, 8)
  | _ => none

/-- A memory instruction: its operands, the bytes that each lane (or, uniformly, lane 64) accesses, and the kind. -/
structure MemForm where
  o : LM
  size : Nat
  acc : Access
  lane : Bool

def memForm (i : Instr) : Option MemForm :=
  match laneLd i, laneSt i, uniLd i, uniSt i, laneAtomOp i, uniAtomOp i with
  | some (o, n, _), _, _, _, _, _ => some { o := o, size := n, acc := .read, lane := true }
  | _, some (o, n), _, _, _, _ => some { o := o, size := n, acc := .write, lane := true }
  | _, _, some (o, n, _), _, _, _ => some { o := o, size := n, acc := .read, lane := false }
  | _, _, _, some (o, n), _, _ => some { o := o, size := n, acc := .write, lane := false }
  | _, _, _, _, some (o, _), _ => some { o := o, size := tyBytes o.x.ty.toNat, acc := .atomic, lane := true }
  | _, _, _, _, _, some (o, _) => some { o := o, size := tyBytes o.x.ty.toNat, acc := .atomic, lane := false }
  | _, _, _, _, _, _ => none

/-- The addresses of a memory instruction before the wrap (R290): lane l of the base form accesses gB + l × size, an
indexed one gB + index × scale; a uniform form gB, or gB + the signed immediate in mode 2. -/
def MemForm.va (m : MemForm) (c : Ctx) (l : Nat) : Reg :=
  let gB := c.gang.rdG m.o.w.a.toNat
  let a := m.o.x.addr
  if m.lane then
    if m.o.x.mode = 0 then BitVec.ofNat 64 (gB.toNat + l * m.size)
    else BitVec.ofInt 64 (gB.toInt + (c.index m.o.x m.o.w.b.toNat l).toInt * 2 ^ (a.toNat / 128 % 8))
  else if m.o.x.mode = 2 then BitVec.ofInt 64 (gB.toInt + a.toInt) else gB

/-- The lanes that access, under the guard; 64 stands for the one access of a uniform form. -/
def MemForm.lanes (m : MemForm) (c : Ctx) : List Nat := if m.lane then c.active m.o.w.g else [64]

/-- The instruction is to run: a true guard for a uniform form, no SKIP bit, fewer than 32 accesses out, for a store or an
atomic no older access of the gang that waits in a walk (R161), no wrap fault. -/
structure MemForm.Ready (m : MemForm) (s : State) (c : Ctx) (wf : Reg → Reg) : Prop where
  guard : m.lane = false → c.gang.qpred m.o.w.g.toNat = true
  skip : c.frag.skip.getLsbD 0 = false
  limit : s.memFull c = false
  older : m.acc ≠ .read → c.olderWaits = false
  wrap : c.wrapFn m.o.x (c.gang.rdG m.o.w.a.toNat) = some wf

/-- The lanes that a fault names: those that meet it, or every active lane for a uniform form (R216). -/
def MemForm.mask (m : MemForm) (c : Ctx) : List Nat → BitVec 64 := fun ls => if m.lane then laneMask ls else c.faultLanes 7

/-- What the checks before the accesses end in. -/
def MemForm.checks (m : MemForm) (s : State) (c : Ctx) (wf : Reg → Reg) : Prep :=
  s.prep c m.size m.acc (m.mask c) ((m.lanes c).map (fun l => (l, (wf (m.va c l)).toNat)))

/-- The base after mode 0 (R291): gB goes on by W × size, or size for a uniform form, wrapped. -/
def MemForm.based (m : MemForm) (c : Ctx) (wf : Reg → Reg) : Ctx :=
  let gB := c.gang.rdG m.o.w.a.toNat
  let next := wf (gB + BitVec.ofNat 64 ((if m.lane then c.width else 1) * m.size))
  if m.o.x.mode = 0 then { c with gang := c.gang.wrG m.o.w.a.toNat next } else c

/-- 32-bit word k of the loaded bytes, a short value extended (R296). -/
def loadedWord (size : Nat) (signed : Bool) (d : List Byte) (k : Nat) : Word :=
  let x := leNat d
  if size = 1 then (if signed then (BitVec.ofNat 8 x).signExtend 32 else BitVec.ofNat 32 x)
  else if size = 2 then (if signed then (BitVec.ofNat 16 x).signExtend 32 else BitVec.ofNat 32 x)
  else BitVec.ofNat 32 (x / 2 ^ (32 * k))

/-- A loaded value in a uniform register. -/
def loadedReg (size : Nat) (signed : Bool) (d : List Byte) : Reg :=
  if signed ∧ size = 4 then (BitVec.ofNat 32 (leNat d)).signExtend 64 else BitVec.ofNat 64 (leNat d)

/-- The request parts that a memory instruction sends. -/
def sentPart (s : State) (c : Ctx) (lane dst va pa off : Nat) (data : List Byte) : ReqPart :=
  { who := some c.who, pc := c.frag.pc, ins := s.nextIns, lane := lane, dst := dst, va := va, pa := pa, off := off, data := data
    opnd := 0, cmp := 0, pre := [] }

/-- A request that has just been sent stands on its way; one to host memory may have passed its home slice (R39). -/
def Away (r : Req) : Prop := r.stage = .flight ∨ (r.region = 4 ∧ r.stage = .sent)

/-- From s to t a memory instruction of the fragment of c has retired; of the device, only requests, their numbers, the
host's view of them and read buffers differ; the fragment stands at the next instruction. -/
structure MemDone (s t : State) (c c' : Ctx) : Prop where
  device : { t with groups := s.groups, reqs := s.reqs, nextId := s.nextId, nextIns := s.nextIns, out := s.out,
                    cores := s.cores } = s
  count : t.nextIns = s.nextIns + 1
  here : t.ctxOf c.who = some c'
  pc : c'.frag.pc = c.nextPc 2
  skip : c'.frag.skip = c.frag.skip >>> 1
  rest : ({ c'.gang with v := c.gang.v, g := c.gang.g, quads := c.gang.quads, frags := c.gang.frags } : Gang) = c.gang

/-- The dictionary of places that a unit of a load fills: `some d` where it is served at once with bytes d. -/
def unitsServed (s : State) (c : Ctx) (as : List Acc) (size : Nat) : List (Acc × Nat × Nat × Option (List Byte)) :=
  as.flatMap (fun a => (unitsOfSize size).map (fun u => (a, u.1, u.2, s.servedNow c a u.1 u.2)))

/-- The stash bytes after the lanes' stores, in ascending lane order. -/
def stashAfter (k : Nat) (c : Ctx) (reg size : Nat) (as : List Acc) (m : SMap Byte) : SMap Byte :=
  as.foldl (fun m a =>
    match a.route with
    | .stash k' off => if k' = k then Memory.write m off (c.gang.storeBytes a.lane reg size) else m
    | _ => m) m

/-- The operand of a lane's atomic: a register, or the low bits of a uniform one. -/
def atomVal (c : Ctx) (ty lane r : Nat) : Nat :=
  if lane = 64 then (c.gang.rdG r).toNat % 2 ^ tyWidth ty
  else if tyWidth ty = 64 then (c.gang.src64 r lane).toNat else (c.gang.src32 r lane).toNat

/-- Atomics on a partition, one lane after another: each lane's old value, and the bytes at the end (R301, R303). -/
def atomSeq (c : Ctx) (op ty creg : Nat) : List Acc → SMap Byte → List (Nat × Nat) × SMap Byte
  | [], m => ([], m)
  | a :: t, m =>
    match a.route with
    | .stash _ off =>
      let n := tyBytes ty
      let old := leNat (Memory.bytes m off n)
      let new := if op = 8 then atomNew op ty old (atomVal c ty a.lane (creg + if tyWidth ty = 64 then 2 else 1)) (atomVal c ty a.lane creg)
        else atomNew op ty old (atomVal c ty a.lane creg) 0
      let r := atomSeq c op ty creg t (Memory.write m off (toLE n new))
      ((a.lane, old) :: r.1, r.2)
    | _ => atomSeq c op ty creg t m

/-- A value in memory after the FP32 additions of some lanes to one address: their operands are added in order first, then
the sum to the value (R57, R302). -/
def floatAfter (c : Ctx) (creg old : Nat) (as : List Acc) : Nat :=
  match as.map (fun a => atomVal c 8 a.lane creg) with
  | [] => old
  | x :: t => (fadd32 old (t.foldl (fun s y => (fadd32 s y).1) x)).1

end Sys2Proof.Claims

/-- The checks of a memory instruction before its accesses (R31, R216, R288, R292): misaligned lanes fault together; a
fault that answers a walk or a parked access names the lanes of its page; an address that no cached translation covers is walked; an aperture address that names no partition faults with PA_UNBACKED;
and with every lane that is no helper lane aligned and routed, the accesses go on in the lanes' order. -/
def Sys2Proof.Claims.AccessChecks : Prop :=
  ∀ (s : State) (c : Ctx) (n : Nat) (acc : Access) (mask : List Nat → BitVec 64) (xs : List (Nat × Nat)),
    let own := xs.filter (fun x => !c.helper x.1)
    let mis := own.filter (fun x => x.2 % n != 0)
    (∀ x r, mis = x :: r → ∃ y ∈ own, s.prep c n acc mask xs =
        .bad .misaligned { addr := BitVec.ofNat 64 y.2, lanes := mask (mis.map Prod.fst) } ∧ y.1 ∈ mis.map Prod.fst) ∧
    (mis = [] → ∀ r g, c.frag.grant = some (.walkFault r g) → r ≠ .uncorrectable →
      ∃ a ls, s.prep c n acc mask xs = .bad r { addr := a, lanes := mask ls } ∧
        ∀ x ∈ own, x.2 / 65536 = g / 65536 → x.1 ∈ ls) ∧
    (mis = [] → (∀ r g, c.frag.grant ≠ some (.walkFault r g)) →
      ∀ x r, own = x :: r → inAperture x.2 = true → s.aperture c x.2 n = none →
      ∃ a ls, s.prep c n acc mask xs = .bad .paUnbacked { addr := a, lanes := mask ls } ∧ x.1 ∈ ls) ∧
    (mis = [] → ∀ x r, own = x :: r → inAperture x.2 = false → s.xl c.core c.lau.func c.lau.aspace x.2 acc = .miss →
      (∀ r g, c.frag.grant ≠ some (.walkFault r g)) →
      s.prep c n acc mask xs = .walk { who := c.who, func := c.lau.func, aspace := c.lau.aspace, va := x.2, kind := acc }) ∧
    (mis = [] → (∀ r g, c.frag.grant ≠ some (.walkFault r g)) → (∀ x ∈ own, ∃ r, s.route c x.2 n acc false = .ok r) →
      ∃ as, s.prep c n acc mask xs = .go as ∧ as.map (fun a => (a.lane, a.va)) = xs ∧
        ∀ a ∈ as, c.helper a.lane = false → s.route c a.va n acc true = .ok a.route)

/-- What the checks end in decides a memory instruction: a fault is taken, a walk is queued and the fragment waits, a SKIP
bit only updates the base and retires, and the fragment waits at the limit of 32, and with a store or an atomic while an
older access of its gang waits in a walk (R161, R224). -/
def Sys2Proof.Claims.AccessStops : Prop :=
  ∀ (i : Instr) (m : MemForm) (s : State) (c : Ctx) (wf : Reg → Reg), memForm i = some m → s.ctx = some c →
    (m.lane = false → c.gang.qpred m.o.w.g.toNat = true) →
    c.wrapFn m.o.x (c.gang.rdG m.o.w.a.toNat) = some wf →
    (c.frag.skip.getLsbD 0 = false → s.memFull c = true → exec i s = .next (s.put (c.stall .memLimit))) ∧
    (c.frag.skip.getLsbD 0 = false → s.memFull c = false → m.acc ≠ .read → c.olderWaits = true →
      exec i s = .next (s.put (c.stall .older))) ∧
    (c.frag.skip.getLsbD 0 = false → s.memFull c = false → (m.acc ≠ .read → c.olderWaits = false) → ∀ r d, m.checks s c wf = .bad r d →
      exec i s = .next (s.put (c.fault s.now r d))) ∧
    (c.frag.skip.getLsbD 0 = false → s.memFull c = false → (m.acc ≠ .read → c.olderWaits = false) → ∀ w, m.checks s c wf = .walk w →
      exec i s = .next (s.stallWalk c w)) ∧
    (c.frag.skip.getLsbD 0 = true → m.lane = true → exec i s = .next (s.put (((m.based c wf).enter s 0).retire 2)))

/-- Taking a fault: the fragment stops at the instruction with the fault's record, and nothing else changes (R216). -/
def Obligations.FaultTaking : Prop :=
  ∀ (s : State) (c : Ctx) (r : Reason) (d : Detail), s.ctx = some c →
    ∃ c', Effect s (s.put (c.fault s.now r d)) c c' ∧ { c'.gang with frags := c.gang.frags } = c.gang ∧
      c'.frag = { c.frag with
        state := .faulted { reason := r, addr := d.addr, lanes := d.lanes, pc := c.frag.pc, tick := s.now,
                            d0 := d.d0, d1 := d.d1, d2 := d.d2 } none
        code := none, grant := none, frozen := none }

/-- Lane loads whose accesses pass: each lane's registers take the bytes that are served at once (the partition, a leased
line); for every other unit a part of a load request goes to its home slice; the base is updated; nothing else changes. -/
def Sys2Proof.Claims.LaneLoadResults : Prop :=
  ∀ (i : Instr) (o : LM) (size : Nat) (sg : Bool) (m : MemForm) (s : State) (c : Ctx) (wf : Reg → Reg) (as : List Acc),
    laneLd i = some (o, size, sg) → memForm i = some m → s.ctx = some c → 96 ≤ o.w.a.toNat → m.Ready s c wf →
    m.checks s c wf = .go as →
    ∃ t c' new, exec i s = .next t ∧ MemDone s t c c' ∧ t.cores = s.cores ∧ c'.frag.state = .eligible ∧
      (∀ k, k ≠ c.who.gid → t.groups.find k = s.groups.find k) ∧ { c'.grp with gangs := c.grp.gangs } = c.grp ∧
      (∀ r, 96 ≤ r → r < 128 → c'.gang.rdG r = (m.based c wf).gang.rdG r) ∧
      (∀ u ∈ unitsServed s c as size, ∀ d, u.2.2.2 = some d → ∀ k, k < max 1 (u.2.2.1 / 4) →
        c'.gang.rdV (o.w.d.toNat + u.2.1 / 4 + k) u.1.lane = loadedWord u.2.2.1 sg d k) ∧
      (∀ r l, l < 64 → (∀ u ∈ unitsServed s c as size, u.2.2.2.isSome = true → u.1.lane = l →
          r < o.w.d.toNat + u.2.1 / 4 ∨ o.w.d.toNat + u.2.1 / 4 + max 1 (u.2.2.1 / 4) ≤ r) →
        c'.gang.rdV r l = c.gang.rdV r l) ∧
      t.reqs = s.reqs ++ new ∧
      (∀ r ∈ new, r.who = some c.who ∧ Away r ∧ r.func = c.lau.func ∧ r.aspace = c.lau.aspace) ∧
      (∀ p f, (∃ r ∈ new, p ∈ r.parts ∧ r.kind = .load size sg f) ↔
        ∃ u ∈ unitsServed s c as size, u.2.2.2 = none ∧ ∃ pa, u.1.missPa u.2.1 = some (pa, f) ∧
          p = sentPart s c u.1.lane o.w.d.toNat (u.1.va + u.2.1) pa u.2.1 (List.replicate u.2.2.1 0))

/-- What a load unit is served at once, by its route (R43, R44, R150, R151, R175): the bytes of the partition; those of a
window line while it is owned or leased; those visible at NOW() of a line that the read buffer holds under its lease; of
neither while the gang has a write to the line on its way or the lane a load of the bytes; zero for a helper lane that would
fault. -/
def Sys2Proof.Claims.LoadsServedAtOnce : Prop :=
  ∀ (s : State) (c : Ctx) (a : Acc) (off n : Nat), s.ctx = some c →
    let clear : Nat → Prop := fun pa => s.loadOut c.who.gid c.who.gang a.lane (pa + off) n = false ∧
      s.ownWrite c.who.gid c.who.gang (lineOf pa) = false
    (a.route = .zero → s.servedNow c a off n = some (List.replicate n 0)) ∧
    (∀ k o grp, a.route = .stash k o → s.groups.find k = some grp →
      ∃ d, s.servedNow c a off n = some d ∧ d.length = n ∧ ∀ j, j < n → d[j]? = some (SMap.get 0 grp.stash (o + off + j))) ∧
    (∀ o pa l, a.route = .window o pa → c.grp.lines.find (o / 64) = some l → (l.own = true ∨ s.now < l.lease) → clear pa →
      ∃ d, s.servedNow c a off n = some d ∧ d.length = n ∧ ∀ j, j < n → d[j]? = some (SMap.get 0 c.grp.stash (o + off + j))) ∧
    (∀ o pa l, a.route = .window o pa → c.grp.lines.find (o / 64) = some l → l.own = false → l.lease ≤ s.now →
      s.servedNow c a off n = none) ∧
    (∀ pa, a.route = .home pa → (∀ x ∈ (s.core c.core).rbuf, x.1 = rbufTag c.lau.func c.lau.aspace (lineOf pa) → x.2 ≤ s.now) →
      s.servedNow c a off n = none) ∧
    (∀ pa x, a.route = .home pa → x ∈ (s.core c.core).rbuf → x.1 = rbufTag c.lau.func c.lau.aspace (lineOf pa) → s.now < x.2 →
      clear pa → s.servedNow c a off n = some (s.bytesIn s.vis (pa + off) n)) ∧
    (∀ pa, (a.route = .home pa ∨ ∃ o, a.route = .window o pa) → ¬clear pa → s.servedNow c a off n = none)

/-- Stores whose accesses pass. Those that go to a partition write their registers' bytes there, in ascending lane order,
and nothing else of memory or of any stash; those that go to home slices send one part for each unit. -/
def Obligations.StoreResults : Prop :=
  ∀ (i : Instr) (o : LM) (size : Nat) (m : MemForm) (s : State) (c : Ctx) (wf : Reg → Reg) (as : List Acc),
    laneSt i = some (o, size) ∨ uniSt i = some (o, size) → memForm i = some m → s.ctx = some c → 96 ≤ o.w.a.toNat →
    m.Ready s c wf → m.checks s c wf = .go as →
    (∃ t c', exec i s = .next t ∧ MemDone s t c c' ∧ t.mem = s.mem) ∧
    ((∀ a ∈ as, ∃ k off, a.route = .stash k off) →
      ∃ t c', exec i s = .next t ∧ MemDone s t c c' ∧ t.reqs = s.reqs ∧ t.cores = s.cores ∧ c'.frag.state = .eligible ∧
        (∀ r, 96 ≤ r → r < 128 → c'.gang.rdG r = (m.based c wf).gang.rdG r) ∧ c'.gang.v = c.gang.v ∧
        ∀ k, (t.groups.find k).map Group.stash = (s.groups.find k).map (fun g => stashAfter k c o.x.c.toNat size as g.stash)) ∧
    ((∀ a ∈ as, ∃ pa, a.route = .home pa) →
      ∃ t c' new, exec i s = .next t ∧ MemDone s t c c' ∧ c'.frag.state = .eligible ∧
        (∀ k, k ≠ c.who.gid → t.groups.find k = s.groups.find k) ∧ { c'.grp with gangs := c.grp.gangs } = c.grp ∧
        (∀ r, 96 ≤ r → r < 128 → c'.gang.rdG r = (m.based c wf).gang.rdG r) ∧ c'.gang.v = c.gang.v ∧
        t.reqs = s.reqs ++ new ∧ (∀ r ∈ new, r.kind = .store ∧ r.who = some c.who ∧ Away r) ∧
        (∀ p, (∃ r ∈ new, p ∈ r.parts) ↔ ∃ a ∈ as, ∃ pa, a.route = .home pa ∧ ∃ u ∈ unitsOfSize size,
          p = sentPart s c a.lane 0 (a.va + u.1) (pa + u.1) u.1 (((c.gang.storeBytes a.lane o.x.c.toNat size).drop u.1).take u.2))) ∧
    ((∃ a ∈ as, ∃ off pa, a.route = .window off pa ∧ neverOwned pa = false ∧
        (∀ l, c.grp.lines.find (off / 64) = some l → l.own = false)) →
      (∀ a ∈ as, ∃ off pa, a.route = .window off pa ∧ neverOwned pa = false) →
      ∃ t c', exec i s = .next t ∧ MemDone s t c c' ∧ c'.frag.state = .stalled .ownership)

/-- A store drops its core's read-buffer copy of the line. -/
def Obligations.StoreDropsReadBufferCopy : Prop :=
  ∀ (i : Instr) (o : LM) (size : Nat) (m : MemForm) (s : State) (c : Ctx) (wf : Reg → Reg) (as : List Acc),
    laneSt i = some (o, size) ∨ uniSt i = some (o, size) → memForm i = some m → s.ctx = some c →
    m.Ready s c wf → m.checks s c wf = .go as →
    ∃ t, exec i s = .next t ∧ ∀ a ∈ as, ∀ pa, (a.route = .home pa ∨ ∃ off, a.route = .window off pa) → ∀ u ∈ unitsOfSize size,
      ∀ x ∈ (t.core c.core).rbuf, x.1 % 2 ^ 42 ≠ lineOf (pa + u.1)

/-- Uniform loads whose access passes: gD takes the bytes that are served at once, or one request goes to the home
slice; the base is updated unless it is the destination. -/
def Sys2Proof.Claims.UniformLoadResults : Prop :=
  ∀ (i : Instr) (o : LM) (size : Nat) (sg : Bool) (m : MemForm) (s : State) (c : Ctx) (wf : Reg → Reg) (a : Acc),
    uniLd i = some (o, size, sg) → memForm i = some m → s.ctx = some c → 96 ≤ o.w.a.toNat → 96 ≤ o.w.d.toNat →
    m.Ready s c wf → m.checks s c wf = .go [a] →
    let base : Ctx := if o.w.d = o.w.a then c else m.based c wf
    (∀ d, s.servedNow c a 0 size = some d →
      ∃ t c', exec i s = .next t ∧ MemDone s t c c' ∧ t.reqs = s.reqs ∧ t.cores = s.cores ∧ c'.frag.state = .eligible ∧
        c'.gang.v = c.gang.v ∧ { c'.grp with gangs := c.grp.gangs } = c.grp ∧
        ∀ r, 96 ≤ r → r < 128 → c'.gang.rdG r =
          if r = o.w.d.toNat then loadedReg size sg d else base.gang.rdG r) ∧
    (∀ pa f, s.servedNow c a 0 size = none → a.missPa 0 = some (pa, f) →
      ∃ t c' r, exec i s = .next t ∧ MemDone s t c c' ∧ t.reqs = s.reqs ++ [r] ∧ r.kind = .load size sg f ∧
        r.parts = [sentPart s c 64 o.w.d.toNat a.va pa 0 (List.replicate size 0)] ∧ Away r ∧ t.cores = s.cores ∧
        c'.frag.state = .eligible ∧ c'.gang.v = c.gang.v ∧ { c'.grp with gangs := c.grp.gangs } = c.grp ∧
        ∀ k, 96 ≤ k → k < 128 → c'.gang.rdG k = base.gang.rdG k)

/-- Atomics on the partition: the lanes operate one after another, each returning the value before it; ATOM.FADD adds the
operands of the lanes of one address in ascending order, and that sum to the value there (R57, R302, R303). With .REL the
group's windows must be clean, its writes settled and the settled %wct past; with .ACQ the fragment waits. An operation
on a home slice's line sends its parts there, before which it changes nothing. -/
def Obligations.AtomicResults : Prop :=
  ∀ (i : Instr) (o : LM) (op : Nat) (m : MemForm) (s : State) (c : Ctx) (wf : Reg → Reg) (as : List Acc),
    laneAtomOp i = some (o, op) ∨ uniAtomOp i = some (o, op) → memForm i = some m → s.ctx = some c → 96 ≤ o.w.a.toNat →
    m.Ready s c wf → m.checks s c wf = .go as →
    let ty := o.x.ty.toNat
    let rel := o.x.ord.getLsbD 1
    let acq := o.x.ord.getLsbD 0
    (rel = true → c.grp.lines = [] ∧ s.unsettled c.who.gid c.who.gang = false ∧ c.gang.wct ≤ s.now) →
    (ty = 2 ∨ ty = 3 ∨ ty = 6 ∨ ty = 7 ∨ ty = 8) →
    ((∀ a ∈ as, ∃ off, a.route = .stash c.who.gid off ∧ off % tyBytes ty = 0) → (op ≠ 1 ∨ as.length ≤ 1) → (m.lane = true → c.frag.QuadsOk) →
      let q := atomSeq c op ty o.x.c.toNat as c.grp.stash
      ∃ t c', exec i s = .next t ∧ MemDone s t c c' ∧ t.reqs = s.reqs ∧ t.cores = s.cores ∧
        (∀ k, k ≠ c.who.gid → t.groups.find k = s.groups.find k) ∧ (∀ x, SMap.get 0 c'.grp.stash x = SMap.get 0 q.2 x) ∧
        c'.frag.state = (if acq then .stalled .acquire else .eligible) ∧
        (∀ l old, (l, old) ∈ q.1 → l < 64 → ∀ k, k < max 1 (tyBytes ty / 4) →
          c'.gang.rdV (o.w.d.toNat + k) l = BitVec.ofNat 32 (old / 2 ^ (32 * k))) ∧
        (∀ old, (64, old) ∈ q.1 → 96 ≤ o.w.d.toNat → c'.gang.rdG o.w.d.toNat =
          if ty = 6 then (BitVec.ofNat 32 old).signExtend 64 else BitVec.ofNat 64 old) ∧
        (∀ r l, l < 64 → (l ∉ q.1.map Prod.fst ∨ r < o.w.d.toNat ∨ o.w.d.toNat + max 1 (tyBytes ty / 4) ≤ r) →
          c'.gang.rdV r l = c.gang.rdV r l)) ∧
    ((∀ a ∈ as, ∃ off, a.route = .stash c.who.gid off ∧ off % 4 = 0) → op = 1 → ty = 8 → (m.lane = true → c.frag.QuadsOk) →
      ∃ t c', exec i s = .next t ∧ MemDone s t c c' ∧ t.reqs = s.reqs ∧ t.cores = s.cores ∧
        (∀ k, k ≠ c.who.gid → t.groups.find k = s.groups.find k) ∧
        c'.frag.state = (if acq then .stalled .acquire else .eligible) ∧
        (∀ a ∈ as, ∀ off, a.route = .stash c.who.gid off →
          let old := leNat (Memory.bytes c.grp.stash off 4)
          let before := floatAfter c o.x.c.toNat old (as.filter (fun b => b.route == a.route && decide (b.lane < a.lane)))
          leNat (Memory.bytes c'.grp.stash off 4) = floatAfter c o.x.c.toNat old (as.filter (fun b => b.route == a.route)) ∧
          (a.lane < 64 → c'.gang.rdV o.w.d.toNat a.lane = BitVec.ofNat 32 before) ∧
          (a.lane = 64 → 96 ≤ o.w.d.toNat → c'.gang.rdG o.w.d.toNat = BitVec.ofNat 64 before)) ∧
        (∀ r l, l < 64 → (l ∉ as.map Acc.lane ∨ r ≠ o.w.d.toNat) → c'.gang.rdV r l = c.gang.rdV r l) ∧
        ∀ x, (∀ a ∈ as, ∀ off, a.route = .stash c.who.gid off → x < off ∨ off + 4 ≤ x) →
          SMap.get 0 c'.grp.stash x = SMap.get 0 c.grp.stash x) ∧
    ((∀ a ∈ as, ∃ pa, a.route = .home pa ∧ regionOf pa ≠ 4) →
      ∃ t c' new, exec i s = .next t ∧ MemDone s t c c' ∧ t.cores = s.cores ∧ t.reqs = s.reqs ++ new ∧
        c'.frag.state = (if acq then .stalled .acquire else .eligible) ∧ c'.gang.v = c.gang.v ∧
        { c'.grp with gangs := c.grp.gangs } = c.grp ∧
        (∀ r ∈ new, r.kind = .atomic op ty rel acq ∧ r.who = some c.who ∧ r.marker = (if rel then c.gang.wct else 0)) ∧
        (∀ a ∈ as, ∃ r ∈ new, ∃ p ∈ r.parts, p.lane = a.lane ∧ p.dst = o.w.d.toNat ∧ a.route = .home p.pa ∧
          p.opnd = BitVec.ofNat 64 (atomVal c ty a.lane (if op = 8 then o.x.c.toNat + (if tyWidth ty = 64 then 2 else 1) else o.x.c.toNat)) ∧
          (op = 8 → p.cmp = BitVec.ofNat 64 (atomVal c ty a.lane o.x.c.toNat))))

/-- PREF brings lines into L2, unless its SKIP bit is set, and updates the base; LDC takes the constant buffer's bytes once
no earlier LDC of the gang to them is out, or sends one request. -/
def Sys2Proof.Claims.PrefetchAndConstantResults : Prop :=
  (∀ (o : LM) (s : State) (c : Ctx) (wf : Reg → Reg), s.ctx = some c →
    (c.wrapFn o.x (c.gang.rdG o.w.a.toNat) = some wf →
      ∃ t c' dev, exec (.pref o) s = .next t ∧ Change s dev t c c' c.grp ∧ { dev with l2 := s.l2 } = s ∧
        (c.frag.skip.getLsbD 0 = true → dev = s) ∧
        Retired (c.enter s 0) c' (c.nextPc 2) ∧ c.gang.SameBut c'.gang ∧ c.gang.LanesSame c'.gang ∧
        (96 ≤ o.w.a.toNat → ∀ r, 96 ≤ r → r < 128 → c'.gang.rdG r =
          if r = o.w.a.toNat ∧ o.x.mode = 0 then wf (c.gang.rdG r + BitVec.ofNat 64 (c.width * 64)) else c.gang.rdG r)) ∧
    (c.wrapFn o.x (c.gang.rdG o.w.a.toNat) = none →
      ∃ t c', exec (.pref o) s = .next t ∧ Effect s t c c' ∧ Retired (c.enter s 0) c' (c.nextPc 2) ∧
        c.gang.SameBut c'.gang ∧ c.gang.LanesSame c'.gang ∧ c.gang.UniformSame c'.gang)) ∧
  (∀ (o : LM) (s : State) (c : Ctx) (wf : Reg → Reg) (pa : Nat) (va : Nat), s.ctx = some c → 96 ≤ o.w.d.toNat →
    let size := tyBytes o.x.ty.toNat
    let m : MemForm := { o := o, size := size, acc := .read, lane := false }
    m.Ready s c wf → m.checks s c wf = .go [{ lane := 64, va := va, route := .home pa }] →
    let out := s.ldcOut c.who.gid c.who.gang pa size
    (∀ d, out = false → (s.core c.core).constLine c.lau.func c.lau.aspace (lineOf pa) c.lau.start = some d →
      ∃ t c', exec (.ldc o) s = .next t ∧ MemDone s t c c' ∧ t.reqs = s.reqs ∧ c'.gang.v = c.gang.v ∧
        ∀ r, 96 ≤ r → r < 128 → c'.gang.rdG r = if r = o.w.d.toNat then
          (let b := (d.drop (pa % 64)).take size
           if tySigned o.x.ty.toNat then sext (8 * size) (leNat b) else BitVec.ofNat 64 (leNat b)) else c.gang.rdG r) ∧
    (out = true ∨ (s.core c.core).constLine c.lau.func c.lau.aspace (lineOf pa) c.lau.start = none →
      ∃ t c' r, exec (.ldc o) s = .next t ∧ MemDone s t c c' ∧ t.reqs = s.reqs ++ [r] ∧
        r.kind = .load size (tySigned o.x.ty.toNat) .const ∧ Away r ∧
        r.parts = [sentPart s c 64 o.w.d.toNat va pa 0 (List.replicate size 0)] ∧ c'.gang.v = c.gang.v ∧ c'.gang.g = c.gang.g))

/-- WAITCMP returns at once where the comparison holds, and otherwise arms a monitor and sleeps, or parks for 2048 ticks
where the slice's table is full; while a store of its gang to the line is on its way it waits for that; a wake returns its
outcome (R58 to R60, R150, R305). -/
def Sys2Proof.Claims.MonitorWaitResults : Prop :=
  (∀ (o : LM) (b : Bool) (s : State) (c : Ctx), s.ctx = some c → c.frag.grant = some (.pred b) →
    (b = true ∨ c.lau.rcd.det = false) →
    ∃ t c', exec (.waitcmp o) s = .next t ∧ Effect s t c c' ∧ Retired (c.enter s 0) c' (c.nextPc 2) ∧
      UPredIs c c' o.w.d.toNat b ∧ c.gang.SameBut c'.gang ∧ c.gang.LanesSame c'.gang ∧ c'.gang.g = c.gang.g) ∧
  (∀ (o : LM) (s : State) (c : Ctx) (wf : Reg → Reg) (pa va : Nat), s.ctx = some c → (∀ b, c.frag.grant ≠ some (.pred b)) →
    let ty := o.x.ty.toNat
    let m : MemForm := { o := o, size := tyBytes ty, acc := .read, lane := false }
    let v := if o.x.subf.getLsbD 3 then o.x.c.toNat else (c.gang.rdG o.x.c.toNat).toNat % 2 ^ (8 * tyBytes ty)
    let holds := rel o.x.subf.toNat (ext (tySigned ty) (tyWidth ty) (s.readVis pa (tyBytes ty))) (ext (tySigned ty) (tyWidth ty) v)
    m.Ready s c wf → m.checks s c wf = .go [{ lane := 64, va := va, route := .home pa }] → regionOf pa ≠ 4 →
    (s.recOf (lineOf pa)).owner = none → s.ownWrite c.who.gid c.who.gang (lineOf pa) = false →
    (holds = true →
      ∃ t c', exec (.waitcmp o) s = .next t ∧ { t with groups := s.groups, nextIns := s.nextIns } = s ∧
        t.nextIns = s.nextIns + 1 ∧ t.ctxOf c.who = some c' ∧ Retired (c.enter s (s.nextIns + 1)) c' (c.nextPc 2) ∧
        UPredIs c c' o.w.d.toNat true ∧ c.gang.SameBut c'.gang ∧ c.gang.LanesSame c'.gang ∧ c'.gang.g = c.gang.g) ∧
    (holds = false → c.lau.rcd.det = false →
      let sl := s.homeOf (lineOf pa)
      let full := Config.monitorsPerSlice ≤ (s.monitors.filter (fun x => x.slice == sl)).length
      ∃ t c', exec (.waitcmp o) s = .next t ∧ t.ctxOf c.who = some c' ∧ c'.frag.pc = c.frag.pc ∧
        { c'.gang with frags := c.gang.frags } = c.gang ∧
        t.monitors = s.monitors ++ [{ slice := if full then 64 else sl, who := .frag c.who, since := s.now, func := c.lau.func, pa := pa, ty := ty,
                                      rel := o.x.subf.toNat % 8, value := v }] ∧
        c'.frag.state = .sleeping (if full then .monitorFull (s.now + 2048) else .monitor) ∧
        (t.slice sl).overflow = if full then min ((s.slice sl).overflow + 1) 0xFFFFFFFF else (s.slice sl).overflow)) ∧
  (∀ (o : LM) (s : State) (c : Ctx) (wf : Reg → Reg) (pa va : Nat), s.ctx = some c → (∀ b, c.frag.grant ≠ some (.pred b)) →
    let m : MemForm := { o := o, size := tyBytes o.x.ty.toNat, acc := .read, lane := false }
    m.Ready s c wf → m.checks s c wf = .go [{ lane := 64, va := va, route := .home pa }] → regionOf pa ≠ 4 →
    s.ownWrite c.who.gid c.who.gang (lineOf pa) = true →
    exec (.waitcmp o) s = .next (s.put (c.stall (.ownStore (lineOf pa)))))

/-- The fences and CINV with a true guard. FENCE.W retires once nothing of the gang is out and NOW() has reached %wct,
and else waits; FENCE.L waits for loads and atomics; FENCE.S drops the group's operand-cache entries; CINV drops the
function's constant-buffer lines of the core. -/
def Sys2Proof.Claims.FenceResults : Prop :=
  ∀ (o : LR) (s : State) (c : Ctx), c.gang.qpred o.g.toNat = true → c.src.qpred o.g.toNat = true → s.ctx = some c →
    (c.grp.lines = [] → s.loadsOut c.who.gid c.who.gang = false → s.unsettled c.who.gid c.who.gang = false →
      c.gang.wct ≤ s.now → OnlyRetires (.fenceW o) s c 1) ∧
    (c.grp.lines = [] → c.frag.grant ≠ some .passed →
      (s.loadsOut c.who.gid c.who.gang = true ∨ s.unsettled c.who.gid c.who.gang = true) →
      exec (.fenceW o) s = .next (s.put (c.linger .fenceW))) ∧
    (c.grp.lines = [] → c.frag.grant ≠ some .passed → s.loadsOut c.who.gid c.who.gang = false →
      s.unsettled c.who.gid c.who.gang = false → s.now < c.gang.wct →
      exec (.fenceW o) s = .next (s.put (c.linger (.wct c.gang.wct true)))) ∧
    (s.loadsOut c.who.gid c.who.gang = false → c.otherMonitors = false → OnlyRetires (.fenceL o) s c 1) ∧
    (s.loadsOut c.who.gid c.who.gang = true → exec (.fenceL o) s = .next (s.put (c.linger .fenceL))) ∧
    (s.stashOut c.who.gid c.who.gang = false →
      ChangeResult (.fenceS o) s c 1
        (s.updCore c.core (fun k => { k with opcache := k.opcache.filter (fun e => decide (e.gid ≠ c.who.gid)) })) c.grp) ∧
    (s.stashOut c.who.gid c.who.gang = true → exec (.fenceS o) s = .next (s.put (c.linger .stash))) ∧
    ChangeResult (.cinv o) s c 1
      (s.updCore c.core (fun k => { k with cbuf := k.cbuf.filter (fun e => decide (e.func ≠ c.lau.func)) })) c.grp

namespace Sys2Proof.Claims
open Sys2Proof.Machine

/-! ## Units -/

/-- A uniform predicate written, then retired. -/
def predRetire (s : State) (c : Ctx) (len d : Nat) (b : Bool) : State :=
  s.put (({ c with gang := c.gang.setQ d b } : Ctx).retire len)

/-- The bytes that HOIST names: IMM8 + 1 units of 4 KiB, or gL. -/
def hoistLen (c : Ctx) (o : LX) : Nat :=
  if o.w.b = 0 then 4096 * (o.x.imm.toNat + 1) else (c.gang.rdG o.w.b.toNat).toNat

/-- The overlay of a module's directory that starts at an offset with a length in bytes. -/
def overlayHere (m : Module) (off len : Nat) : Bool := m.dir.any (fun d => d.1 * 4096 == off && (d.2 + 1) * 4096 == len)

/-- The engine's commands, with the entry that an accepted one makes (R70, R324 to R330); `none` is refused. -/
def cmdFor (c : Ctx) : Instr → Option (LX × Cmd)
  | .twLoad o =>
    let x := c.newCmd 0x50 o
    match c.walkProg x.gw, c.engineWin x.mreg with
    | some p, some w =>
      if hasIndex p || (x.ring && (decide (dstLow p < 0) || w.2 % tileOf p != 0)) then none
      else some (o, { x with prog := p, win := w })
    | _, _ => none
  | .twStore o =>
    let x := c.newCmd 0x51 o
    if x.acc then
      match c.accChecks o x with
      | .ok y => some (o, y)
      | .error _ => none
    else
      match c.walkProg x.gw, c.engineWin x.mreg with
      | some p, some w => some (o, { x with prog := p, win := w })
      | _, _ => none
  | .twMcast o =>
    let x := c.newCmd 0x52 o
    match c.walkProg x.gw, c.engineWin x.mreg with
    | some p, some w =>
      if hasIndex p || decide (2 ^ 32 ≤ x.gc.toNat) then none
      else some (o, { x with prog := p, win := w, copies := ((List.range 24).filter (fun i => x.gc.getLsbD i)).map (fun i => 24 * (c.core / 24) + i) })
    | _, _ => none
  | .twGather o =>
    let x := c.newCmd 0x53 o
    match c.walkProg x.gw, c.engineWin x.mreg with
    | some p, some w =>
      if !hasIndex p || (x.ring && (decide (dstLow p < 0) || w.2 % tileOf p != 0)) then none
      else some (o, { x with prog := p, win := w })
    | _, _ => none
  | .twRed o =>
    let x := c.newCmd 0x54 o
    match c.engineWin x.mreg with
    | some w =>
      let n := x.ga.toNat % 2 ^ 32
      if x.gw.toNat % 2 ^ 32 ≠ 0 ∨ 2 ^ 54 ≤ x.gw.toNat ∨ n = 0 ∨ w.2 / tyBytes x.ty < n then none
      else some (o, { x with win := w, ctx := .coll c.lau.func (o.x.imm.toNat / 16) })
    | none => none
  | _ => none

/-- The matrix engine's posts with the checks that answer their entry (R317 to R320). -/
def postFor (s : State) (c : Ctx) : Instr → Option (LX × Except KvStop (State × (Option Wait ⊕ Rsv)))
  | .mmPass o => some (o, s.mkPass c 0x43 o)
  | .mmSpass o => some (o, s.mkPass c 0x44 o)
  | _ => none

/-- What each gain-queue instruction does to its pool and answers (R212, R340), with its own checks passed. -/
def gainOp (p : Pool) (i : Nat) (v : Word) : Instr → Option (LX × Except Reason (Pool × Bool))
  | .gqIns o => some (o, .ok (p.insert i v))
  | .gqDone o => some (o, p.finish i)
  | .gqAdd o => some (o, p.update false i v)
  | .gqMax o => some (o, p.update true i v)
  | _ => none

/-- The paged-tensor instructions with their plans (R308 to R310). -/
def kvFor (s : State) (c : Ctx) : Instr → Option (LX × Except KvStop KvPlan)
  | .kvFork o => some (o, s.kvFork c (c.gang.rdG o.w.a.toNat).toNat (c.gang.rdG o.w.b.toNat).toNat)
  | .kvApp o => some (o, s.kvApp c (c.gang.rdG o.w.a.toNat).toNat (c.gang.rdG o.w.b.toNat).toNat)
  | .kvDrop o => some (o, s.kvDrop c (c.gang.rdG o.w.a.toNat).toNat)
  | .kvDropFrame o => some (o, s.kvDropFrame c (c.gang.rdG o.w.a.toNat).toNat ((c.gang.rdG o.w.b.toNat).toNat / 2 ^ 32))
  | _ => none

/-- The operations that fold a value into a task, and those that carry a value. -/
def gainFolds : Instr → Bool
  | .gqAdd _ | .gqMax _ => true
  | _ => false
def gainCarries : Instr → Bool
  | .gqDone _ => false
  | _ => true

end Sys2Proof.Claims

/-- HOIST: no binding is NO_CODE, no such overlay BAD_OVERLAY, a revoked module MODULE_REVOKED. An overlay that is present
and charged to the function gives its token at once; an absent one takes the lowest free slot and the lowest run of the
store, LOADING. -/
def Sys2Proof.Claims.HoistResults : Prop :=
  ∀ (o : LX) (s : State) (c : Ctx), c.gang.qpred o.w.g.toNat = true → s.ctx = some c →
    let a := (c.gang.rdG o.w.a.toNat).toNat
    let len := hoistLen c o
    let k := s.core c.core
    (s.bindingAt c.lau.func c.lau.aspace a = none → exec (.hoist o) s = .next (s.put (c.fault s.now .noCode))) ∧
    (∀ m off, s.bindingAt c.lau.func c.lau.aspace a = some (m, off) →
      (len % 4096 ≠ 0 ∨ len = 0 ∨ 262144 < len ∨ off % 4096 ≠ 0 ∨ overlayHere (s.modl m) off len = false →
        exec (.hoist o) s = .next (s.put (c.fault s.now .badOverlay))) ∧
      (len % 4096 = 0 → len ≠ 0 → len ≤ 262144 → off % 4096 = 0 → overlayHere (s.modl m) off len = true →
        ((s.modl m).state ≠ 1 → exec (.hoist o) s = .next (s.put (c.fault s.now .moduleRevoked))) ∧
        ((s.modl m).state = 1 → (s.fn c.lau.func).trcEn = false → 96 ≤ o.w.d.toNat →
          (∀ i, k.slotAt m off = some i → (k.res i).state ≠ 4 → (k.res i).counts c.lau.func = true →
            ∃ t c' dev, exec (.hoist o) s = .next t ∧ Change s dev t c c' c.grp ∧ { dev with cores := s.cores } = s ∧
              UniformIs c c' o.w.d.toNat (BitVec.ofNat 64 (1024 * i + (k.res i).gen)) ∧ Retired c c' (c.nextPc 2) ∧
              (i < 64 → ((dev.core c.core).res i).state = (if (k.res i).state = 3 then 2 else (k.res i).state) ∧
                ((dev.core c.core).res i).evictPending = false)) ∧
          (∀ i b, k.slotAt m off = none → k.freeSlot = some i → k.freeRun (len / 4096) = some b →
            k.useOf c.lau.func none + len / 4096 ≤ (s.fn c.lau.func).quota →
            ∃ t c' dev, exec (.hoist o) s = .next t ∧ Change s dev t c c' c.grp ∧ { dev with cores := s.cores } = s ∧
              UniformIs c c' o.w.d.toNat (BitVec.ofNat 64 (1024 * i + (k.res i).gen)) ∧ Retired c c' (c.nextPc 2) ∧
              (let e := (dev.core c.core).res i
               e.state = 1 ∧ e.modIdx = m ∧ e.offset = off / 4096 ∧ e.len + 1 = len / 4096 ∧ e.store = b ∧
                 e.gen = (k.res i).gen ∧ e.loadVA = a ∧ e.func = if (s.modl m).shared then 0x1FF else c.lau.func)))))

/-- HWAIT, EVICT, PIN and UNPIN by what their token names: nothing, or an entry in each of its states; one of a revoked
module acts as EVICTING (R185). -/
def Sys2Proof.Claims.OverlayResults : Prop :=
  ∀ (o : LR) (s : State) (c : Ctx), c.gang.qpred o.g.toNat = true → c.src.qpred o.g.toNat = true → s.ctx = some c →
    let k := s.core c.core
    let t := (c.src.rdG o.a.toNat).toNat % 65536
    (k.tokenSlot t = none →
      UPredResult (.hwait o) s c 1 o.d.toNat false ∧ OnlyRetires (.evict o) s c 1 ∧
      UPredResult (.pin o) s c 1 o.d.toNat false ∧ UPredResult (.unpin o) s c 1 o.d.toNat false) ∧
    (∀ i, k.tokenSlot t = some i →
      let e := k.res i
      let n := c.gang.pinCount t
      let st := if e.revoked then 3 else e.state
      (st = 2 ∨ st = 3 → UPredResult (.hwait o) s c 1 o.d.toNat true) ∧
      (st = 1 → exec (.hwait o) s = .next (s.put (c.sleep (.hwait t)))) ∧
      (st = 4 → e.fail = none → UPredResult (.hwait o) s c 1 o.d.toNat false) ∧
      (∀ r, st = 4 → e.fail = some r → exec (.hwait o) s = .next (s.put (c.fault s.now r))) ∧
      (st = 1 → ChangeResult (.evict o) s c 1 (s.setCore c.core (k.setRes i { e with evictPending := true })) c.grp) ∧
      (st = 2 → s.unused c.core i = true →
        ChangeResult (.evict o) s c 1 (s.setCore c.core (k.setRes i { ResEntry.free with gen := (e.gen + 1) % 1024 })) c.grp) ∧
      (st = 2 → s.unused c.core i = false →
        ChangeResult (.evict o) s c 1 (s.setCore c.core (k.setRes i { e with state := 3 })) c.grp) ∧
      (st = 3 → ChangeResult (.evict o) s c 1 (s.setCore c.core k) c.grp) ∧
      (st = 4 →
        ChangeResult (.evict o) s c 1 (s.setCore c.core (k.setRes i { ResEntry.free with gen := (e.gen + 1) % 1024 })) c.grp) ∧
      ((s.modl e.modIdx).state = 1 → (n ≠ 0 ∨ c.gang.pins.length < 16) → e.pins < 32767 →
        ∃ g : Gang, exec (.pin o) s = .next ((s.setCore c.core (k.setRes i { e with pins := e.pins + 1 })).put
            (({ c with gang := g.setQ o.d.toNat true } : Ctx).retire 1)) ∧
          { g with pins := c.gang.pins } = c.gang ∧ g.pinCount t = n + 1 ∧ ∀ u, u ≠ t → g.pinCount u = c.gang.pinCount u) ∧
      ((s.modl e.modIdx).state ≠ 1 → UPredResult (.pin o) s c 1 o.d.toNat false) ∧
      ((s.modl e.modIdx).state = 1 → n = 0 → 16 ≤ c.gang.pins.length → exec (.pin o) s = .next (s.put (c.fault s.now .pinLimit))) ∧
      ((s.modl e.modIdx).state = 1 → (n ≠ 0 ∨ c.gang.pins.length < 16) → 32767 ≤ e.pins →
        exec (.pin o) s = .next (s.put (c.fault s.now .pinOverflow))) ∧
      (n ≠ 0 →
        ∃ g : Gang, exec (.unpin o) s = .next ((s.setCore c.core (k.setRes i { e with pins := e.pins - 1 })).put
            (({ c with gang := g.setQ o.d.toNat true } : Ctx).retire 1)) ∧
          { g with pins := c.gang.pins } = c.gang ∧ (∀ u, u ≠ t → g.pinCount u = c.gang.pinCount u)) ∧
      (n = 0 → exec (.unpin o) s = .next (s.put (c.fault s.now .pinUnderflow))))

/-- A dictionary pair (R195): the code at the program counter is expanded from the kernel's dictionary and issues next;
the instruction after it stands in the low half, or in the next word. -/
def Sys2Proof.Claims.DictionaryPairResults : Prop :=
  ∀ (p : Sys2Proof.Pair) (w : Word) (s : State) (c : Ctx), s.ctx = some c →
    (c.frag.pc.toNat % 4 = 0 → s.dictEntry c p.hi.toNat = some w →
      exec (.dictionaryPair p) s = .next (s.put { c with frag := { c.frag with
        code := some (w, if p.lo = 0 then c.frag.pc + 4 else c.frag.pc + 2) } })) ∧
    (c.frag.pc.toNat % 4 ≠ 0 → s.dictEntry c (p.lo.toNat % 1024) = some w →
      exec (.dictionaryPair p) s = .next (s.put { c with frag := { c.frag with code := some (w, c.frag.pc + 2) } })) ∧
    ((∀ n, s.dictEntry c n = none) → exec (.dictionaryPair p) s = .next (s.put (c.fault s.now .illegalInstruction)))

/-- HGET gD, hA, #w writes word w of the handle into gD; word 3 is GEN and SLOT with the RSVD bits 0. -/
def Obligations.HandleReadResult : Prop :=
  ∀ (o : LR) (s : State) (c : Ctx) (h : Handle), 96 ≤ o.d.toNat → c.gang.qpred o.g.toNat = true → s.ctx = some c →
    c.gang.h[o.a.toNat]? = some h →
    (o.b.toNat = 0 → UniformResult (.hget o) s c 1 o.d.toNat h.base) ∧
    (o.b.toNat = 1 → UniformResult (.hget o) s c 1 o.d.toNat h.dims) ∧
    (o.b.toNat = 2 → UniformResult (.hget o) s c 1 o.d.toNat h.stride) ∧
    (o.b.toNat = 3 → UniformResult (.hget o) s c 1 o.d.toNat (h.genSlot &&& 0xFFC0000000000007))

/-- HSET writes a handle's four words, GEN one on, drops its operand-cache entries, and faults on words that R315 refuses. -/
def Sys2Proof.Claims.HandleWriteResult : Prop :=
  ∀ (o : LX) (s : State) (c : Ctx), o.w.d.toNat < 16 → c.gang.qpred o.w.g.toNat = true → s.ctx = some c →
    let base := c.gang.rdG o.w.a.toNat
    let dims := c.gang.rdG (o.w.a.toNat + 1)
    let stride := c.gang.rdG o.w.b.toNat
    let ok := base.toNat < 2 ^ 57 ∧ dims.toNat < 2 ^ 40 ∧ dims.toNat / 2 ^ 20 ≠ 0 ∧ dims.toNat % 2 ^ 20 ≠ 0 ∧ stride.toNat % 4 = 0
    (¬ok → exec (.hset o) s = .next (s.put (c.fault s.now .matrixConfig))) ∧
    (ok → ((s.core c.core).rsvs.any (fun r => r.names c.who o.w.d.toNat) || c.grp.tapBlocks.any (fun b => b.names c.who o.w.d.toNat)) = true →
      exec (.hset o) s = .next (s.put (c.stall .inUse))) ∧
    (ok → ((s.core c.core).rsvs.any (fun r => r.names c.who o.w.d.toNat) || c.grp.tapBlocks.any (fun b => b.names c.who o.w.d.toNat)) = false →
      ∃ t c' dev, exec (.hset o) s = .next t ∧ Change s dev t c c' c.grp ∧ { dev with cores := s.cores } = s ∧
        Retired c c' (c.nextPc 2) ∧ { c'.gang with h := c.gang.h, quads := c.gang.quads, frags := c.gang.frags } = c.gang ∧
        (∀ e ∈ (dev.core c.core).opcache, ¬(e.gid = c.who.gid ∧ e.handle = o.w.d.toNat)) ∧
        ∀ i, i < 16 → c'.gang.handle i = if i = o.w.d.toNat then
          { base := base, dims := dims, stride := stride
            genSlot := BitVec.ofNat 64 (((c.gang.handle i).gen + 1) % 1024 * 2 ^ 54 + o.x.slot.toNat) }
          else c.gang.handle i)

/-- MM.LOADB, MM.PASS and MM.SPASS: with their checks passed and the reservation table not full, an entry with the next
number of the group's matrix context joins the table, the number goes to gN, and the instruction retires; a full table
stalls and a failed check faults. -/
def Sys2Proof.Claims.MatrixPostResults : Prop :=
  (∀ (i : Instr) (o : LX) (x : Except KvStop (State × (Option Wait ⊕ Rsv))) (s : State) (c : Ctx),
    postFor s c i = some (o, x) → c.gang.qpred o.w.g.toNat = true → s.ctx = some c → c.answer = none →
    (∀ r d, x = .error (.bad r d) → exec i s = .next (s.put (c.fault s.now r d))) ∧
    (∀ s1 r, x = .ok (s1, .inr r) → s1.ctx = some c → s1.tableUse c.core < Config.reservations →
      ∃ t c' y, exec i s = .next t ∧ t.ctxOf c.who = some c' ∧ c'.frag.pc = c.nextPc 2 ∧ c'.gang.v = c.gang.v ∧
        (t.core c.core).rsvs = (s1.core c.core).rsvs ++ [y] ∧
        y = { r with id := y.id, number := c.grp.matrix.issued + 1, ins := s1.nextIns, wct := y.wct } ∧
        c'.grp.matrix.issued = c.grp.matrix.issued + 1 ∧ c'.grp.acc = c.grp.acc ∧
        (96 ≤ o.w.d.toNat → c'.gang.rdG o.w.d.toNat = BitVec.ofNat 64 (c.grp.matrix.issued + 1))) ∧
    (∀ s1 r, x = .ok (s1, .inr r) → s1.ctx = some c → Config.reservations ≤ s1.tableUse c.core →
      exec i s = .next (s1.put (c.stall .matrix)))) ∧
  (∀ (o : LX) (s : State) (c : Ctx), c.gang.qpred o.w.g.toNat = true → s.ctx = some c → c.answer = none →
    let h := c.gang.handle o.w.a.toNat
    let f := c.grp.slotOf h
    (f.ok = false → exec (.mmLoadb o) s = .next (s.put (c.fault s.now .badFormatSlot))) ∧
    (f.ok = true → f.fmt = 0 ∨ f.fmt = 2 → exec (.mmLoadb o) s = .next (s.put (c.fault s.now .matrixConfig))) ∧
    (f.ok = true → f.fmt ≠ 0 → f.fmt ≠ 2 → (f.fmt = 1 → o.x.imm.toNat % 2 = 0) → o.x.sub.toNat / 64 = 0 ∨ c.pairOk = true →
      f.dupBase = 0 → s.tableUse c.core < Config.reservations →
      ∃ t c' y, exec (.mmLoadb o) s = .next t ∧ t.ctxOf c.who = some c' ∧ c'.frag.pc = c.nextPc 2 ∧
        (t.core c.core).rsvs = (s.core c.core).rsvs ++ [y] ∧ y.op = 0x42 ∧ y.who = c.who ∧ y.hB = (o.w.a.toNat, h) ∧
        y.number = c.grp.matrix.issued + 1 ∧ y.stage = .waiting ∧
        (let g0 : Reg := if o.w.b = 0 then 0 else c.gang.rdG o.w.b.toNat
         y.origin = (g0.toNat / 2 ^ 32, g0.toNat % 2 ^ 32)) ∧
        c'.grp.matrix.issued = c.grp.matrix.issued + 1))

/-- MM.ZERO writes +0 into accumulator rows ACC_BASE to ACC_BASE + ROWS − 1, or only into those that its copy of %rready
names; it takes and completes a number of the matrix context. MM.STORE writes nothing to a register but gN, and its bytes
go out; both wait for posted passes over their rows and for the tap unit's rows, and MM.ZERO for the reads of a TW.STORE.ACC
(R176). -/
def Sys2Proof.Claims.MatrixRowResults : Prop :=
  (∀ (o : LX) (s : State) (c : Ctx), c.gang.qpred o.w.g.toNat = true → s.ctx = some c →
    let gacc := c.gang.rdG o.w.a.toNat
    let base := gacc.toNat % 1024
    let rows := (c.gang.rdG o.w.b.toNat).toNat % 512
    let rr : BitVec 256 := if o.x.sub.getLsbD 4 then c.grp.rready else BitVec.allOnes 256
    (1024 ≤ gacc.toNat ∨ rows = 0 ∨ 256 < rows ∨ c.accRows < base + rows →
      exec (.mmZero o) s = .next (s.put (c.fault s.now .matrixConfig))) ∧
    (gacc.toNat < 1024 → rows ≠ 0 → rows ≤ 256 → base + rows ≤ c.accRows →
      (c.grp.tapHolds base rows 1 rr = true ∨ s.passOver c base rows 1 rr = true ∨ s.accReads c base rows 1 rr = true →
        exec (.mmZero o) s = .next (s.put (c.stall .inUse))) ∧
      (c.grp.tapHolds base rows 1 rr = false → s.passOver c base rows 1 rr = false → s.accReads c base rows 1 rr = false →
        (∀ v ∈ c.grp.tcbind.toList, v = 0) →
        (∀ g ∈ s.groups, ∀ v ∈ g.2.tcbind.toList, v = 0) →
        ∃ t c', exec (.mmZero o) s = .next t ∧ t.ctxOf c.who = some c' ∧ c'.frag.pc = c.nextPc 2 ∧ t.mem = s.mem ∧
          c'.grp.stash = c.grp.stash ∧ c'.gang.v = c.gang.v ∧
          (∀ r, c'.grp.acc.find r = if base ≤ r ∧ r < base + rows ∧ rr.getLsbD (r - base) then none else c.grp.acc.find r) ∧
          c'.grp.matrix.issued = c.grp.matrix.issued + 1 ∧
          (96 ≤ o.w.d.toNat → c'.gang.rdG o.w.d.toNat = BitVec.ofNat 64 (c.grp.matrix.issued + 1))))) ∧
  (∀ (o : LX) (s : State) (c : Ctx), c.gang.qpred o.w.g.toNat = true → s.ctx = some c →
    let dst := c.gang.rdG o.w.a.toNat
    let gs := c.gang.rdG o.w.b.toNat
    let cols := gs.toNat / 2 ^ 20 % 2 ^ 12
    let base := gs.toNat / 2 ^ 10 % 2 ^ 10
    let rows := gs.toNat % 2 ^ 9
    let f := c.slot o.x.slot
    (dst.toNat % 4 ≠ 0 ∨ gs.toNat / 2 ^ 32 % 4 ≠ 0 →
      exec (.mmStore o) s = .next (s.put (c.fault s.now .misaligned { addr := dst, lanes := c.faultLanes 7 }))) ∧
    (dst.toNat % 4 = 0 → gs.toNat / 2 ^ 32 % 4 = 0 → f.ok = false →
      exec (.mmStore o) s = .next (s.put (c.fault s.now .badFormatSlot))) ∧
    (dst.toNat % 4 = 0 → gs.toNat / 2 ^ 32 % 4 = 0 → f.ok = true → f.block = 0 → f.nan ≠ 2 → o.x.sub.toNat / 64 ≠ 1 →
      gs.getLsbD 9 = false → cols ≠ 0 → cols ≤ 1024 → rows ≠ 0 → rows ≤ 256 → cols * f.bits % 32 = 0 →
      base + rows ≤ c.accRows → s.memFull c = false → c.olderWaits = false → c.answer = none →
      c.grp.tapHolds base rows 1 (c.readyCopy o.x.sub.toNat) = false →
      s.passOver c base rows 1 (c.readyCopy o.x.sub.toNat) = false →
      ∀ off : Nat → Nat,
      (∀ i, i < rows → inAperture (dst.toNat + i * (gs.toNat / 2 ^ 32)) = true ∧
        s.localSpan c.who.gid (dst.toNat + i * (gs.toNat / 2 ^ 32)) (cols * f.bits / 8) = some (c.who.gid, off i)) →
      ∃ t c' j, exec (.mmStore o) s = .next t ∧ t.ctxOf c.who = some c' ∧ c'.frag.pc = c.nextPc 2 ∧ t.mem = s.mem ∧
        (t.core c.core).storeJobs = (s.core c.core).storeJobs ++ [j] ∧ j.who = c.who ∧ j.number = c.grp.matrix.issued + 1 ∧
        c'.grp.acc = c.grp.acc ∧ c'.grp.matrix.issued = c.grp.matrix.issued + 1 ∧
        (rows = 1 → (c.readyCopy o.x.sub.toNat).getLsbD 0 = true →
          let vals := ((c.grp.accRow base).take cols).map (accVal (o.x.ty == 6))
          let codes := (f.rowOut o.x.rnd.toNat (o.x.sat == 1) c.lowQuad.dix (fun j => base + j / 1024) vals).1
          ∀ n b, (packBytes f.bits codes)[n]? = some b → SMap.get 0 c'.grp.stash (off 0 + n) = b)))

/-- The engine's commands with their checks passed, no older access of the gang in a walk, no row of their accumulator in use
and the queue not full: the command joins the queue under the next
number of its context, its number goes to gN and into the gang's open batch, a ring command moves its window offset on,
and the instruction retires. Each of these else stalls it; a walk program or window that R70 refuses is BAD_WALK. -/
def Sys2Proof.Claims.EngineIssueResults : Prop :=
  (∀ (i : Instr) (o : LX) (x : Cmd) (s : State) (c : Ctx), cmdFor c i = some (o, x) → c.gang.qpred o.w.g.toNat = true →
    s.ctx = some c →
    let rows := if x.acc then c.grp.accRowsOf c.accRows x else []
    let inUse := rows.any c.grp.tapOwns || rows.any (fun r => s.passOver c r 1 1 (BitVec.allOnes 256))
    (c.olderWaits = true → exec i s = .next (s.put (c.stall .older))) ∧
    (c.olderWaits = false → inUse = true → exec i s = .next (s.put (c.stall .inUse))) ∧
    (c.olderWaits = false → inUse = false → Config.engineQueue ≤ (s.core c.core).waitingCmds →
      exec i s = .next (s.put (c.stall (.engineFull x.words.1 x.words.2 (c.nextPc 2))))) ∧
    (c.olderWaits = false → inUse = false → (s.core c.core).waitingCmds < Config.engineQueue →
      ∃ t c' y, exec i s = .next t ∧ t.ctxOf c.who = some c' ∧ c'.frag.pc = c.nextPc 2 ∧ c'.frag.state = .eligible ∧
        c'.gang.v = c.gang.v ∧ t.mem = s.mem ∧ c'.grp.stash = c.grp.stash ∧
        (t.core c.core).queue = (s.core c.core).queue ++ [y] ∧
        y = { x with id := y.id, number := (s.counter x.ctx).issued + 1, batch := c.gang.batchNo + 1, ins := s.nextIns, wct := y.wct } ∧
        c'.gang.openCmds = c.gang.openCmds ++ [(x.ctx, (s.counter x.ctx).issued + 1)] ∧
        (96 ≤ o.w.d.toNat → c'.gang.rdG o.w.d.toNat = BitVec.ofNat 64 ((s.counter x.ctx).issued + 1)) ∧
        (96 ≤ o.w.b.toNat → x.ring = true → o.w.d ≠ o.w.b →
          (c'.gang.rdG o.w.b.toNat).toNat / 2 ^ 32 % 2 ^ 22 = (x.winOff + tileOf x.prog) % x.win.2 % 2 ^ 22))) ∧
  (∀ (o : LX) (s : State) (c : Ctx), c.gang.qpred o.w.g.toNat = true → s.ctx = some c →
    c.walkProg (c.gang.rdG o.w.b.toNat) = none →
    exec (.twLoad o) s = .next (s.put (c.fault s.now .badWalk)) ∧
    exec (.twMcast o) s = .next (s.put (c.fault s.now .badWalk)) ∧
    exec (.twGather o) s = .next (s.put (c.fault s.now .badWalk)) ∧
    exec (.twStore o) s = .next (s.put (c.fault s.now .badWalk)))

/-- TW.PERMIT adds n to HALYARD[D], at once where no earlier load of the gang is out and else when they have returned; a
sum above 4095 is PERMIT_OVERFLOW, an n of 0 changes nothing, and it always executes. -/
def Obligations.PermitResult : Prop :=
  ∀ (o : UI) (s : State) (c : Ctx), o.d.toNat < 8 → s.ctx = some c →
    let n := o.imm.toNat
    let now := c.grp.halyardAt o.d.toNat + c.grp.permitsFor o.d.toNat
    (4095 < n → exec (.twPermit o) s = .next (s.put (c.fault s.now .permitOverflow))) ∧
    (4095 < now + n → exec (.twPermit o) s = .next (s.put (c.fault s.now .permitOverflow))) ∧
    (now + n ≤ 4095 → s.loadsBefore c.who.gid c.who.gang s.nextIns = false →
      ∃ h, ChangeResult (.twPermit o) s c 1 s { c.grp with halyard := h } ∧
        ∀ k, k < 8 → h[k]? = if k = o.d.toNat then some (BitVec.ofNat 12 (c.grp.halyardAt k + n)) else c.grp.halyard[k]?) ∧
    (now + n ≤ 4095 → s.loadsBefore c.who.gid c.who.gang s.nextIns = true →
      ChangeResult (.twPermit o) s c 1 s { c.grp with permits := c.grp.permits ++ [(c.who.gang, o.d.toNat, n, s.nextIns)] })

/-- CBATCH closes the open batch under the next number, which goes to gD, unless eight are incomplete; CWAIT sleeps until
its batch and those before it are complete and answers whether none of their commands ended in error; woken, it answers what
its wake found (R77, R332). -/
def Sys2Proof.Claims.BatchResults : Prop :=
  ∀ (o : LR) (s : State) (c : Ctx), c.gang.qpred o.g.toNat = true → c.src.qpred o.g.toNat = true → s.ctx = some c →
    (8 ≤ (s.openBatches c.gang).length → exec (.cbatch o) s = .next (s.put (c.stall (.batch 0)))) ∧
    ((s.openBatches c.gang).length < 8 → 96 ≤ o.d.toNat →
      ∃ t c', exec (.cbatch o) s = .next t ∧ Effect s t c c' ∧ Retired c c' (c.nextPc 1) ∧ c.gang.LanesSame c'.gang ∧
        UniformIs c c' o.d.toNat (BitVec.ofNat 64 (c.gang.batchNo + 1)) ∧ c'.gang.batchNo = c.gang.batchNo + 1 ∧
        c'.gang.openCmds = [] ∧ c'.gang.batches.getLast? = some { no := c.gang.batchNo + 1, cmds := c.gang.openCmds } ∧
        ∀ b ∈ s.openBatches c.gang, b ∈ c'.gang.batches) ∧
    (∀ ok, c.frag.grant = some (.reached ok) → UPredResult (.cwait o) s c 1 o.d.toNat ok) ∧
    (let n := min (c.src.rdG o.a.toNat).toNat c.gang.batchNo
     (∀ ok, c.frag.grant ≠ some (.reached ok)) →
     (s.batchWaits c.gang n = true → exec (.cwait o) s = .next (s.put (c.sleep (.batch n)))) ∧
     (s.batchWaits c.gang n = false →
       ∃ ok, UPredResult (.cwait o) s c 1 o.d.toNat ok ∧
         (ok = true ↔ ∀ b ∈ c.gang.batches, b.no ≤ n → ∀ x ∈ b.cmds, x.2 ∉ (s.counter x.1).errs)))

/-- BAR.INIT sets EXPECTED and clears ARRIVED; BAR.ARRIVE counts, answers the phase before, and at EXPECTED flips the phase,
clears the count and wakes the waiters; BAR.WAIT goes on where the phase differs from gB's and else sleeps. -/
def Sys2Proof.Claims.BarrierResults : Prop :=
  ∀ (o : LR) (s : State) (c : Ctx), c.gang.qpred o.g.toNat = true → c.src.qpred o.g.toNat = true → s.ctx = some c →
    (∀ b, c.grp.bars[o.d.toNat]? = some b →
      let b1 : Barrier := { b with expected := (c.gang.rdG o.a.toNat).setWidth 12, arrived := 0, bad := false }
      ChangeResult (.barInit o) s c 1 s { c.grp with bars := c.grp.bars.setIfInBounds o.d.toNat b1 }) ∧
    (∀ b, c.grp.bars[o.a.toNat]? = some b → s.stashOut c.who.gid c.who.gang = false → o.d = 0 ∨ 96 ≤ o.d.toNat →
      let n := if o.b = 0 then 1 else (c.gang.rdG o.b.toNat).toNat % 4096
      let b1 : Barrier := { b with arrived := BitVec.ofNat 12 (b.arrived.toNat + n) }
      (b.arrived.toNat + n < 4096 → (b.expected = 0 ∨ b.arrived.toNat + n < b.expected.toNat ∨ n = 0) →
        ∃ t c', exec (.barArrive o) s = .next t ∧
          Change s s t c c' { c.grp with bars := c.grp.bars.setIfInBounds o.a.toNat b1 } ∧
          Retired c c' (c.nextPc 1) ∧ c.gang.LanesSame c'.gang ∧
          (∀ r, 96 ≤ r → r < 128 → c'.gang.rdG r = if r = o.d.toNat then (if b.phase then 1 else 0) else c.gang.rdG r)) ∧
      (b.expected ≠ 0 → b.expected.toNat ≤ b.arrived.toNat + n → n ≠ 0 →
        ∃ t g, exec (.barArrive o) s = .next t ∧ t.groups.find c.who.gid = some g ∧
          g.bars[o.a.toNat]? = some { b with phase := !b.phase, arrived := 0, bad := false, lastBad := b.bad } ∧
          g.stash = c.grp.stash ∧ t.mem = s.mem ∧
          (∀ (i : Nat) (x : Gang), g.gangs[i]? = some x → ∀ f ∈ x.frags, f.state ≠ .sleeping (.barrier o.a.toNat)) ∧
          (∀ (i : Nat) (x : Gang) (f : Frag), i ≠ c.who.gang → c.grp.gangs[i]? = some x → f ∈ x.frags → f.state = .sleeping (.barrier o.a.toNat) →
            ∃ y : Gang, g.gangs[i]? = some y ∧ { f with state := .eligible, grant := some (.pred (!b.bad)) } ∈ y.frags))) ∧
    (s.stashOut c.who.gid c.who.gang = true → exec (.barArrive o) s = .next (s.put (c.stall .stash))) ∧
    (∀ b, c.grp.bars[o.a.toNat]? = some b → (∀ q, c.frag.grant ≠ some (.pred q)) →
      (b.phase ≠ (c.src.rdG o.b.toNat).getLsbD 0 → UPredResult (.barWait o) s c 1 o.d.toNat (!b.lastBad)) ∧
      (b.phase = (c.src.rdG o.b.toNat).getLsbD 0 → c.lau.rcd.det = false →
        exec (.barWait o) s = .next (s.put (c.sleep (.barrier o.a.toNat))))) ∧
    (∀ q, c.frag.grant = some (.pred q) → UPredResult (.barWait o) s c 1 o.d.toNat q)

/-- TWAIT sleeps until its timeline's COUNT reaches gB and answers whether no number up to it ended in error; TREAD reads
COUNT, or ISSUED; a disabled binding is BAD_TCBIND; a mirror word is waited on as WAITCMP does and read as a load (R82,
R334). -/
def Sys2Proof.Claims.TimelineResults : Prop :=
  ∀ (o : LR) (v : Reg) (s : State) (c : Ctx), c.gang.qpred o.g.toNat = true → c.src.qpred o.g.toNat = true → s.ctx = some c →
    c.grp.tcbind[o.a.toNat]? = some v →
    let n := (c.src.rdG o.b.toNat).toNat
    let begins := (∀ b, c.frag.grant ≠ some (.reached b)) ∧ c.frag.grant ≠ some (.pred true)
    (∀ b, c.frag.grant = some (.reached b) → UPredResult (.twait o) s c 1 o.d.toNat b) ∧
    (∀ x, boundCtx c.lau.func c.who.gid v = some x →
      (begins → (s.counter x).count < n → exec (.twait o) s = .next (s.put (c.sleep (.timeline (some x) n)))) ∧
      (begins → n ≤ (s.counter x).count →
        ∃ ok, UPredResult (.twait o) s c 1 o.d.toNat ok ∧ (ok = true ↔ ∀ e ∈ (s.counter x).errs, n < e)) ∧
      (96 ≤ o.d.toNat → UniformResult (.tread o) s c 1 o.d.toNat
        (BitVec.ofNat 64 (if o.b = 0 then (s.counter x).count else (s.counter x).issued)))) ∧
    (boundCtx c.lau.func c.who.gid v = none → v.toNat / 16 % 16 ≠ 5 →
      (begins → exec (.twait o) s = .next (s.put (c.fault s.now .badTcbind))) ∧
      exec (.tread o) s = .next (s.put (c.fault s.now .badTcbind))) ∧
    (boundCtx c.lau.func c.who.gid v = none → v.toNat / 16 % 16 = 5 → begins →
      ∀ a pa, s.mirrorAcc c v = .go [a] → a.route = .home pa → regionOf pa ≠ 4 → (s.recOf (lineOf pa)).owner = none →
      s.ownWrite c.who.gid c.who.gang (lineOf pa) = false →
      (n ≤ s.readVis pa 8 → s.loadsOut c.who.gid c.who.gang = false → c.otherMonitors = false →
        UPredResult (.twait o) s c 1 o.d.toNat true) ∧
      (s.readVis pa 8 < n → n < 2 ^ 64 →
        (s.monitors.filter (fun m => m.slice == s.homeOf (lineOf pa))).length < Config.monitorsPerSlice →
        let w : Monitor := { slice := s.homeOf (lineOf pa), who := .frag c.who, since := s.now, func := c.lau.func, pa := pa, ty := 3, rel := 5, value := n }
        exec (.twait o) s = .next (State.put { s with monitors := s.monitors ++ [w] } (c.sleep .mirror))) ∧
      (o.b = 0 → 96 ≤ o.d.toNat → c.frag.skip.getLsbD 0 = false → s.memFull c = false →
        (∀ d, s.servedNow c a 0 8 = some d →
          ∃ t c', exec (.tread o) s = .next t ∧ t.ctxOf c.who = some c' ∧ c'.frag.pc = c.nextPc 1 ∧ t.reqs = s.reqs ∧
            c'.gang.rdG o.d.toNat = BitVec.ofNat 64 (leNat d)) ∧
        (s.servedNow c a 0 8 = none →
          ∃ t c' r, exec (.tread o) s = .next t ∧ t.ctxOf c.who = some c' ∧ c'.frag.pc = c.nextPc 1 ∧ t.reqs = s.reqs ++ [r] ∧
            r.kind = .load 8 false .readBuffer ∧ r.parts = [sentPart s c 64 o.d.toNat a.va pa 0 (List.replicate 8 0)])))

/-- TAP.ENC and TAP.ADAPT with their checks passed: the block takes the next number of its tap context, which goes to gN;
each row with work waits for the tap unit, its bit of %rready clear, and each other row is ready (R133, R336). -/
def Sys2Proof.Claims.TapIssueResults : Prop :=
  ∀ (i : Instr) (o : LX) (ad : Bool) (s s1 s2 : State) (c c2 : Ctx) (bs : List Byte) (plan : List TapPlan),
    (i = .tapEnc o ∧ ad = false) ∨ (i = .tapAdapt o ∧ ad = true) → c.gang.qpred o.w.g.toNat = true → s.ctx = some c → c.answer = none →
    let k := o.x.imm.toNat % 8
    let r := c.gang.rdG o.w.a.toNat
    let desc : List Reg := (List.range 8).map (fun j => BitVec.ofNat 64 (leNat ((bs.drop (8 * j)).take 8)))
    let b0 : TapBlock :=
      { tap := k, number := 0, gang := c.who.gang, pc := c.frag.pc, quads := c.frag.quads, dix := c.lowQuad.dix, desc := desc
        enc := Handle.zero, dec := Handle.zero, rows := fld r 32 9, accBase := fld r 20 10, descOff := fld r 0 20
        adapt := ad }
    let b : TapBlock := { b0 with enc := c.gang.handle b0.encH, dec := c.gang.handle b0.decH }
    let sa := c.grp.slots[b.aSlot]?.getD FmtSlot.zero
    let se := c.grp.slotOf b.enc
    let sd := c.grp.slotOf b.dec
    (c.lau.rcd.tapMask / 2 ^ k % 2 = 0 → exec i s = .next (s.put (c.fault s.now .tapConfig))) ∧
    (c.lau.rcd.tapMask / 2 ^ k % 2 = 1 → s.opRead c (c.lau.rcd.tapBase.toNat + 64 * k) 64 = .ok (s1, bs) →
      s1.tapPlan c k ad b.descOff (List.range b.rows) = .ok (s2, plan) → s2.ctxOf c.who = some c2 →
      r.toNat / 2 ^ 41 = 0 → r.toNat / 2 ^ 30 % 4 = 0 → b.descOff % 4 = 0 → b.descOff + 4 * b.rows ≤ c.stashBytes →
      b.bad c.accRows = false → sa.ok = true → se.ok = true → sd.ok = true → tapFmtBad sa se sd b.bank = false →
      (c2.grp.tapBlocked b = true ∨ s2.accReads c2 b.accBase b.rows b.nx (BitVec.allOnes 256) = true → exec i s = .next (s2.put (c2.stall .inUse))) ∧
      (c2.grp.tapBlocked b = false → s2.passOver c2 b.accBase b.rows b.nx (BitVec.allOnes 256) = false →
        s2.accReads c2 b.accBase b.rows b.nx (BitVec.allOnes 256) = false →
        (∀ p ∈ plan, p.bad = false) → (∃ p ∈ plan, p.index.isSome = true) →
        ∀ ctr, c2.grp.taps[k]? = some ctr →
        ∃ t c', exec i s = .next t ∧ t.ctxOf c.who = some c' ∧ c'.frag.pc = c.nextPc 2 ∧ c'.gang.v = c2.gang.v ∧
          c'.grp.taps[k]? = some { ctr with issued := ctr.issued + 1 } ∧
          (96 ≤ o.w.d.toNat → c'.gang.rdG o.w.d.toNat = BitVec.ofNat 64 (ctr.issued + 1)) ∧
          ({ b with number := ctr.issued + 1 } : TapBlock) ∈ c'.grp.tapBlocks ∧
          (∀ p ∈ plan, ∀ x, p.index = some x →
            (∃ w ∈ c'.grp.tapRows, w.row = p.row ∧ w.tap = k ∧ w.number = ctr.issued + 1 ∧ w.state = .waiting ∧ w.index = x ∧ w.adapt = ad) ∧
            c'.grp.rready.getLsbD p.row = false) ∧
          (∀ p ∈ plan, p.index = none → c'.grp.rready.getLsbD p.row = true)))

/-- The handler's instructions (R141 to R143, R337 to R339). TAP.NEXT delivers the oldest pennant of its launch, or answers
false, or sleeps; TAP.READ writes the feature record; TAP.RESUME sends the row on. -/
def Sys2Proof.Claims.TapHandlerResults : Prop :=
  (∀ (o : LR) (s : State) (c : Ctx), c.gang.qpred o.g.toNat = true → c.src.qpred o.g.toNat = true → s.ctx = some c →
    let off := (c.src.rdG o.b.toNat).toNat
    let offR := (c.gang.rdG o.b.toNat).toNat
    let k := s.core c.core
    let held := (k.pennants.filter (fun p => p.handling && p.holder == some c.who.gid)).length
    let mine : Pennant → Bool := fun p => p.launch == c.grp.launch
    let at0 : Nat → Detail := fun off => { addr := BitVec.ofNat 64 (Config.localBase + off), lanes := c.faultLanes 7 }
    (off % 8 ≠ 0 → exec (.tapNext o) s = .next (s.put (c.fault s.now .misaligned (at0 off)))) ∧
    (offR % 8 ≠ 0 → exec (.tapRead o) s = .next (s.put (c.fault s.now .misaligned (at0 offR)))) ∧
    (off % 8 = 0 → c.grp.handlerOf = false → exec (.tapNext o) s = .next (s.put (c.fault s.now .tapConfig))) ∧
    (off % 8 = 0 → c.grp.handlerOf = true → c.stashBytes < off + 32 → exec (.tapNext o) s = .next (s.put (c.fault s.now .paUnbacked (at0 off)))) ∧
    (off % 8 = 0 → c.grp.handlerOf = true → off + 32 ≤ c.stashBytes →
      (c.grp.handlerLive = false → UPredResult (.tapNext o) s c 1 o.a.toNat false) ∧
      (c.grp.handlerLive = true → 16 ≤ held →
        exec (.tapNext o) s = .next (s.put (c.fault s.now .pennantLimit))) ∧
      (c.grp.handlerLive = true → held < 16 →
        (∀ p, k.pennants.find? (fun p => mine p && !p.handling) = some p → 96 ≤ o.d.toNat →
          ∃ t c', exec (.tapNext o) s = .next t ∧ t.ctxOf c.who = some c' ∧ c'.frag.pc = c.nextPc 1 ∧
            c'.gang.rdG o.d.toNat = BitVec.ofNat 64 p.id ∧ (o.a.toNat < 7 → c'.gang.qpred o.a.toNat = true) ∧
            c'.grp.stash = Memory.write c.grp.stash off (wordBytes p.words) ∧
            ∀ x ∈ (t.core c.core).pennants, x.id = p.id → x.handling = true ∧ x.holder = some c.who.gid) ∧
        (k.pennants.find? (fun p => mine p && !p.handling) = none →
          (s.aloneOn c = true → ∃ t c', exec (.tapNext o) s = .next t ∧ Change s s t c c' { c.grp with handlerLive := false } ∧
            Retired c c' (c.nextPc 1) ∧ UPredIs c c' o.a.toNat false) ∧
          (s.aloneOn c = false → c.lau.rcd.det = false → exec (.tapNext o) s = .next (s.put (c.sleep .tapNext))))))) ∧
  (∀ (o : LR) (s : State) (c : Ctx), c.gang.qpred o.g.toNat = true → s.ctx = some c →
    let off := (c.gang.rdG o.b.toNat).toNat
    off % 8 = 0 →
    (s.handled c (c.gang.rdG o.a.toNat).toNat = none → exec (.tapRead o) s = .next (s.put (c.fault s.now .badPennant))) ∧
    (∀ gid b t g, s.handled c (c.gang.rdG o.a.toNat).toNat = some (gid, b, t) → s.groups.find gid = some g →
      off + 0x240 + 4 * b.d ≤ c.stashBytes →
      ∃ u c' gap, exec (.tapRead o) s = .next u ∧ u.ctxOf c.who = some c' ∧ c'.frag.pc = c.nextPc 1 ∧ gap.length = 56 ∧
        c'.grp.stash = Memory.write c.grp.stash off (t.record gap (g.tapX b t.row)) ∧ u.mem = s.mem ∧ u.cores = s.cores)) ∧
  (∀ (o : LX) (s : State) (c : Ctx), c.gang.qpred o.w.g.toNat = true → s.ctx = some c →
    let id := (c.gang.rdG o.w.a.toNat).toNat
    let off := (c.gang.rdG o.w.b.toNat).toNat
    (s.handled c id = none → exec (.tapResumeApply o) s = .next (s.put (c.fault s.now .badPennant)) ∧
      exec (.tapResumeSkip o) s = .next (s.put (c.fault s.now .badPennant)) ∧
      (off % 4 = 0 → exec (.tapResumeRewritten o) s = .next (s.put (c.fault s.now .badPennant)))) ∧
    (off % 4 ≠ 0 → ∃ d, exec (.tapResumeRewritten o) s = .next (s.put (c.fault s.now .misaligned d))) ∧
    (∀ gid b t, s.handled c id = some (gid, b, t) → gid ≠ c.who.gid →
      (∃ u c' g, exec (.tapResumeApply o) s = .next u ∧ u.ctxOf c.who = some c' ∧ Retired c c' (c.nextPc 2) ∧
        (∀ p ∈ (u.core c.core).pennants, p.id ≠ id) ∧ u.groups.find gid = some g ∧ { t with state := .applying } ∈ g.tapRows) ∧
      (∃ u c', exec (.tapResumeSkip o) s = .next u ∧ u.ctxOf c.who = some c' ∧ c'.frag.pc = c.nextPc 2 ∧
        (∀ p ∈ (u.core c.core).pennants, p.id ≠ id) ∧
        ∀ g, u.groups.find gid = some g → g.rpend.getLsbD t.row = true ∨ 256 ≤ t.row) ∧
      (off % 4 = 0 → off + 4 * b.d ≤ c.stashBytes → t.encCount < 4 →
        ∃ u c' g, exec (.tapResumeRewritten o) s = .next u ∧ u.ctxOf c.who = some c' ∧ Retired c c' (c.nextPc 2) ∧
          (∀ p ∈ (u.core c.core).pennants, p.id ≠ id) ∧ u.groups.find gid = some g ∧
          { t with state := .encoding, encCount := t.encCount + 1 } ∈ g.tapRows)))

/-- What an operation of a pool does to its task (R210 to R212, R340). GQ.INS queues a task with its gain unless it is
RUNNING; GQ.ADD and GQ.MAX fold into PENDING of a RUNNING task and else into GAIN, queueing it at THRESHOLD; GQ.DONE moves
PENDING to GAIN and requeues at THRESHOLD; a pop takes the queued task of largest |GAIN|, the lower index first. -/
def Sys2Proof.Claims.GainQueueTasks : Prop :=
  ∀ (p : Pool) (i : Nat) (x : Task) (v : Word), p.tasks[i]? = some x →
    let only : Pool → Task → Prop := fun q y =>
      { q with tasks := p.tasks } = p ∧ q.tasks[i]? = some y ∧ ∀ j, j ≠ i → q.tasks[j]? = p.tasks[j]?
    (p.state = 1 → x.state ≠ 2 → (p.insert i v).2 = true ∧ only (p.insert i v).1 { x with gain := v, state := 1 }) ∧
    (p.state ≠ 1 ∨ x.state = 2 → p.insert i v = (p, false)) ∧
    (x.state ≠ 2 → p.finish i = .error .gqState) ∧
    (x.state = 2 → ∃ q, p.finish i = .ok (q, p.state == 1) ∧
      only q { x with gain := x.pending, pending := 0
                      state := if p.state = 1 ∧ p.threshold.toNat ≤ x.pending.toNat % 2 ^ 31 then 1 else 3 }) ∧
    (∀ mx, p.state ≠ 1 → p.update mx i v = .ok (p, false)) ∧
    (∀ mx, p.state = 1 →
      let old := if x.state = 2 then x.pending else x.gain
      let new : Word := BitVec.ofNat 32 (if mx then (minmaxNum fp32 true false old.toNat v.toNat).1 else (fadd32 old.toNat v.toNat).1)
      (gqOperand new = none → x.state = 2 → ∃ q, p.update mx i v = .ok (q, true) ∧ only q { x with pending := new }) ∧
      (gqOperand new = none → x.state ≠ 2 → ∃ q, p.update mx i v = .ok (q, true) ∧
        only q { x with gain := new, state := if x.state = 1 ∨ p.threshold.toNat ≤ new.toNat % 2 ^ 31 then 1 else x.state }) ∧
      (∀ r, gqOperand new = some r → p.update mx i v = .error r)) ∧
    (∀ q j g, p.pop = some (q, j, g) → ∃ y, p.tasks[j]? = some y ∧ y.state = 1 ∧ y.gain = g ∧
      (∀ k z, p.tasks[k]? = some z → z.state = 1 →
        z.gain.toNat % 2 ^ 31 < g.toNat % 2 ^ 31 ∨ (z.gain.toNat % 2 ^ 31 = g.toNat % 2 ^ 31 ∧ j ≤ k)) ∧
      q.tasks[j]? = some { gain := 0, pending := 0, runs := min (y.runs + 1) 0xFFFFFFFF, state := 2 })

/-- The gain-queue instructions: refused operands fault; the others do their operation at once, answer in their predicate,
retire, and the pool then serves its sleepers or closes; GQ.POP gives a task, answers false on a closed pool, or sleeps;
GQ.READ and GQ.RESID read. -/
def Sys2Proof.Claims.GainQueueResults : Prop :=
  (∀ (i : Instr) (o : LX) (x : Except Reason (Pool × Bool)) (s : State) (c : Ctx),
    gainOp (s.pool (o.x.imm.toNat % 16)) (c.src.rdG o.w.a.toNat).toNat ((c.src.rdG o.w.b.toNat).setWidth 32) i = some (o, x) →
    c.gang.qpred o.w.g.toNat = true → c.src.qpred o.w.g.toNat = true → s.ctx = some c →
    let k := o.x.imm.toNat % 16
    (gainFolds i = true → c.grp.lines = [] ∧ (∀ b, c.frag.grant ≠ some (.pred b)) ∧ s.unsettled c.who.gid c.who.gang = false ∧
      c.gang.wct ≤ s.now ∧ (s.pool k).held = []) →
    let v := if gainCarries i then some ((c.src.rdG o.w.b.toNat).setWidth 32) else none
    (∀ r, s.gqCheck c k (some (c.src.rdG o.w.a.toNat).toNat) v = some r → exec i s = .next (s.put (c.fault s.now r))) ∧
    (s.gqCheck c k (some (c.src.rdG o.w.a.toNat).toNat) v = none →
      (∀ r, x = .error r → exec i s = .next (s.put (c.fault s.now r))) ∧
      (∀ p b, x = .ok (p, b) → (s.pool k).state = 1 →
        exec i s = .next ((predRetire (s.setPool k p) c 2 o.w.d.toNat b).gqSettle k)))) ∧
  (∀ (o : LX) (s : State) (c : Ctx), c.gang.qpred o.w.g.toNat = true → c.src.qpred o.w.g.toNat = true → s.ctx = some c → c.frag.skip.getLsbD 0 = false →
    c.frag.grant = none →
    let k := o.x.imm.toNat % 16
    let p := s.pool k
    (p.owner ≠ c.lau.func ∨ p.state = 0 → exec (.gqPop o) s = .next (s.put (c.fault s.now .gqPool))) ∧
    (p.owner = c.lau.func → p.state = 2 →
      ∃ t c', exec (.gqPop o) s = .next t ∧ Effect s t c c' ∧ Retired (c.enter s 0) c' (c.nextPc 2) ∧ UPredIs c c' o.w.d.toNat false ∧
        c'.gang.v = c.gang.v ∧ c'.gang.g = c.gang.g) ∧
    (p.owner = c.lau.func → p.state = 1 →
      (∀ q j g, p.pop = some (q, j, g) →
        ∃ c', exec (.gqPop o) s = .next (((s.setPool k q).put c').gqSettle k) ∧ c'.who = c.who ∧ c'.frag.pc = c.nextPc 2 ∧
          (o.w.a ≠ o.w.b → 96 ≤ o.w.a.toNat → 96 ≤ o.w.b.toNat → c'.gang.rdG o.w.a.toNat = BitVec.ofNat 64 j ∧
            c'.gang.rdG o.w.b.toNat = g.setWidth 64) ∧ (o.w.d.toNat < 7 → c'.gang.qpred o.w.d.toNat = true)) ∧
      (p.pop = none → c.lau.rcd.det = false →
        exec (.gqPop o) s = .next ((s.setPool k { p with sleepers := p.sleepers ++ [c.who] }).put (c.sleep (.gqPop k)))))) ∧
  (∀ (o : LR) (s : State) (c : Ctx), c.gang.qpred o.g.toNat = true → s.ctx = some c →
    (let a := (c.gang.rdG o.a.toNat).toNat
     let k := a / 2 ^ 60
     let x := (s.pool k).task (a % 2 ^ 20)
     a / 2 ^ 20 % 2 ^ 40 = 0 → (s.pool k).owner = c.lau.func → (s.pool k).state ≠ 0 → a % 2 ^ 20 < (s.pool k).ntasks →
     96 ≤ o.d.toNat →
     ∃ t c', exec (.gqRead o) s = .next t ∧ Effect s t c c' ∧ Retired c c' (c.nextPc 1) ∧ c.gang.LanesSame c'.gang ∧
       ∀ r, 96 ≤ r → r < 128 → c'.gang.rdG r =
         if r = o.d.toNat + 1 then BitVec.ofNat 64 (x.runs * 2 ^ 32 + x.state)
         else if r = o.d.toNat then BitVec.ofNat 64 (x.gain.toNat * 2 ^ 32 + x.pending.toNat) else c.gang.rdG r) ∧
    (let k := (c.gang.rdG o.d.toNat).toNat
     let p := s.pool k
     k < 16 → p.owner = c.lau.func → p.state ≠ 0 → 96 ≤ o.d.toNat →
     ∃ t c', exec (.gqResid o) s = .next t ∧ Effect s t c c' ∧ Retired c c' (c.nextPc 1) ∧ c.gang.LanesSame c'.gang ∧
       UniformIs c c' o.d.toNat (BitVec.ofNat 64 (encodeNum fp32 { mode := 1, sat := false, r := 0 } (.fin false p.residual (-149))).1) ∧
       UPredIs c c' o.a.toNat (decide (p.residual < mag149 p.tolerance.toNat))))

/-- What follows an operation of an open pool (R211, R214): with no task RUNNING it closes for a residual below TOLERANCE
(reason 1) or for want of queued tasks (reason 2), and its queued tasks are abandoned; otherwise it stays open. -/
def Sys2Proof.Claims.GainQueueClosing : Prop :=
  ∀ (s : State) (k : Nat),
    let p := s.pool k
    let running := p.tasks.any (fun x => x.state == 2)
    (p.state ≠ 1 → s.gqSettle k = s) ∧
    (p.state = 1 → running = false → p.low = true → s.gqSettle k = s.gqClose k 1) ∧
    (p.state = 1 → running = false → p.low = false → p.tasks.any (fun x => x.state == 1) = false → s.gqSettle k = s.gqClose k 2) ∧
    (p.state = 1 → running = true ∨ (p.low = false ∧ p.tasks.any (fun x => x.state == 1) = true) →
      ((s.gqSettle k).pool k).state = 1 ∧ (p.sleepers = [] → s.gqSettle k = s))

/-- KV.FORK, KV.APP, KV.DROP and KV.DROP.FRAME: an operation that is refused faults or waits for a walk, for a line's holder
or for the times of earlier writes, and writes nothing; one that is planned performs all its writes, at the ends of the lines'
serial orders, writes gD where it has a result, and retires or takes its plan's fault once its writes' times have come
(R34, R311). -/
def Sys2Proof.Claims.PagedTensorResults : Prop :=
  ∀ (i : Instr) (o : LX) (x : Except KvStop KvPlan) (s : State) (c : Ctx), kvFor s c i = some (o, x) →
    c.gang.qpred o.w.g.toNat = true → s.ctx = some c → c.frag.skip.getLsbD 0 = false → s.memFull c = false →
    c.olderWaits = false → c.answer = none → (∀ r d0 d1 d2, c.frag.grant ≠ some (.fault r d0 d1 d2)) →
    (s.unsettled c.who.gid c.who.gang = true → exec i s = .next (s.put (c.stall .settle))) ∧
    (s.unsettled c.who.gid c.who.gang = false →
      (∀ r d, x = .error (.bad r d) → exec i s = .next (s.put (c.fault s.now r d))) ∧
      (∀ va acc, x = .error (.walk va acc) → exec i s = .next
        (s.stallWalk c { who := c.who, func := c.lau.func, aspace := c.lau.aspace, va := va, kind := acc })) ∧
      (∀ l, x = .error (.line l) → ∃ t c', exec i s = .next t ∧ t.ctxOf c.who = some c' ∧ t.mem = s.mem ∧
        c'.frag = { c.frag with state := .stalled .settle, code := none }) ∧
      (∀ u, x = .error (.until u) → exec i s = .next (s.put (c.stall (.until u)))) ∧
      (∀ p, x = .ok p →
        ∃ t c', exec i s = .next t ∧ t.ctxOf c.who = some c' ∧ t.mem = s.mem ∧ t.nextIns = s.nextIns + 1 ∧ c'.gang.v = c.gang.v ∧
          (p.fault = none → c'.frag.pc = c.nextPc 2 ∧
            (c'.frag.state = .eligible ∨ ∃ u, s.now < u ∧ c'.frag.state = .stalled (.until u)) ∧
            ∀ r, 96 ≤ r → r < 128 → c'.gang.rdG r =
              match p.result with
              | some n => if r = o.w.d.toNat ∧ 96 ≤ o.w.d.toNat then BitVec.ofNat 64 n else c.gang.rdG r
              | none => c.gang.rdG r) ∧
          (∀ r d, p.fault = some (r, d) → c'.frag.pc = c.frag.pc ∧ c'.gang.g = c.gang.g ∧
            ((∃ rec, c'.frag.state = .faulted rec none ∧ rec.reason = r) ∨
              ∃ u, s.now < u ∧ c'.frag.state = .stalled (.until u) ∧ c'.frag.grant = some (.fault r d.d0 d.d1 d.d2)))))

/-- A KV.APP that needs a frame, while TOP is 0, faults with POOL_EMPTY and changes nothing else. -/
def Obligations.EmptyPoolFault : Prop :=
  ∀ (o : LX) (s : State) (c : Ctx) (h : ListHead) (p : PoolDesc) (pool hpa : Nat) (eb : List Byte),
    let list := (c.gang.rdG o.w.a.toNat).toNat
    let row := (c.gang.rdG o.w.b.toNat).toNat
    let per := 2 ^ h.pageLog2
    let entry := list + 8 + 4 * (h.tokens / per)
    c.gang.qpred o.w.g.toNat = true → s.ctx = some c → c.frag.skip.getLsbD 0 = false → s.memFull c = false →
    c.olderWaits = false → c.answer = none → (∀ r d0 d1 d2, c.frag.grant ≠ some (.fault r d0 d1 d2)) →
    s.unsettled c.who.gid c.who.gang = false →
    list % 8 = 0 → row % 16 = 0 → inAperture list = false → (s.aperture c row 1).map Prod.fst = some c.who.gid →
    s.kvHeader c list = .ok (h, pool, false) → h.tokens < h.cap * per → s.kvPa c .write (list + 4) = .ok hpa →
    s.kvLoad c entry 4 = .ok eb → s.kvDesc c pool = .ok (p, false) → p.top = 0 →
    (s.aperture c row (2 ^ (p.frameLog2 - h.pageLog2))).isSome = true →
    (∀ epa, leNat eb = noFrame → h.tokens % per = 0 → s.kvPa c .write entry = .ok epa →
      ∃ d, exec (.kvApp o) s = .next (s.put (c.fault s.now .poolEmpty d))) ∧
    (leNat eb ≠ noFrame → leNat eb < p.nframes → ∀ cs, s.kvCounts c p .read [leNat eb] = .ok cs → countsOk cs = true →
      2 ≤ countOf cs (leNat eb) → ∃ d, exec (.kvApp o) s = .next (s.put (c.fault s.now .poolEmpty d)))

/-- The counts that a KV.DROP leaves (R35, R372): each frame's COUNT goes down once for each entry that names it, and the
frames whose COUNT reaches 0 are pushed, each once. -/
def Sys2Proof.Claims.DroppedCounts : Prop :=
  ∀ (frames : List Nat) (cs : List (Nat × Nat × Nat)),
    (∀ f ∈ frames, ∃ x ∈ cs, x.1 = f) → (∀ f ∈ frames, frames.count f ≤ countOf cs f) →
    let r := dropCounts frames cs
    r.2.2 = none ∧ r.2.1.Nodup ∧
    (∀ f, countOf r.1 f = countOf cs f - frames.count f) ∧
    (∀ f, f ∈ r.2.1 ↔ f ∈ frames ∧ frames.count f = countOf cs f) ∧
    ∀ f, countPa r.1 f = countPa cs f

namespace Sys2Proof.Claims
open Sys2Proof.Machine

/-! ## The steps of units -/

/-- The time that a home slice gives a write that reaches a line now with a marker (R49). -/
def timeAt (s : State) (line marker : Nat) : Nat :=
  max (max s.now (s.recOf line).lmax) (max (s.recOf line).tlast marker)

/-- A lease on a line read now ends after the function's lease, or with the first waiting write of the line (R50). -/
def LeaseEnd (s : State) (line func e : Nat) : Prop :=
  e ≤ s.now + (s.fn func).lease ∧ (∀ p ∈ s.pending, p.onLine line = true → s.now < p.t → e ≤ p.t) ∧
  (e = s.now + (s.fn func).lease ∨ ∃ p ∈ s.pending, p.onLine line = true ∧ s.now < p.t ∧ e = p.t)

/-- A request is on its way to a home slice that takes it: none holds its line, no earlier one of its gang must come first,
and its address still stands. -/
def Arrives (s : State) (r : Req) : Prop :=
  r.stage = .flight ∧ r.region ≠ 4 ∧ s.lineHeld r.line = false ∧ s.behind r = false ∧ s.badAt r = none

/-- Every gang that sent a part of a request has a %wct of at least T. -/
def WctAtLeast (t : State) (r : Req) (T : Nat) : Prop :=
  ∀ p ∈ r.parts, ∀ (w : Who) (g : Gang), p.who = some w → t.gangAt w.gid w.gang = some g → T ≤ g.wct

end Sys2Proof.Claims

/-- What a home slice does with a write that reaches it (R22, R49, R53, R54): a store, a grant of ownership or an atomic
takes the time that R49 gives and its place at the end of the serial order; a release atomic before its marker is held and
takes its time when the marker has come; a write to the alias view becomes one of elements and scale; a request whose address
an entry in ALIAS mode covers by now, or whose data is uncorrectable, fails there (R24, R234); one to host memory goes on to the
host, a release atomic once its marker has come (R39). -/
def Obligations.HomeSliceWrites : Prop :=
  ∀ (id : Nat) (s : State) (r : Req), s.req id = some r →
    let one : Nat → List Byte → Option Rmw → Nat → Pending := fun pa d x T =>
      { id := r.id, ins := r.ins, func := r.func, view := none, pa := pa, data := d, rmw := x, t := T, gangs := r.gangKeys }
    (Arrives s r → r.kind = .store → r.region ≠ 1 → (s.recOf r.line).owner = none →
      let T := timeAt s r.line 0
      ∃ t, exec (.homeSliceWrite id) s = .next t ∧ t.mem = s.mem ∧ t.reqs = s.reqs.filter (fun q => q.id != id) ∧
        t.pending = s.pending ++ r.parts.map (fun p => one p.pa p.data none T) ∧
        t.lineRec r.line = some { s.recOf r.line with tlast := T } ∧ WctAtLeast t r T) ∧
    (∀ e, r.stage = .flight → r.region ≠ 4 → r.isLoad = false → s.lineHeld r.line = false → s.behind r = false → s.badAt r = some e →
      ∃ t, exec (.homeSliceWrite id) s = .next t ∧ t.req id = some { r with stage := .bad e } ∧ t.mem = s.mem ∧
        t.pending = s.pending ∧ t.groups = s.groups) ∧
    (r.stage = .flight → r.region = 4 → r.isLoad = false → s.lineHeld r.line = false → s.behind r = false → r.marker ≤ s.now →
      ∃ t, exec (.homeSliceWrite id) s = .next t ∧ t.req id = some { r with stage := .sent } ∧ t.out = s.out ++ r.hostOut ∧
        t.mem = s.mem ∧ t.pending = s.pending ∧ t.groups = s.groups) ∧
    (∀ k va, Arrives s r → r.kind = .own k va →
      ((s.recOf r.line).owner = none ∨ ∃ w, r.who = some w ∧ (s.recOf r.line).owner = some w.gid) →
      let T := timeAt s r.line 0
      ∃ t, exec (.homeSliceWrite id) s = .next t ∧ t.req id = some { r with stage := .timed T } ∧
        t.lineRec r.line = some { s.recOf r.line with tlast := T } ∧ t.mem = s.mem ∧ t.pending = s.pending ∧ t.groups = s.groups) ∧
    (∀ op ty rel acq, r.kind = .atomic op ty rel acq →
      (Arrives s r → rel = true → s.now < r.marker →
        (s.reqs.filter (fun q => q.stage == .heldRel && s.homeOf q.line == s.homeOf r.line)).length < 64 →
        ∃ t, exec (.homeSliceWrite id) s = .next t ∧ t.req id = some { r with stage := .heldRel } ∧ t.pending = s.pending ∧
          t.mem = s.mem ∧ t.groups = s.groups ∧ t.lines = s.lines) ∧
      (∀ i p ps, (i = .homeSliceWrite id ∧ Arrives s r ∧ (rel = false ∨ r.marker ≤ s.now)) ∨
          (i = .relAtomicRelease id ∧ r.stage = .heldRel ∧ r.region ≠ 4 ∧ s.badAt r = none ∧ r.marker ≤ s.now) →
        r.parts = p :: ps → (s.recOf r.line).owner = none →
        let T := timeAt s r.line r.marker
        ∃ t, exec i s = .next t ∧ t.req id = some { r with stage := .timed T } ∧ t.mem = s.mem ∧
          t.pending = s.pending ++ [one p.pa (List.replicate (tyBytes ty) 0) (some { op := op, ty := ty, opnd := r.total, cmp := p.cmp }) T] ∧
          t.lineRec r.line = some { s.recOf r.line with tlast := T } ∧ WctAtLeast t r T)) ∧
    (∀ e p, Arrives s r → r.kind = .store → r.region = 1 → s.mxAt (r.line * 64 % 2 ^ 44) = some e → r.parts = [p] →
      let T := timeAt s r.line 0
      let b := (r.line * 64 % 2 ^ 44 - e.view) / 64
      let new := e.rewrite s.last b (fun k => if p.pa ≤ r.line * 64 + k then p.data[r.line * 64 + k - p.pa]? else none)
      ∃ t, exec (.mxAliasWrite id) s = .next t ∧ t.mem = s.mem ∧ t.reqs = s.reqs.filter (fun q => q.id != id) ∧
        t.pending = s.pending ++ [{ one (e.packed + e.elBytes * b) new.1 none T with id := s.nextId, view := some r.line },
          { one (e.scale + b) [new.2] none T with id := s.nextId, view := some r.line }] ∧
        t.lineRec r.line = some { s.recOf r.line with tlast := T } ∧ WctAtLeast t r T)

/-- Writes become visible at their T (R49, R53, R57, R58): the bytes of a store, or the value of an atomic, whose
requesters then each receive the value before their own part; an armed monitor of a written line whose comparison holds is
used up and its gang goes on. -/
def Sys2Proof.Claims.WritesAtTheirTime : Prop :=
  (∀ (p : Pending) (m : Memory) (a : Nat),
    (p.rmw = none → SMap.get 0 (p.apply m) a =
      if p.pa ≤ a ∧ a < p.pa + p.data.length then p.data.getD (a - p.pa) 0 else SMap.get 0 m a) ∧
    (∀ x, p.rmw = some x → x.ty ≤ 8 →
      let n := tyBytes x.ty
      let new := atomNew x.op x.ty (leNat (m.bytes p.pa n)) (x.opnd.toNat % 2 ^ (8 * n)) (x.cmp.toNat % 2 ^ (8 * n))
      SMap.get 0 (p.apply m) a =
        if p.pa ≤ a ∧ a < p.pa + n then BitVec.ofNat 8 (new / 2 ^ (8 * (a - p.pa))) else SMap.get 0 m a)) ∧
  (∀ (id : Nat) (s : State) (p : Pending) (ps : List Pending), s.pendOf id = p :: ps → p.t ≤ s.now → s.pendFirst id = true →
    let done : State → Prop := fun t =>
      t.mem = (p :: ps).foldl (fun m q => q.apply m) s.mem ∧ t.pending = s.pending.filter (fun q => q.id != id) ∧ t.now = s.now ∧
      ∀ m ∈ s.monitors, m.slice ≠ 64 → (∃ q ∈ p :: ps, q.onLine (lineOf m.pa) = true ∧ m.since < q.t) →
        monHolds m.rel m.ty (leNat (t.bytesIn t.mem m.pa (tyBytes m.ty))) m.value = true →
        m ∉ t.monitors ∧ ∀ w f, m.who = .frag w → t.fragOf w = some f → f.state = .eligible ∨ ∃ x e, f.state = .faulted x e
    (p.rmw = none → ∃ t, exec (.writeVisible id) s = .next t ∧ done t ∧ t.reqs = s.reqs) ∧
    (∀ r x, s.req id = some r → p.rmw = some x → s.ecc.contains (lineOf p.pa) = true →
      ∃ t, exec (.atomicPerform id) s = .next t ∧ t.req id = some { r with stage := .bad .uncorrectable } ∧ t.mem = s.mem ∧
        t.pending = s.pending.filter (fun q => q.id != id)) ∧
    (∀ r x, s.req id = some r → p.rmw = some x → s.ecc.contains (lineOf p.pa) = false →
      ∃ t, exec (.atomicPerform id) s = .next t ∧ done t ∧
        t.req id = some { r with stage := .performed, old := BitVec.ofNat 64 (leNat (s.mem.bytes p.pa p.data.length)) })) ∧
  (∀ (id op ty : Nat) (rel acq : Bool) (s : State) (r : Req), s.req id = some r → r.kind = .atomic op ty rel acq → r.stage = .performed →
    ∃ t, exec (.atomicReturn id) s = .next t ∧ t.reqs = s.reqs.filter (fun q => q.id != id) ∧ t.mem = s.mem ∧
      (∀ p w g, r.parts = [p] → p.who = some w → s.gangAt w.gid w.gang = some g →
        t.gangAt w.gid w.gang = some (g.wrOld ty p.lane p.dst (splitOld op ty r.old.toNat p.pre)))) ∧
  (∀ (i j op ty ta tb router : Nat) (rel acq acq' : Bool) (s : State) (a b : Req),
    s.req i = some a → s.req j = some b → i ≠ j → a.kind = .atomic op ty rel acq → b.kind = .atomic op ty rel acq' → op < 7 →
    a.stage = .merging ta router → b.stage = .merging tb router → a.arrived b router ta tb = true → a.func = b.func →
    a.aspace = b.aspace → a.parts.head?.map ReqPart.pa = b.parts.head?.map ReqPart.pa →
    a.det = false → b.det = false → a.region ≠ 4 → s.behind a = false → s.behind b = false →
    ∃ t, exec (.routerMerge i j) s = .next t ∧ t.req j = none ∧ t.mem = s.mem ∧ t.pending = s.pending ∧ t.groups = s.groups ∧
      t.req i = some { a with
        kind := .atomic op ty rel (acq || acq'), stage := s.passRouter a router, marker := max a.marker b.marker
        total := BitVec.ofNat 64 (atomNew op ty a.total.toNat b.total.toNat 0)
        parts := a.parts ++ b.parts.map (fun p => { p with pre := a.total :: p.pre }) }) ∧
  (∀ (id t0 router : Nat) (s : State) (r : Req), s.req id = some r → r.stage = .merging t0 router → t0 + 8 ≤ s.now →
    ∃ t, exec (.mergeHoldExpiry id) s = .next t ∧ t.req id = some { r with stage := s.passRouter r router } ∧ t.mem = s.mem ∧ t.groups = s.groups)

/-- A read at a home slice gives its register the bytes visible then and takes a lease; ownership of a window line brings
the line's bytes with the stalled store's; a writeback sends a line's dirty bytes with one T; a dropped record leaves its
L_MAX in LEASE_HORIZON (R44, R45, R48, R50). -/
def Sys2Proof.Claims.LinesAndLeases : Prop :=
  (∀ (id size : Nat) (sg : Bool) (fill : Fill) (s : State) (r : Req), s.req id = some r → r.kind = .load size sg fill →
    Arrives s r → s.ownPending r = false → (s.recOf r.line).owner = none →
    (∀ k va w g, fill = .window k va → r.who = some w → s.groups.find w.gid = some g → (g.lines.find k).map SLine.own ≠ some true) →
    ∃ t e, exec (.homeSliceRead id) s = .next t ∧ LeaseEnd s r.line r.func e ∧ t.mem = s.mem ∧ t.pending = s.pending ∧
      t.reqs = s.reqs.filter (fun q => q.id != id) ∧
      (∀ p w g, r.parts = [p] → p.who = some w → s.gangAt w.gid w.gang = some g →
        t.gangAt w.gid w.gang = some (g.wrLoaded p.lane p.dst p.off size sg
          (((s.bytesIn s.vis (r.line * 64) 64).drop (p.pa % 64)).take p.data.length))) ∧
      (s.now < e → t.lineRec r.line = some { s.recOf r.line with lmax := max (s.recOf r.line).lmax e }) ∧
      (e ≤ s.now → t.lines = s.lines) ∧
      (∀ w, s.now < e → fill = .readBuffer → r.who = some w →
        (t.core (coreOf w.gid)).rbuf.getLast? = some (rbufTag r.func r.aspace r.line, e))) ∧
  (∀ (id k va t0 : Nat) (s : State) (r : Req) (w : Who) (g : Group) (p : ReqPart), s.req id = some r → r.kind = .own k va →
    r.stage = .timed t0 → t0 ≤ s.now → (∀ q ∈ s.pending, q.onLine r.line = true → q.t ≤ s.now) → r.who = some w →
    s.groups.find w.gid = some g → s.oldXlate r = false → g.windowAt va = some (k * 64) → (g.lines.find k).map SLine.own ≠ some true →
    r.parts = [p] → p.pa % 64 + p.data.length ≤ 64 →
    ∃ t g' l, exec (.ownershipGrant id) s = .next t ∧ t.groups.find w.gid = some g' ∧ g'.lines.find k = some l ∧
      l.pa = r.line * 64 ∧ l.own = true ∧ (t.recOf r.line).owner = some w.gid ∧ t.mem = s.mem ∧
      t.reqs = s.reqs.filter (fun q => q.id != id) ∧
      ∀ j, j < 64 →
        let mine := decide (p.pa % 64 ≤ j) && decide (j < p.pa % 64 + p.data.length)
        SMap.get 0 g'.stash (k * 64 + j) = (if mine then p.data.getD (j - p.pa % 64) 0 else s.byteIn s.vis (r.line * 64 + j)) ∧
        SMap.find l.dirty j = if mine then some (p.data.getD (j - p.pa % 64) 0) else none) ∧
  (∀ (gid k : Nat) (s : State) (g : Group) (l : SLine), s.groups.find gid = some g → g.lines.find k = some l → l.dirty ≠ [] →
    let T := timeAt s (lineOf l.pa) 0
    ∃ t g' new, exec (.stashWriteback gid k) s = .next t ∧ t.groups.find gid = some g' ∧ g'.lines.find k = some { l with dirty := [] } ∧
      t.pending = s.pending ++ new ∧ (∀ q ∈ new, q.t = T ∧ q.rmw = none) ∧ (∀ x ∈ g'.gangs, T ≤ x.wct) ∧ g'.stash = g.stash ∧
      ∀ x ∈ l.dirty, ∃ q ∈ new, q.pa ≤ l.pa + x.1 ∧ q.data[l.pa + x.1 - q.pa]? = some x.2) ∧
  (∀ (line : Nat) (s : State) (r : LineRec), s.lineRec line = some r → r.owner = none → r.tlast ≤ s.now →
    ∃ t, exec (.leaseRecordDrop line) s = .next t ∧ t.lineRec line = none ∧ t.mem = s.mem ∧ t.groups = s.groups ∧
      (t.slice (s.homeOf line)).horizon = max (s.slice (s.homeOf line)).horizon r.lmax)

/-- A page walk ends the misses of its 64 KiB window on its die (R28, R30, R31): a leaf is kept by the caches of the core and
its die (log 99), and where it grants the access, the access goes on; a fault that cannot be mended stops it, and NOT_PRESENT or
PERMISSION parks it in the die's fault queue; and the waits that a tick ends: for %wct (R49) and of a WAITCMP without an
entry (R59, R305). -/
def Sys2Proof.Claims.WalksAndWaits : Prop :=
  (∀ (i : Nat) (s : State) (w : Walk) (f : Frag),
    let tr := coreOf w.who.gid
    let same : Walk → Bool := fun x => x.same w && dieOf (coreOf x.who.gid) == dieOf tr
    let s1 := State.walkReads { s with walks := s.walks.filter (fun x => !same x) } tr w.func w.aspace w.va
    let leaf := s1.walk tr w.func w.aspace w.va
    s.walks[i]? = some w → s.walks.filter same = [w] → (s.walking (dieOf tr)).any w.same = true → s.fragOf w.who = some f →
    f.state = .stalled .walk →
    ∃ t, exec (.pageWalk i) s = .next t ∧ t.walks = s.walks.filter (fun x => !same x) ∧ t.mem = s.mem ∧
      (∀ pa r x y, leaf = .page pa r x y →
        (∀ k ∈ [192 + dieAt tr, 2 * tr, 2 * tr + 1], ∃ e ∈ t.tlb, e.hit k 4 w.func w.aspace w.va = true ∧
          e.pa = pa ∧ e.r = r ∧ e.w = x ∧ e.x = y) ∧
        (accOk w.kind r x y = true → t.fragOf w.who = some { f with state := .eligible, grant := none })) ∧
      (∀ r, leaf = .bad r → r ≠ .notPresent → r ≠ .permission →
        t.fragOf w.who = some { f with state := .eligible, grant := some (.walkFault r w.va) } ∧ t.xrecs = s.xrecs) ∧
      (∀ r, (leaf = .bad r ∧ (r = .notPresent ∨ r = .permission)) ∨
          (r = .permission ∧ ∃ pa x y z, leaf = .page pa x y z ∧ accOk w.kind x y z = false) →
        let die := dieOf tr
        (∀ q ∈ s.xrecs, ¬ (q.die = die ∧ q.func = w.func ∧ q.aspace = w.aspace ∧ q.page = w.va / 65536)) →
        ((s.xrecs.filter (fun q => q.die == die)).length < Config.faultQueue →
          t.fragOf w.who = some { f with state := .stalled .parked } ∧
          ∃ q, t.xrecs = s.xrecs ++ [q] ∧ q.die = die ∧ q.func = w.func ∧ q.aspace = w.aspace ∧ q.page = w.va / 65536 ∧
            q.kinds = BitVec.ofNat 5 (2 ^ w.kind.kind) ∧ q.parked = [(.frag w.who, r, w.va)]) ∧
        (Config.faultQueue ≤ (s.xrecs.filter (fun q => q.die == die)).length →
          t.fragOf w.who = some { f with state := .stalled (.rewalk (s.now + 4096)) } ∧ t.xrecs = s.xrecs ∧
          (t.die die).fqOverflow = (s.die die).fqOverflow + 1))) ∧
  (∀ (w : Who) (due : Nat) (x : Bool) (s : State) (f : Frag), s.fragOf w = some f → f.state = .stalled (.wct due x) → due ≤ s.now →
    ∃ t, exec (.wctWaitEnd w) s = .next t ∧ { t with groups := s.groups } = s ∧
      t.fragOf w = some { f with state := .eligible, grant := some .passed }) ∧
  (∀ (w : Who) (due : Nat) (s : State) (f : Frag) (m : Monitor),
    let s1 : State := { s with monitors := s.monitors.filter (fun x => x.who != Waiter.frag w) }
    s.fragOf w = some f → f.state = .sleeping (.monitorFull due) → due ≤ s.now →
    s.monitors.find? (fun m => m.who == Waiter.frag w && m.slice == 64) = some m →
    ∃ t, exec (.monitorFallback w) s = .next t ∧ t.monitors = s1.monitors ∧ t.mem = s.mem ∧
      (regionOf m.pa ≠ 4 → t.reqs = s.reqs ∧ t.fragOf w = some { f with
        state := .eligible
        grant := some (.pred (monHolds m.rel m.ty ((s1.monitorRead w.gid m.pa).readVis m.pa (tyBytes m.ty)) m.value)) }) ∧
      (regionOf m.pa = 4 → t.fragOf w = some { f with state := .stalled .hostRead } ∧
        ∃ r, t.reqs = s.reqs ++ [r] ∧ r.kind = .compare m.ty m.rel m.value ∧ r.who = some w ∧ r.parts.map ReqPart.pa = [m.pa]))

/-- The host's answers and accesses (R39, R305, R384, R385): an acknowledgement's arrival is the T of the write; a read's
bytes go to their register, end a WAITCMP or are an atomic's old value; BAR2 reads, writes and operates on address space
0, and is aborted where translation fails or before firmware is accepted (R402). -/
def Sys2Proof.Claims.HostAccesses : Prop :=
  (∀ (id : Nat) (s : State) (r : Req), s.req id = some r → r.stage = .sent → r.kind = .store ∨ r.kind = .unit →
    ∃ t, exec (.hostWriteAck id) s = .next t ∧ t.reqs = s.reqs.filter (fun q => q.id != id) ∧ Claims.WctAtLeast t r s.now ∧
      t.mem = s.mem ∧ t.pending = s.pending) ∧
  (∀ (id : Nat) (data : List Byte) (s : State) (r : Req), s.req id = some r → r.stage = .sent →
    (∀ size sg fill, r.kind = .load size sg fill →
      ∃ t, exec (.hostReadCompletion id data) s = .next t ∧ t.reqs = s.reqs.filter (fun q => q.id != id) ∧ t.mem = s.mem ∧
        ∀ p w g, r.parts = [p] → p.who = some w → s.gangAt w.gid w.gang = some g →
          t.gangAt w.gid w.gang = some (g.wrLoaded p.lane p.dst p.off size sg ((data.drop (p.pa % 64)).take p.data.length))) ∧
    (∀ ty rel v w p f, r.kind = .compare ty rel v → r.who = some w → r.parts = [p] → s.fragOf w = some f →
      let holds := monHolds rel ty (leNat ((data.drop (p.pa % 64)).take (tyBytes ty))) v
      ∃ t, exec (.hostReadCompletion id data) s = .next t ∧ t.reqs = s.reqs.filter (fun q => q.id != id) ∧ t.mem = s.mem ∧
        (f.state = .stalled .hostRead → t.fragOf w = some { f with state := .eligible, grant := some (.pred holds) }) ∧
        (f.state = .sleeping .mirror → holds = true → t.fragOf w = some { f with state := .eligible, grant := some (.pred true) }) ∧
        (f.state = .sleeping .mirror → holds = false →
          t.fragOf w = some { f with state := .sleeping (.mirrorFull (s.now + 2048)) } ∧ t.monitors = s.monitors)) ∧
    (∀ op ty rel acq, r.kind = .atomic op ty rel acq →
      ∃ t, exec (.hostReadCompletion id data) s = .next t ∧ Claims.WctAtLeast t r s.now ∧
        t.req id = some { r with stage := .performed, old := BitVec.ofNat 64 (leNat data) })) ∧
  (∀ (func va : Nat) (a : HostAccess) (data : List Byte) (s : State), func ≤ Config.physFn → va < 2 ^ 36 →
    let abort : State := { s with out := s.out ++ [Output.bar2 func none] }
    (s.trust.accepted = false → exec (.hostBar2Access func va a data) s = .next abort) ∧
    (s.trust.accepted = true →
      (a = .write →
        (∀ r, s.unitStore func 0 none va data = .ok r →
          exec (.hostBar2Access func va a data) s = .next { r.1 with out := r.1.out ++ [Output.bar2 func (some [])] }) ∧
        (∀ e, s.unitStore func 0 none va data = .error e → exec (.hostBar2Access func va a data) s = .next abort)) ∧
      (∀ len, a = .read len →
        (∀ pa, s.xl ioPlace func 0 va .read = .ok pa → regionOf pa ≠ 4 → va % 65536 + len ≤ 65536 → 0 < len → s.ecc = [] →
          s.Quiet →
          ∃ t, exec (.hostBar2Access func va a data) s = .next t ∧ t.mem = s.mem ∧ t.groups = s.groups ∧
            t.out = s.out ++ [Output.bar2 func (some (s.bytesIn s.vis pa len))]) ∧
        (∀ e, s.unitLoad func 0 va len .read = .error e → exec (.hostBar2Access func va a data) s = .next abort)) ∧
      (∀ op ty opnd cmp, a = .atomic op ty opnd cmp →
        (hostAtomOk op ty = false ∨ va % tyBytes ty ≠ 0 → exec (.hostBar2Access func va a data) s = .next abort) ∧
        (∀ pa, hostAtomOk op ty = true → va % tyBytes ty = 0 → s.xl ioPlace func 0 va .atomic = .ok pa → s.ecc = [] →
          ∃ t r, exec (.hostBar2Access func va a data) s = .next t ∧ t.mem = s.mem ∧ t.reqs = s.reqs ++ [r] ∧
            r.kind = .atomic op ty false false ∧ r.func = func ∧ r.parts.map ReqPart.pa = [pa] ∧
            r.total = BitVec.ofNat 64 opnd ∧ r.parts.map ReqPart.cmp = [BitVec.ofNat 64 cmp]))))

namespace Sys2Proof.Claims
open Sys2Proof.Machine

/-- A number of a context is complete: at or below COUNT, or noted above it (R81). -/
def Finished (t : State) (x : CtxRef) (n : Nat) : Prop := n ≤ (t.counter x).count ∨ n ∈ (t.counter x).done

/-- A command's carried %wct has passed and nothing parks it. -/
def CmdReady (s : State) (core id : Nat) (x : Cmd) : Prop :=
  (s.core core).cmd id = some x ∧ x.parked = false ∧ s.carried x.who x.ins x.wct = true

/-- The core and the command that wait for the contributions of a collective context. -/
def redWaiting (s : State) (f k : Nat) : Option (Nat × Cmd) :=
  s.cores.findSome? (fun c => (c.2.queue.find? (fun x => x.ctx == .coll f k && x.stage == .walking)).map (fun x => (c.1, x)))

/-- A pass whose results are all there: 24 clk after its slots, at once for one without rows (R110). -/
def passOver (s : State) (core : Nat) (r : Rsv) : Bool :=
  !r.load && r.slotsOver (s.clkOf core) &&
    (match r.stage with
     | .running due => decide (due + (if r.rows = 0 then 0 else 24) ≤ s.clkOf core)
     | _ => false)

/-- The arbiter may grant a pass: it is eligible, and a pair's follower serves no other leader and has a place for its hold
(R115, R117, R118). -/
def Grantable (s : State) (core : Nat) (r : Rsv) : Prop :=
  r ∈ (s.core core).rsvs ∧ s.passTurn core r = true ∧ s.holdOk core r = true

/-- The bytes of one page that a unit's access at a place covers: its translation is cached there, none of them is
uncorrectable, and nothing stands in the access's way. -/
def PlainPage (s : State) (tr func aspace va : Nat) (acc : Access) (n pa : Nat) : Prop :=
  0 < n ∧ va % 65536 + n ≤ 65536 ∧ s.xl tr func aspace va acc = .ok pa ∧ s.ecc = [] ∧ s.Quiet ∧
  ∀ i, i < n → regionOf (pa + i) = 0

end Sys2Proof.Claims

/-- One iteration of a walk (R69, R70, R71): of a load, the run's bytes as they are visible, or the fill byte for padding, at
its offset into the window; of a store, the window's bytes at its address, at the ends of the lines' serial orders; above the
valid count, nothing. The element of an index vector is read once, as its LOOP's iteration begins (R74). -/
def Sys2Proof.Claims.WalkIterations : Prop :=
  ∀ (s : State) (l : Launch) (x : Cmd) (i : Nat) (g : Group), s.groups.find x.who.gid = some g →
    let run := runOf x.prog
    let x1 : Cmd := { x with idx := g.indexIn x.prog i x.idx }
    let off := srcOffIn x.prog i x1.idx
    let src := (x.winOff : Int) + off
    let dst := (x.winOff : Int) + dstOff x.prog i
    let here := Claims.PlainPage s (coreOf x.who.gid) l.func l.aspace
    (x.idx = [] → off = g.srcOff x.prog i) ∧
    (∀ y, x.idx.find? (fun z => z.1 == y.1 && z.2.1 == iterNo x.prog i y.1) = some y →
      (loopsOf x.prog).any (fun z => z.1 == y.1) = true → (indexFor x.prog y.1).isSome = true → y ∈ x1.idx) ∧
    (underCount x.prog x.vcount i = false → s.walkIter l x i = .ok (s, x1)) ∧
    (underCount x.prog x.vcount i = true → x.op = 0x50 ∨ x.op = 0x53 → run ≤ x.win.2 →
      (∀ pa, padded x.prog i = false → inAperture (vaAt x.ga off) = false → here (vaAt x.ga off) .read run pa →
        ∃ t g', s.walkIter l x i = .ok (t, x1) ∧ t.groups.find x.who.gid = some g' ∧ t.mem = s.mem ∧ t.pending = s.pending ∧
          (∀ j, j < run → SMap.get 0 g'.stash (winAt x.win (dst + (j : Int))) = SMap.get 0 s.vis (pa + j)) ∧
          ∀ a, (∀ j, j < run → a ≠ winAt x.win (dst + (j : Int))) → SMap.get 0 g'.stash a = SMap.get 0 g.stash a) ∧
      (padded x.prog i = true →
        ∃ t g', s.walkIter l x i = .ok (t, x1) ∧ t.groups.find x.who.gid = some g' ∧ t.mem = s.mem ∧
          ∀ j, j < run → SMap.get 0 g'.stash (winAt x.win (dst + (j : Int))) = BitVec.ofNat 8 (x.gw.toNat / 2 ^ 56))) ∧
    (underCount x.prog x.vcount i = true → x.op = 0x51 → x.acc = false → padded x.prog i = false →
      inAperture (vaAt x.ga (dstOff x.prog i)) = false →
      ∀ pa, here (vaAt x.ga (dstOff x.prog i)) .write run pa →
        ∃ t y, s.walkIter l x i = .ok (t, y) ∧ t.mem = s.mem ∧ y.pos = x.pos ∧ y.flags = x.flags ∧ y.idx = x1.idx ∧ x.due ≤ y.due ∧
          (∀ q ∈ t.pending, q ∈ s.pending ∨ q.t ≤ y.due) ∧
          (∀ j, j < run → SMap.get 0 t.last (pa + j) = SMap.get 0 g.stash (winAt x.win (src + (j : Int)))) ∧
          ∀ a, (a < pa ∨ pa + run ≤ a) → SMap.get 0 t.last a = SMap.get 0 s.last a)

/-- The engine's steps (R65, R66, R73, R74, R76, R79, R81): a queued command takes a free slot that no fetch of
the matrix engine waits for (R72); an active one whose settled
%wct has passed and whose lines no earlier command has still to write walks to its end or stops at the first failure, a ring
command waiting for its permit; a permit counts once the loads before it have returned; a command that has finished leaves
the queue, its flags come into %fsticky, its number completes and its barrier receives an arrival. -/
def Sys2Proof.Claims.EngineSteps : Prop :=
  (∀ (core : Nat) (s : State) (x : Cmd), (s.core core).queue.find? (fun y => y.stage == .queued) = some x → s.slotFree core = true →
    (s.fetchWaits core = true → exec (.engineSlotStart core) s = .next s) ∧
    (s.fetchWaits core = false →
      ∃ t, exec (.engineSlotStart core) s = .next t ∧ { t with cores := s.cores } = s ∧
        (t.core core).cmd x.id = some { x with stage := .active } ∧
        ∀ y ∈ (s.core core).queue, y.id ≠ x.id → y ∈ (t.core core).queue)) ∧
  (∀ (core id : Nat) (s : State) (x : Cmd) (g : Group) (l : Launch), Claims.CmdReady s core id x → s.grpOf x.who.gid = some (g, l) →
    (∀ f k, x.ctx ≠ .coll f k) →
    (x.stage = .active → x.ring = true →
      ∃ t, exec (.engineWalkStart core id) s = .next t ∧ (t.core core).cmd id = some { x with stage := .permit } ∧
        t.groups = s.groups ∧ t.mem = s.mem) ∧
    (∀ i, i = .engineWalkStart core id → s.linesTurn core x = true → x.stage = .walking ∨ (x.stage = .active ∧ x.ring = false) →
      let w := State.walkFrom l (itersOf x.prog - x.pos) s x
      (w.2.2 = none → ∃ t, exec i s = .next t ∧ t.groups = w.1.groups ∧ t.pending = w.1.pending ∧
        (t.core core).cmd id = some { w.2.1 with stage := .finishing (max w.2.1.due s.now) }) ∧
      (∀ r a, w.2.2 = some (r, a) → r ≠ .notPresent → r ≠ .permission →
        ∃ t, exec i s = .next t ∧ (t.core core).cmd id =
          some { w.2.1 with stage := .finishing (max w.2.1.due s.now), err := some r, addr := a }) ∧
      (∀ r a, w.2.2 = some (r, a) → r = .notPresent ∨ r = .permission →
        ∃ t n, exec i s = .next t ∧ (t.core core).cmd id = some { w.2.1 with stage := .walking, parked := true, wct := n }))) ∧
  (∀ (core id : Nat) (s : State) (x : Cmd) (g : Group) (l : Launch), (s.core core).cmd id = some x → s.grpOf x.who.gid = some (g, l) →
    x.stage = .permit → g.halyardAt x.mreg ≠ 0 → s.linesTurn core x = true →
    let s1 := s.updGroup x.who.gid (fun g => { g with halyard := g.halyard.setIfInBounds x.mreg (BitVec.ofNat 12 (g.halyardAt x.mreg - 1)) })
    let w := State.walkFrom l (itersOf x.prog - x.pos) s1 x
    w.2.2 = none → ∃ t g', exec (.ringTileStart core id) s = .next t ∧ t.groups = w.1.groups ∧
      t.groups.find x.who.gid = some g' ∧ g'.halyardAt x.mreg = g.halyardAt x.mreg - 1 ∧
      (t.core core).cmd id = some { w.2.1 with stage := .finishing (max w.2.1.due s.now) }) ∧
  (∀ (gid gang k n ins : Nat) (s : State) (g : Group), s.groups.find gid = some g →
    g.permits.find? (fun p => !s.loadsBefore gid p.1 p.2.2.2) = some (gang, k, n, ins) → k < 8 → g.halyardAt k + n < 4096 →
    ∃ t g', exec (.permitEffect gid) s = .next t ∧ t.groups.find gid = some g' ∧ g'.halyardAt k = g.halyardAt k + n ∧
      g'.permits = g.permits.erase (gang, k, n, ins) ∧ g'.gangs = g.gangs ∧ t.mem = s.mem) ∧
  (∀ (core id due c : Nat) (s : State) (x : Cmd) (q : Gang), (s.core core).cmd id = some x → x.stage = .finishing due → due ≤ s.now →
    s.hostsOut x.hosts = false → x.copies = [] → x.ctx = .engine c → x.err = none → s.gangAt x.who.gid x.who.gang = some q →
    (∀ k g b, x.bar = some k → s.groups.find x.who.gid = some g → g.bars[k]? = some b → b.arrived.toNat < 4095) →
    ∃ t q', exec (.engineCommandComplete core id) s = .next t ∧ (t.core core).cmd id = none ∧
      Claims.Finished t x.ctx x.number ∧ (t.counter x.ctx).errs = (s.counter x.ctx).errs ∧
      t.gangAt x.who.gid x.who.gang = some q' ∧ q'.fsticky = q.fsticky ||| x.flags ∧ t.mem = s.mem ∧
      (∀ k g b, x.bar = some k → s.groups.find x.who.gid = some g → g.bars[k]? = some b →
        ∃ g', t.groups.find x.who.gid = some g' ∧ g'.bars[k]? = some
          (if b.expected ≠ 0 ∧ b.expected.toNat ≤ b.arrived.toNat + 1 then { b with phase := !b.phase, arrived := 0, bad := false, lastBad := b.bad }
           else { b with arrived := b.arrived + 1 })))

/-- Multicast copies and reductions (R74, R75, R103, R104, R329, R410): a copy lands in the one receiver's window, or is
dropped where there is not exactly one; a reduction sends its own bytes to every other member, and with every member's first
contribution each
element becomes that of the fixed tree. -/
def Sys2Proof.Claims.CollectiveSteps : Prop :=
  (∀ (core id due target : Nat) (s : State) (x : Cmd), (s.core core).cmd id = some x → x.op = 0x52 → x.stage = .finishing due →
    target ∈ x.copies → s.linesTurn core x = true →
    (∀ gid g w, s.receivers x target = [(gid, g)] → s.receiverWin x g = some w → (g.bars[g.mcast.toNat / 256 % 16]?).isSome = true →
      (g.bars[g.mcast.toNat / 256 % 16]?.getD Barrier.zero).arrived.toNat < 4095 → s.groups.find gid = some g →
      ∃ t g', exec (.mcastCopyLand core id target) s = .next t ∧ t.groups.find gid = some g' ∧
        g'.stash = (x.data.foldl (fun h d => h.winWrite w d.1 d.2) g).stash ∧
        (t.core core).cmd id = some { x with copies := x.copies.filter (fun k => k != target) } ∧
        (∀ k h, k ≠ gid → s.groups.find k = some h → t.groups.find k = some h)) ∧
    ((s.receivers x target).length ≠ 1 → s.groups.find x.who.gid = none →
      ∃ t, exec (.mcastCopyLand core id target) s = .next t ∧ t.groups = s.groups ∧
        (t.core core).cmd id = some { x with copies := x.copies.filter (fun k => k != target), err := some (x.err.getD .mcastDrop) })) ∧
  (∀ (core id f k : Nat) (s : State) (x : Cmd) (g : Group), Claims.CmdReady s core id x → x.stage = .active → x.ctx = .coll f k →
    x.number = ((s.fn f).coll k).ctr.count + 1 → s.linesTurn core x = true → s.groups.find x.who.gid = some g →
    let d := g.winRead x.win (x.winOff : Int) (x.ga.toNat % 2 ^ 32 * tyBytes x.ty)
    let c := (s.fn f).coll k
    let others := (c.peers.zipIdx.filter (fun p => p.2 != c.rank)).map Prod.fst
    ∃ t st, exec (.engineWalkStart core id) s = .next t ∧ t.mem = s.mem ∧
      t.out = s.out ++ others.map (fun p => Output.contribution f ((s.fn f).portTo p) p k d st) ∧
      ((∃ r, r < ((s.fn f).coll k).n ∧ r ≠ ((s.fn f).coll k).rank ∧ ((s.fn f).coll k).first r = none) → 1 < ((s.fn f).coll k).n →
        (t.core core).cmd id = some { x with stage := .walking, data := [((x.winOff : Int), d)] } ∧ t.groups = s.groups)) ∧
  (∀ (f k rank mp mc : Nat) (data : List Byte) (s : State),
    let c : Coll := { (s.fn f).coll k with got := ((s.fn f).coll k).got ++ [(rank, data)] }
    ∃ t, exec (.twRedContribution f k rank data mp mc) s = .next t ∧ t.mem = s.mem ∧
      (t.die 4).hlc = (s.die 4).hlc.merge s.now mp mc ∧
      (Claims.redWaiting s f k = none → (t.fn f).coll k = c ∧ t.groups = s.groups) ∧
      (∀ core x g own (ds : List (List Byte)), Claims.redWaiting s f k = some (core, x) → (s.core core).cmd x.id = some x →
        s.groups.find x.who.gid = some g →
        x.data.map Prod.snd = [own] → 1 < c.n →
        (List.range c.n).map (fun r => if r = c.rank then some own else c.first r) = ds.map some →
        (∀ d ∈ ds, d.length = own.length) →
        let w := tyBytes x.ty
        let es := (List.range (x.ga.toNat % 2 ^ 32)).map
          (fun i => redElem (x.sub % 4) x.ty (ds.map (fun d => leNat ((d.drop (i * w)).take w))))
        ∃ g' y, t.groups.find x.who.gid = some g' ∧ (t.core core).cmd x.id = some y ∧ y.stage = .finishing s.now ∧ y.err = x.err ∧
          g'.stash = (g.winWrite x.win (x.winOff : Int) (es.flatMap (fun e => toLE w e.1))).stash ∧
          y.flags = es.foldl (fun a e => a ||| e.2) 0 ∧ (t.fn f).coll k = c.takeFirst))

/-- The matrix engine's steps (R108, R110, R111, R115, R118, R318, R323): the arbiter grants the eligible pass of the highest
class, the earliest posted first, unless the tap unit's row goes before it, and the pass runs once its bank holds its tile; a pass or load that is over leaves the table and
its number completes; so does an MM.STORE whose writes have reached their times, its flags coming into %fsticky. -/
def Obligations.MatrixSteps : Prop :=
  (∀ (core : Nat) (s : State) (r : Rsv),
    let go : Prop := s.tagged core r = true ∧ (r.pair = true → s.ownIdle (core + 1) = true)
    (s.grantedPass core = none → s.arrayIdle core = true → Claims.Grantable s core r →
      (∀ e, Claims.Grantable s core e → e ≠ r → r.cls.rank < e.cls.rank ∨ (r.cls.rank = e.cls.rank ∧ r.id < e.id)) →
      (s.tapFirst core r = true → exec (.matrixGrant core) s = .next s) ∧
      (s.tapFirst core r = false →
        ∃ t, exec (.matrixGrant core) s = .next t ∧ t.groups = s.groups ∧ t.mem = s.mem ∧
          (go → (t.core core).rsv r.id = some { r with stage := .running (s.clkOf core) }) ∧
          (¬ go → (t.core core).rsv r.id = some { r with stage := .granted }) ∧
          (r.pair = true → (t.core (core + 1)).slave = some r.id))) ∧
    (s.grantedPass core = some r → go →
      ∃ t, exec (.matrixGrant core) s = .next t ∧ t.groups = s.groups ∧ t.mem = s.mem ∧
        (t.core core).rsv r.id = some { r with stage := .running (s.clkOf core) }) ∧
    (∀ tg s1, s.grantedPass core = some r → s.halting r.who.gid = false → s.tagged core r = false → s.slotFree core = true → s.banksIdle core r = true →
      s.carried r.who r.ins r.wct = true → (r.pair = true → s.ownIdle (core + 1) = true) → s.rsvTag r = some tg →
      (s.rsvSlots r).2.fmt ≠ 1 ∨ r.bank % 2 = 0 → s.fetchBank core r.who.gid r.bank r.hB.2 (s.rsvSlots r).2 tg = .ok s1 →
      ∃ t, exec (.operandFetch core) s = .next t ∧ t.mem = s.mem ∧ ((t.core core).bank r.bank).tag = some tg ∧
        (t.core core).rsv r.id = some { r with refetch := false, stage := .running (s.clkOf core) })) ∧
  (∀ (core id : Nat) (s : State) (r : Rsv), (s.core core).rsv id = some r →
    (r.cls ≠ .main → r.load = false → r.stage = .waiting → r.since + 4096 ≤ s.clkOf core →
      ∃ t, exec (.arbiterPromotion core id) s = .next t ∧ { t with cores := s.cores } = s ∧ (t.core core).rsv id =
        some { r with cls := if r.cls = .background then .tapClass else .main, since := r.since + 4096 }) ∧
    (∀ tg s1, r.load = true → r.stage = .waiting → r.parked = false → s.halting r.who.gid = false → (s.core core).slave = none →
      r.pair = false → s.bankTurn core r = true → s.banksIdle core r = true → s.carried r.who r.ins r.wct = true → s.slotFree core = true →
      s.rsvTag r = some tg → s.fetchBank core r.who.gid r.bank r.hB.2 (s.rsvSlots r).2 tg = .ok s1 →
      ∃ t, exec (.bankLoad core id) s = .next t ∧ t.mem = s.mem ∧ ((t.core core).bank r.bank).tag = some tg ∧
        ((t.core core).bank r.bank).busy = some id ∧ (t.core core).rsv id = some { r with stage := .running (s.clkOf core) }) ∧
    (((s.core core).bank r.bank).busy = some id → ∀ g, s.groups.find r.who.gid = some g →
      ∃ t, exec (.bankLoadComplete core r.bank) s = .next t ∧ t.mem = s.mem ∧ ((t.core core).bank r.bank).busy = none ∧
        (t.core core).rsv id = none ∧ Claims.Finished t (.matrix r.who.gid) r.number)) ∧
  (∀ (core : Nat) (s : State) (r : Rsv) (g : Group), (s.core core).rsvs.find? (Claims.passOver s core) = some r →
    s.groups.find r.who.gid = some g →
    ∃ t, exec (.passComplete core) s = .next t ∧ t.mem = s.mem ∧ (t.core core).rsv r.id = none ∧
      Claims.Finished t (.matrix r.who.gid) r.number ∧
      (r.pair = true → (s.core (core + 1)).slave = some r.id → (t.core (core + 1)).slave = none)) ∧
  (∀ (id core : Nat) (s : State) (j : StoreJob) (q : Gang),
    s.cores.findSome? (fun k => (k.2.storeJobs.find? (fun j => j.id == id)).map (fun j => (k.1, j))) = some (core, j) →
    j.due ≤ s.now → s.hostsOut j.hosts = false → s.gangAt j.who.gid j.who.gang = some q →
    ∃ t q', exec (.mmStoreComplete id) s = .next t ∧ t.mem = s.mem ∧ (∀ x ∈ (t.core core).storeJobs, x.id ≠ id) ∧
      Claims.Finished t (.matrix j.who.gid) j.number ∧
      t.gangAt j.who.gid j.who.gang = some q' ∧ q'.fsticky = q.fsticky ||| j.flags)

namespace Sys2Proof.Claims
open Sys2Proof.Machine

/-- A row has been released (R129, R143): its STATUS and ENC_COUNT stand in its descriptor, its %rpend bit is set, and the
tap unit holds it no more. -/
def Released (t : State) (gid : Nat) (b : TapBlock) (r : TapRow) (status : Nat) : Prop :=
  ∃ g, t.groups.find gid = some g ∧ (r.row < 256 → g.rpend.getLsbD r.row = true) ∧
    SMap.get 0 g.stash (b.descOff + 4 * r.row + 2) = BitVec.ofNat 8 r.encCount ∧
    SMap.get 0 g.stash (b.descOff + 4 * r.row + 3) = BitVec.ofNat 8 status ∧
    ∀ w ∈ g.tapRows, w.id = r.id → w.state = .ready

/-- A row now stands as given. -/
def RowIs (t : State) (gid : Nat) (r : TapRow) : Prop := ∃ g, t.groups.find gid = some g ∧ r ∈ g.tapRows

/-- The accumulator rows of a group hold 1,024 words each. -/
def AccOk (g : Group) : Prop := ∀ k, (g.accRow k).length = 1024

end Sys2Proof.Claims

/-- The features that a row keeps (R136 step 5): the KSEL largest positive values, or the 64 largest of those that reach
THETA, ties to the lower feature, in ascending order; TRUNC where more than 64 reached it. -/
def Sys2Proof.Claims.FeatureSelection : Prop :=
  ∀ (b : TapBlock) (es : List Nat),
    let ok : Nat → Bool := fun e => if b.threshold then decide (b.theta ≤ e) else decide (0 < e)
    let n := if b.threshold then 64 else b.ksel
    let kept := (b.select es).1
    kept.length = min n (es.filter ok).length ∧
    kept.Pairwise (fun x y => x.1 < y.1) ∧
    (∀ x ∈ kept, es[x.1]? = some x.2 ∧ ok x.2 = true) ∧
    (∀ x ∈ kept, ∀ j e, es[j]? = some e → ok e = true → (∀ y ∈ kept, y.1 ≠ j) → e < x.2 ∨ (e = x.2 ∧ x.1 < j)) ∧
    ((b.select es).2 = true ↔ b.threshold = true ∧ 64 < (es.filter ok).length)

/-- The tap unit's steps (R136 to R141, R146, R147). A row whose rules are bad is released as BAD_RULE; an encoded row without
a hit goes on to apply its deltas, one with a hit is held with a pennant for the handler, or goes on unhandled without one;
a row that applies receives each delta times its decoder row, rounded once, in ascending order of features, and is released;
so is an adapter's row with its new elements. -/
def Sys2Proof.Claims.TapSteps : Prop :=
  (∀ (core gid : Nat) (s : State) (b : TapBlock) (r : TapRow) (g : Group) (l : Launch) (s1 : State) (bs : List Byte),
    let se := g.slotOf b.enc
    let sa := g.slots[b.aSlot]?.getD FmtSlot.zero
    s.nextRow core false = some (gid, b, r) → s.grpOf gid = some (g, l) → s.tapTurn core b r [se] = true →
    coreOf gid = core → r ∈ g.tapRows →
    s.grpRead gid ((b.word 3).toNat + 512 * r.index) 512 = .ok (s1, bs) →
    (parseRules b.feats bs 32 0 = none →
      ∃ t, exec (.tapEncodeRow core) s = .next t ∧ Claims.Released t gid b r 6) ∧
    (∀ rules a s2 es, parseRules b.feats bs 32 0 = some rules →
      sa.tapConv b.dix r.row 0 ((g.tapX b r.row).map (fun x => decodeNum fp32 x.toNat)) = some a →
      s1.tapEncoded gid b se (sa.fmt == 8) a = .ok (s2, some es) →
      let sel := b.select es
      let res := applyRules sel.1 0 rules ([], [])
      let r1 : TapRow := { r with feats := sel.1.map (fun x => (x.1, BitVec.ofNat 32 x.2)), trunc := sel.2
                                  delta := ruleDeltas sel.1 res.2, unhandled := false, parked := false }
      (res.1 = [] → ∃ t, exec (.tapEncodeRow core) s = .next t ∧ Claims.RowIs t gid { r1 with state := .applying }) ∧
      (res.1 ≠ [] → l.rcd.tapEntry = 0 →
        ∃ t u, exec (.tapEncodeRow core) s = .next t ∧ t = u.recordRow gid b r.row r.slot .unhandled ∧
          Claims.RowIs u gid { r1 with state := .applying, unhandled := true }) ∧
      (∀ n ns q, res.1 = n :: ns → rules[n]? = some q → l.rcd.tapEntry ≠ 0 →
        ∃ t p, exec (.tapEncodeRow core) s = .next t ∧ Claims.RowIs t gid { r1 with state := .held, pennant := p.id } ∧
          (t.core core).pennants = (s.core core).pennants ++ [p] ∧ p.gid = gid ∧ p.row = r.row ∧ p.handling = false ∧ p.holder = none ∧ p.launch = g.launch ∧
          p.words = b.pennant { r1 with state := .encoding } gid p.id n q res.1 (featVal sel.1 q.feature)))) ∧
  (∀ (gid i : Nat) (s : State) (g : Group) (b : TapBlock) (r : TapRow), s.tapRowAt gid i = some (g, b, r) → r.state = .applying →
    r.parked = false → g.saving = false →
    (r.delta = [] → ∃ t, exec (.tapCommit gid i) s = .next t ∧ Claims.Released t gid b r (if r.unhandled then 7 else 0)) ∧
    (∀ s1 rows, r.delta ≠ [] → s.tapTurn (coreOf gid) b r [g.slotOf b.dec] = true →
      s.tapTile gid (b.dec.plain gid) b.dec (g.slotOf b.dec) 0 (r.delta.map Prod.fst) = .ok (s1, rows) →
      (∀ x ∈ rows, x.length = b.d) → b.d ≤ 1024 * b.nx → Claims.AccOk g →
      ∃ t g', exec (.tapCommit gid i) s = .next t ∧ Claims.Released t gid b r (if r.unhandled then 7 else 1) ∧
        t.groups.find gid = some g' ∧ (g'.tapX b r.row).length = b.d ∧
        ∀ (j : Nat) x, (g.tapX b r.row)[j]? = some x → (g'.tapX b r.row)[j]? = some
          ((r.delta.zip rows).foldl (fun y (d : (Nat × Word) × List TEl) => tapFma y (decodeNum fp32 d.1.2.toNat)
            (((d.2[j]?).map (fun e => ((g.slotOf b.dec).mel e).v)).getD Val.zero)) x))) ∧
  (∀ (core gid : Nat) (s : State) (b : TapBlock) (r : TapRow) (g : Group) (s1 s2 : State) (bs : List Byte) (xs : List Word),
    let w : Nat → Nat := fun i => leNat ((bs.drop (8 * i)).take 8)
    let f := g.slots[w 2 / 2 ^ 8 % 8]?.getD FmtSlot.zero
    let sa := g.slots[b.aSlot]?.getD FmtSlot.zero
    s.nextRow core true = some (gid, b, r) → s.groups.find gid = some g → s.tapTurn core b r [FmtSlot.zero] = true →
    s.grpRead gid ((b.word 4).toNat + 32 * r.index) 32 2 = .ok (s1, bs) →
    0 < w 2 % 128 → w 2 % 128 ≤ 64 → w 2 / 2 ^ 7 % 2 = 0 → w 2 / 2 ^ 11 % 2 ^ 21 = 0 → w 3 = 0 → f.ok = true → f.fmt ≠ 0 → f.fmt ≠ 2 →
    (f.fmt = 1 → b.bank % 2 = 0) → (sa.fmt = 8 ↔ f.fmt = 8) →
    s1.adapted gid g b r sa (w 0) (w 1) (w 2 / 2 ^ 32) (w 2 / 2 ^ 8 % 8) (w 2 % 128) = .ok (s2, some xs) →
    xs.length = b.d → b.d ≤ 1024 * b.nx → Claims.AccOk g →
    ∃ t g', exec (.tapAdaptRow core) s = .next t ∧ Claims.Released t gid b r 9 ∧ t.groups.find gid = some g' ∧ g'.tapX b r.row = xs)

/-- One clk of every core (R2, R203), and how a port picks: a promoted fragment first, the earliest promoted; else the first
entry after the rotation pointer, around the table (R204). The clocks go on by one clk, 5/7 of a tick, and memory stands. -/
def Sys2Proof.Claims.ClockAndPick : Prop :=
  (∀ s : State, ∃ t, exec .issueSelect s = .next t ∧ t.clk = s.clk + 1 ∧ t.mem = s.mem ∧
    t.now * Config.tickUnits + t.phase = s.now * Config.tickUnits + s.phase + Config.clkUnits ∧
    t.phase < Config.tickUnits ∧ ∃ new, t.issuing = s.issuing ++ new) ∧
  (∀ (cands : List Ctx) (ptr : Nat), (cands = [] ↔ pickOf cands ptr = none) ∧
    ∀ c, pickOf cands ptr = some c → c ∈ cands ∧
      (∀ d ∈ cands, ∀ n, d.frag.promoted = some n → ∃ m, c.frag.promoted = some m ∧ m ≤ n) ∧
      ((∀ d ∈ cands, d.frag.promoted = none) → ∀ d ∈ cands, ∀ e x, c.frag.entry = some e → d.frag.entry = some x →
        (ptr < e ∧ (ptr < x → e ≤ x)) ∨ (e ≤ ptr ∧ x ≤ ptr ∧ e ≤ x)))

/-- The steps of the issue logic: promotion after 64 clk of waiting (R204), the split table's refill and the exchange after
1,024 clk, which sends the spilled entry to the spill area (R172; its place: log 66), the ends of SLEEP and YIELD (R363), and in a deterministic launch the turn of the lowest key and, after
2^20 ticks without one, the fault DET_STALL (R206, R207). -/
def Sys2Proof.Claims.IssueSteps : Prop :=
  (∀ (w : Who) (s : State) (f : Frag), s.fragOf w = some f →
    (f.state = .eligible → 64 ≤ f.waited → f.promoted = none →
      ∃ t, exec (.fragmentPromotion w) s = .next t ∧ t.fragOf w = some { f with promoted := some s.nextId } ∧ t.nextId = s.nextId + 1 ∧
        t.mem = s.mem) ∧
    (∀ at0, f.state = .sleeping (.yield at0) → at0 ≤ s.clkOf (coreOf w.gid) →
      ∃ t, exec (.yieldExpiry w) s = .next t ∧ t.fragOf w = some { f with state := .eligible, grant := none } ∧
        { t with groups := s.groups } = s) ∧
    (∀ due, f.state = .sleeping (.sleep due) → due ≤ s.now →
      ∃ t, exec (.sleepExpiry w) s = .next t ∧ t.fragOf w = some { f with state := .eligible, grant := some .passed } ∧
        { t with groups := s.groups } = s)) ∧
  (∀ (core e : Nat) (s : State) (c v : Ctx), s.oldestSpilled core = some c → s.fragOf c.who = some c.frag →
    let back : Frag := { c.frag with entry := some e, busy := max c.frag.busy (s.clkOf (coreOf c.who.gid)) + 16 }
    (s.freeEntry core = some e →
      ∃ t, exec (.fragmentRefill core) s = .next t ∧ t.fragOf c.who = some back ∧ { t with groups := s.groups } = s) ∧
    (s.freeEntry core = none → c.frag.since + 1024 ≤ s.clkOf core → s.oldestResident core none = some v → v.frag.entry = some e →
      v.who ≠ c.who → s.ctxOf v.who = some v →
      ∃ t n, exec (.spillWaitExpiry core) s = .next t ∧ t.fragOf c.who = some back ∧
        { t with groups := s.groups, cores := s.cores, nextId := s.nextId } = s ∧
        t.fragOf v.who = some { v.frag with entry := none, spillNo := s.nextId, since := s.clkOf (coreOf v.who.gid)
                                            busy := max v.frag.busy (s.clkOf (coreOf v.who.gid)) + 16 } ∧
        (t.core v.core).spilled = (s.core v.core).spilled ++ [{ func := v.lau.func, aspace := v.lau.aspace, n := n
                                                                base := v.lau.rcd.saveBase.toNat, data := v.frag.tableEntry v.gang.slot }])) ∧
  (∀ (w : Who) (s : State) (c : Ctx), s.ctxOf w = some c → c.frag.state = .sleeping .det →
    s.detBusy c.grp.launch (s.fragsOfLaunch c.grp.launch) = false →
    (∀ d ∈ s.fragsOfLaunch c.grp.launch, d.who ≠ w → keyLt (s.detKey c) (s.detKey d) = true) →
    (∀ d ∈ s.savedFrags c.grp.launch, keyLt (s.detKey c) (s.detKey d) = true) →
    ∃ t, exec (.detTurn w) s = .next t ∧ t.fragOf w = some { c.frag with state := .eligible, grant := some .turn } ∧
      { t with groups := s.groups } = s) ∧
  (∀ (l : Nat) (s : State) (lau : Launch) (c : Ctx),
    s.lowestKey ((s.fragsOfLaunch l).filter (fun c => c.frag.state == .sleeping .det)) = some c → s.launches.find l = some lau →
    lau.lastSync + 2 ^ 20 ≤ s.now → s.ctxOf c.who = some c →
    ∃ t u f r, exec (.detStall l) s = .next t ∧ t.fragOf c.who = some f ∧ f.state = .faulted r none ∧ r.reason = .detStall ∧
      f.pc = c.frag.pc ∧ t.launches.find l = some u ∧ u.lastSync = s.now ∧ t.mem = s.mem)

/-- The code store's steps (R185, R186, R188, R191, R192, R194): a load that ends fills the store with the module's words and
its entry is LOADED, or EVICTING and FREE where an eviction waited for it or its module is revoked; a load that fails is FAILED with its reason, its
units released; an entry to be freed goes once it has no users, its GEN one on; the agent hoists what a fragment misses and
lets it go on; the store of a function above its quota gives up its least recently used entry; a dictionary is filled for
the groups that wait. -/
def Obligations.CodeStoreSteps : Prop :=
  (∀ (core slot : Nat) (s : State) (e : ResEntry), (s.core core).res slot = e → slot < 64 →
    (e.state = 1 → s.parkedNow (.hoist core slot) = false →
      (∀ s1 bs, s.hoistBytes core e = .ok (s1, bs) →
        (e.evictPending = false → e.revoked = false →
          ∃ t, exec (.hoistLoadComplete core slot) s = .next t ∧ (t.core core).res slot = { e with state := 2 } ∧ t.mem = s.mem ∧
            (∀ i w, (wordsOf bs)[i]? = some w → SMap.get 0 (t.core core).istore (e.store * 1024 + i) = w) ∧
            ∀ a, (a < e.store * 1024 ∨ e.store * 1024 + (wordsOf bs).length ≤ a) →
              SMap.get 0 (t.core core).istore a = SMap.get 0 (s.core core).istore a) ∧
        (e.evictPending = true ∨ e.revoked = true → e.pins = 0 → s1.fragsIn core slot = 0 →
          ∃ t, exec (.hoistLoadComplete core slot) s = .next t ∧
            (t.core core).res slot = { ResEntry.free with gen := (e.gen + 1) % 1024 }) ∧
        (e.evictPending = true ∨ e.revoked = true → 0 < e.pins →
          ∃ t, exec (.hoistLoadComplete core slot) s = .next t ∧ (t.core core).res slot = { e with state := 3, evictPending := false })) ∧
      (∀ r va, s.hoistBytes core e = .error (r, va) → r ≠ .notPresent → r ≠ .permission →
        ∃ t, exec (.hoistLoadFault core slot) s = .next t ∧ { t with cores := s.cores } = s ∧
          (t.core core).res slot = if e.evictPending || e.revoked then { ResEntry.free with gen := (e.gen + 1) % 1024 }
            else { e with state := 4, fail := some r })) ∧
    (e.state = 3 ∨ (e.revoked = true ∧ e.state ≠ 0) → s.unused core slot = true →
      ∃ t, exec (.overlayFree core slot) s = .next t ∧ t.parkedNow (.hoist core slot) = false ∧
        { t with cores := s.cores, xrecs := s.xrecs, rewalks := s.rewalks } = s ∧
        (t.core core).res slot = { ResEntry.free with gen := (e.gen + 1) % 1024 }) ∧
    (∀ f, f < 257 → s.overQuota core f = some slot → (s.fragsOn core).filter (fun c => s.inside c slot e) = [] →
      ∃ t, exec (.forcedEviction core slot) s = .next t ∧ t.mem = s.mem ∧
        (t.core core).res slot = { ResEntry.free with gen := (e.gen + 1) % 1024 } ∧
        ∀ gid g, t.groups.find gid = some g → coreOf gid = core → ∀ q ∈ g.gangs, ∀ p ∈ q.pins, p.1 / 1024 ≠ slot)) ∧
  (∀ (core f slot : Nat) (s : State), s.overQuota core f = some slot →
    (s.fn f).quota < (s.core core).useOf f none ∧ slot < 64 ∧ ((s.core core).res slot).counts f = true ∧
    ∀ i, i < 64 → ((s.core core).res i).counts f = true → ((s.core core).res slot).used ≤ ((s.core core).res i).used) ∧
  (∀ (w : Who) (s : State) (c : Ctx) (i : FaultInfo) (b : Option Nat) (m off o4 n4 : Nat), s.ctxOf w = some c →
    c.frag.state = .faulted i b → i.reason = .codeAbsent → s.bindingAt c.lau.func c.lau.aspace i.pc.toNat = some (m, off) →
    (s.modl m).overlayAt off = some (o4, n4) →
    (∀ s1 x y, b = none →
      s.hoistAt c.core c.lau.func c.lau.aspace (i.pc.toNat - off + o4 * 4096) (n4 * 4096) = .ok (s1, x, y) →
      ∃ t, exec (.codeAbsentService w) s = .next t ∧ t.cores = (s1.agentWorks c.core).cores ∧ t.mem = s.mem ∧
        t.fragOf w = some { c.frag with state := .faulted i (some 0) }) ∧
    (∀ d k, b = some d → (s.core c.core).slotAt m off = some k → ((s.core c.core).res k).state = 2 →
      ∃ t, exec (.codeAbsentService w) s = .next t ∧ t.cores = (s.agentWorks c.core).cores ∧
        { t with groups := s.groups, cores := s.cores } = s ∧
        t.fragOf w = some { c.frag with state := .eligible, pc := i.pc, code := none, grant := none, frozen := none })) ∧
  (∀ (core k l gid : Nat) (s : State) (x : DictStore) (lau : Launch) (g : Group), (s.core core).dicts[k]? = some x → x.launch = some l →
    s.launches.find l = some lau → s.groups.find gid = some g → coreOf gid = core → g.launch = l → g.dictReady = false →
    ∃ t, exec (.dictLoad core k) s = .next t ∧ t.mem = s.mem ∧
      (t.core core).dicts[k]? = some { x with words := lau.dictWords } ∧ t.groups.find gid = some { g with dictReady := true })

namespace Sys2Proof.Claims
open Sys2Proof.Machine

/-- The packets' steps: function, queue and TYPE (R389). -/
def packetEvent : Instr → Option (Nat × Nat × Nat)
  | .nopPacket f q => some (f, q, 0)
  | .launchPacket f q => some (f, q, 1)
  | .resumePacket f q => some (f, q, 2)
  | .ibPacket f q => some (f, q, 3)
  | .predPacket f q => some (f, q, 4)
  | .fencePacket f q => some (f, q, 5)
  | .signalPacket f q => some (f, q, 6)
  | .waitPacket f q => some (f, q, 7)
  | .armPacket f q => some (f, q, 8)
  | _ => none

/-- A packet of the queue, as its four words, is the next to execute, and no reason of R389 refuses it. -/
def AtPacket (s : State) (func q type : Nat) (ws : List Nat) : Prop :=
  func ≤ Config.physFn ∧ q < 8 ∧ (s.cq func q).packet = some ws ∧ ws[0]?.getD 0 / 2 ^ 56 = type ∧ badPacket ws = false

/-- The queue has gone past a packet (R387, R391): of the ring, HEAD counts it; of a level, the level's place goes on. -/
def Past (c c' : Cq) : Prop :=
  c'.due = none ∧ c'.hosts = [] ∧ c'.woken = false ∧ c'.held = none ∧ (c.levels = [] → c'.levels = [] ∧ c'.head = c.head + 1) ∧
  ∀ l r, c.levels = l :: r → l.next + 1 < l.total → c'.levels = { l with next := l.next + 1 } :: r ∧ c'.head = c.head

/-- The queue has stopped (R393), by its packet but where TAIL was too far ahead. -/
def Stopped (c' : Cq) (reason detail : Nat) : Prop :=
  c'.state = 2 ∧ c'.stopReason = reason ∧ c'.stopDetail = detail ∧ (c'.byPacket = true ↔ reason ≠ 3)

end Sys2Proof.Claims

/-- The front end fetches a packet's unit of 256 bytes at one time and executes its packets (R388 to R391): NOP; LAUNCH and
RESUME, which join the run list; IB and PRED, which enter a level of nesting, or stop at the fifth; FENCE; ARM. A packet that
R389 refuses stops its queue. -/
def Obligations.PacketResults : Prop :=
  (∀ (i : Instr) (func q type : Nat) (s : State) (ws : List Nat), Claims.packetEvent i = some (func, q, type) → func ≤ Config.physFn →
    q < 8 → (s.cq func q).packet = some ws → ws[0]?.getD 0 / 2 ^ 56 = type → badPacket ws = true →
    ∃ t, exec i s = .next t ∧ Claims.Stopped (t.cq func q) 1 0 ∧ (t.cq func q).head = (s.cq func q).head) ∧
  (∀ (func q va pa : Nat) (s : State), func ≤ Config.physFn → q < 8 → (s.cq func q).runs = true → (s.cq func q).packetVa = some va →
    (s.cq func q).held = none → (s.cq func q).inHand va = none →
    Claims.PlainPage s ioPlace func (s.cq func q).aspace (va / 256 * 256) .frontEnd 256 pa →
    ∃ t, exec (.frontEndFetch func q) s = .next t ∧ t.mem = s.mem ∧
      (t.cq func q).units = [(va / 256 * 256, s.bytesIn s.vis pa 256)] ∧ (t.cq func q).head = (s.cq func q).head) ∧
  (∀ (func q : Nat) (s : State) (ws : List Nat),
    let c := s.cq func q
    let w : Nat → Nat := fun i => ws[i]?.getD 0
    (Claims.AtPacket s func q 0 ws → ∃ t, exec (.nopPacket func q) s = .next t ∧ t.mem = s.mem ∧ Claims.Past c (t.cq func q)) ∧
    (Claims.AtPacket s func q 1 ws →
      let sub := s.submit func c.aspace (w 1) (some q) (if w 0 % 2 = 1 then c.lastLaunch else none) []
      (∀ s1 l, sub = .ok s1 l →
        ∃ t lau, exec (.launchPacket func q) s = .next t ∧ t.mem = s.mem ∧ Claims.Past c (t.cq func q) ∧
          t.runList = s.runList ++ [.launch l] ∧ l = s.nextLaunch ∧ t.launches.find l = some lau ∧ lau.func = func ∧
          lau.aspace = c.aspace ∧ lau.va = BitVec.ofNat 64 (w 1) ∧ lau.queue = some q ∧ lau.claimed = 0 ∧
          lau.dep = (if w 0 % 2 = 1 then c.lastLaunch else none) ∧ (t.cq func q).lastLaunch = some l ∧
          (t.cq func q).launches = c.launches ++ [l]) ∧
      (∀ r, sub = .stop r → ∃ t, exec (.launchPacket func q) s = .next t ∧ Claims.Stopped (t.cq func q) r 0 ∧ t.runList = s.runList) ∧
      (sub = .full → exec (.launchPacket func q) s = .next s)) ∧
    (Claims.AtPacket s func q 2 ws → s.runList.length < Config.runList →
      ∃ t pre post, exec (.resumePacket func q) s = .next t ∧ t.mem = s.mem ∧ Claims.Past c (t.cq func q) ∧
        s.runList = pre ++ post ∧ (∀ e ∈ pre, e.isResume = true) ∧ (∀ e, post.head? = some e → e.isResume = false) ∧
        t.runList = pre ++ [.resume func c.aspace (some q) (BitVec.ofNat 64 (w 1)) (w 2)] ++ post ∧
        (t.cq func q).resumes = c.resumes + 1) ∧
    (Claims.AtPacket s func q 3 ws →
      (c.levels.length < 4 → ∃ t, exec (.ibPacket func q) s = .next t ∧ t.mem = s.mem ∧ (t.cq func q).head = c.head ∧
        (t.cq func q).levels = { va := BitVec.ofNat 64 (w 1), next := 0, total := 8 * (w 0 % 2 ^ 16) } :: c.levels) ∧
      (4 ≤ c.levels.length → ∃ t, exec (.ibPacket func q) s = .next t ∧ Claims.Stopped (t.cq func q) 2 0)) ∧
    (Claims.AtPacket s func q 4 ws →
      (4 ≤ c.levels.length → ∃ t, exec (.predPacket func q) s = .next t ∧ Claims.Stopped (t.cq func q) 2 0) ∧
      (∀ pa, c.levels.length < 4 → Claims.PlainPage s ioPlace func c.aspace (w 1) .frontEnd 8 pa →
        let thn := w 0 / 2 ^ 16 % 2 ^ 16
        let go := monHolds (w 0 % 8) 3 (s.readVis pa 8) (w 2)
        let n := if go then thn else w 0 / 2 ^ 32 % 2 ^ 16
        ∃ t, exec (.predPacket func q) s = .next t ∧ t.mem = s.mem ∧
          (0 < n → (t.cq func q).head = c.head ∧ (t.cq func q).levels =
            { va := BitVec.ofNat 64 (if go then w 3 else w 3 + 256 * thn), next := 0, total := 8 * n } :: c.levels) ∧
          (n = 0 → Claims.Past c (t.cq func q)))) ∧
    (Claims.AtPacket s func q 5 ws →
      (c.resumes = 0 → (∀ l ∈ c.launches, ∀ x, s.launches.find l = some x → x.complete = true) →
        ∃ t, exec (.fencePacket func q) s = .next t ∧ t.mem = s.mem ∧ Claims.Past c (t.cq func q) ∧ (t.cq func q).launches = []) ∧
      ((c.resumes ≠ 0 ∨ ∃ l ∈ c.launches, ∃ x, s.launches.find l = some x ∧ x.complete = false) →
        exec (.fencePacket func q) s = .next s)) ∧
    (Claims.AtPacket s func q 8 ws →
      ∃ t, exec (.armPacket func q) s = .next t ∧ t.mem = s.mem ∧ Claims.Past c (t.cq func q) ∧
        (t.fn func).arms.find (w 0 % 64) = some
          { queue := q, va := BitVec.ofNat 64 (w 1), aspace := c.aspace, tag := w 2 % 2 ^ 32, cap := w 2 / 2 ^ 32 % 2 ^ 11
            buf := BitVec.ofNat 64 (w 3) }))

/-- SIGNAL and WAIT (R390, R395, R411): a SIGNAL waits for its queue's earlier work, stores its word, and goes on with its
interrupt once the write has completed; or it sends its message with a stamp. A WAIT goes on when its word satisfies the
relation: at once, or when the monitor that it arms finds it true; where the table is full it looks again after 2,048 ticks.
A message that an ARM entry matches is written to its buffer, disarms it and launches with the buffer, the length
and the tag in g16 to g18; one that matches none raises an event. -/
def Sys2Proof.Claims.SignalAndMessageResults : Prop :=
  (∀ (func q pa : Nat) (s : State) (ws : List Nat),
    let c := s.cq func q
    let w : Nat → Nat := fun i => ws[i]?.getD 0
    (Claims.AtPacket s func q 6 ws → s.fenced func q = true →
      (w 0 / 2 ^ 17 % 2 = 0 → c.due = none → Claims.PlainPage s ioPlace func c.aspace (w 1) .write 8 pa →
        ∃ t T, exec (.signalPacket func q) s = .next t ∧ t.mem = s.mem ∧ (t.cq func q).due = some T ∧ (t.cq func q).head = c.head ∧
          (t.cq func q).packet = some ws ∧
          t.out = s.out ∧ (∀ p ∈ t.pending, p ∈ s.pending ∨ p.t ≤ T) ∧
          ∀ j, j < 8 → SMap.get 0 t.last (pa + j) = BitVec.ofNat 8 (w 2 / 2 ^ (8 * j))) ∧
      (∀ T, w 0 / 2 ^ 17 % 2 = 0 → c.due = some T →
        (s.now < T ∨ s.hostsOut c.hosts = true → exec (.signalPacket func q) s = .next s) ∧
        (T ≤ s.now → s.hostsOut c.hosts = false →
          ∃ t, exec (.signalPacket func q) s = .next t ∧ t.mem = s.mem ∧ Claims.Past c (t.cq func q) ∧
            (c.levels = [] → c.ahead ≤ 2 ^ c.sizeLog2 →
              t.out = s.out ++ (if w 0 / 2 ^ 16 % 2 = 1 then [Output.msix func (w 0 % 2 ^ 16)] else [])))) ∧
      (w 0 / 2 ^ 17 % 2 = 1 → 0 < w 2 / 2 ^ 32 % 2 ^ 11 → c.levels = [] → c.ahead ≤ 2 ^ c.sizeLog2 →
        Claims.PlainPage s ioPlace func c.aspace (w 1) .frontEnd (64 * (w 2 / 2 ^ 32 % 2 ^ 11)) pa →
        ∃ t st, exec (.signalPacket func q) s = .next t ∧ t.mem = s.mem ∧ Claims.Past c (t.cq func q) ∧
          t.out = s.out ++ Output.message func ((s.fn func).portTo (w 0 / 2 ^ 18 % 2 ^ 6)) (w 0 / 2 ^ 18 % 2 ^ 6) (w 2 % 2 ^ 32) (s.bytesIn s.vis pa (64 * (w 2 / 2 ^ 32 % 2 ^ 11))) st ::
            (if w 0 / 2 ^ 16 % 2 = 1 then [Output.msix func (w 0 % 2 ^ 16)] else []))) ∧
    (Claims.AtPacket s func q 7 ws →
      (c.woken = true → ∃ t, exec (.waitPacket func q) s = .next t ∧ t.mem = s.mem ∧ Claims.Past c (t.cq func q)) ∧
      (c.woken = false → (∃ m ∈ s.monitors, m.who = .queue func q ∧ m.slice ≠ 64) → exec (.waitPacket func q) s = .next s) ∧
      (c.woken = false → (∀ m ∈ s.monitors, m.who = .queue func q → m.slice = 64) → c.due = none → s.homeOf (lineOf pa) < 64 →
        Claims.PlainPage s ioPlace func c.aspace (w 1) .frontEnd 8 pa →
        let m : Monitor := { slice := s.homeOf (lineOf pa), who := .queue func q, since := s.now, func := func, pa := pa, ty := 3
                             rel := w 0 % 8, value := w 2 }
        let room := (s.monitors.filter (fun x => x.slice == m.slice)).length < Config.monitorsPerSlice
        (monHolds (w 0 % 8) 3 (s.readVis pa 8) (w 2) = true →
          ∃ t, exec (.waitPacket func q) s = .next t ∧ t.mem = s.mem ∧ Claims.Past c (t.cq func q)) ∧
        (monHolds (w 0 % 8) 3 (s.readVis pa 8) (w 2) = false →
          ∃ t, exec (.waitPacket func q) s = .next t ∧ t.mem = s.mem ∧ (t.cq func q).packet = some ws ∧ (t.cq func q).head = c.head ∧
            (room → m ∈ t.monitors ∧ (t.cq func q).due = none) ∧
            (¬ room → { m with slice := 64 } ∈ t.monitors ∧ (t.cq func q).due = some (s.now + 2048)))))) ∧
  (∀ (func port tag mp mc : Nat) (payload : List Byte) (s : State), func ≤ Config.physFn → payload.length ≤ 65536 → port < 8 →
    ¬ (s.msgAt.1 = s.now ∧ port < s.msgAt.2) →
    let s0 : State := { s.mergeClocks mp mc with msgAt := (s.now, port) }
    ((s.fn func).armFor tag payload.length = none →
      exec (.taggedMessageArrive func { port := port, tag := tag } payload mp mc) s = .next (s0.event func 4 (BitVec.ofNat 64 tag) 0 0)) ∧
    ((s.fn func).armFor tag payload.length ≠ none → Config.runList ≤ s.runList.length →
      exec (.taggedMessageArrive func { port := port, tag := tag } payload mp mc) s = .next s) ∧
    (∀ k a s1 T hosts s3 l, (s.fn func).armFor tag payload.length = some (k, a) → s.runList.length < Config.runList →
      s0.unitStore func a.aspace none a.buf.toNat payload = .ok (s1, T, hosts) →
      (s1.updFn func (fun f => { f with arms := f.arms.del k })).submit func a.aspace a.va.toNat (some a.queue) none
        [a.buf, BitVec.ofNat 64 payload.length, BitVec.ofNat 64 tag] = .ok s3 l →
      ∃ t lau, exec (.taggedMessageArrive func { port := port, tag := tag } payload mp mc) s = .next t ∧ t.mem = s.mem ∧
        t.runList = s.runList ++ [.launch l] ∧ (t.fn func).arms.find k = none ∧ t.launches.find l = some lau ∧
        lau.notBefore = T ∧ lau.hosts = hosts ∧
        lau.rcd.ginit.drop 16 = [a.buf, BitVec.ofNat 64 payload.length, BitVec.ofNat 64 tag]))

/-- The queue's registers (R387, R393): a doorbell moves TAIL, and one too far ahead stops the queue with BAD_TAIL; CQ_CTL's
fields are accepted while EN is 0, which only a SIZE_LOG2 of 6 to 16 lets become 1; RESTART puts a stopped queue back to work,
past the packet that stopped it with SKIP (log 47). Before firmware is accepted a write has no effect (R402). -/
def Sys2Proof.Claims.QueueRegisterResults : Prop :=
  ∀ (func q v : Nat) (skip : Bool) (s : State), q < 8 →
    let c := s.cq func q
    (s.hostMay func = false → exec (.cqDoorbell func q v) s = .next s ∧ exec (.cqEnable func q v) s = .next s ∧
      exec (.cqRestart func q skip) s = .next s) ∧
    (s.hostMay func = true →
      (∃ t, exec (.cqDoorbell func q v) s = .next t ∧ t.mem = s.mem ∧
        (t.cq func q).tail = BitVec.ofNat 32 v ∧ (t.cq func q).head = c.head ∧ (t.cq func q).units = [] ∧
        (c.state ≠ 2 → c.en = true →
          (2 ^ c.sizeLog2 < (BitVec.ofNat 32 v - c.head).toNat → Claims.Stopped (t.cq func q) 3 0) ∧
          ((BitVec.ofNat 32 v - c.head).toNat ≤ 2 ^ c.sizeLog2 →
            (t.cq func q).state = if BitVec.ofNat 32 v = c.head then 0 else 1))) ∧
      (v % 2 = 0 → ∃ t, exec (.cqEnable func q v) s = .next t ∧ t.mem = s.mem ∧
        (c.en = true → (t.cq func q).en = decide (v / 2 ^ 31 % 2 = 1) ∧ (t.cq func q).aspace = c.aspace ∧
          (t.cq func q).sizeLog2 = c.sizeLog2) ∧
        (c.en = false → (t.cq func q).aspace = v / 2 ^ 24 % 16 ∧ (t.cq func q).sizeLog2 = v / 2 ^ 16 % 16 ∧
          (t.cq func q).en = decide (v / 2 ^ 31 % 2 = 1 ∧ 6 ≤ v / 2 ^ 16 % 16))) ∧
      (c.state = 2 → c.ahead ≤ 2 ^ c.sizeLog2 → ∃ t, exec (.cqRestart func q skip) s = .next t ∧ t.mem = s.mem ∧
        (skip = false ∨ c.byPacket = false → (t.cq func q).head = c.head ∧ (t.cq func q).stopReason = 0 ∧
          (t.cq func q).units = [] ∧ (t.cq func q).state = if c.en = true ∧ c.ahead ≠ 0 then 1 else 0) ∧
        (skip = true → c.byPacket = true → Claims.Past c (t.cq func q))) ∧
      (c.state ≠ 2 → exec (.cqRestart func q skip) s = .next s))

namespace Sys2Proof.Claims
open Sys2Proof.Machine

/-- A mailbox command that the device takes: its function's mailbox is free and firmware has been accepted (R397, R402). -/
def MailboxReady (s : State) (func : Nat) : Prop := func ≤ Config.physFn ∧ (s.fn func).hcBusy = false ∧ s.trust.accepted = true

/-- A mailbox command has ended with a RESULT and a VALUE. -/
def MailboxDone (t : State) (func result value : Nat) : Prop :=
  (t.fn func).hcBusy = false ∧ (t.fn func).hcResult = result ∧ (t.fn func).hcValue = value

/-- A gang as it starts (R165, R170, R175): its uniform registers from the record, one fragment of its present quads at an
address in a state, every lane of those quads active. -/
def GangStarts (x : Gang) (r : LaunchRec) (lanes : Nat) (pc : Reg) (st : FState) : Prop :=
  x.lanes = lanes ∧ x.v = [] ∧ (∀ j : Fin 32, x.g[j] = r.ginit[j.val]?.getD 0) ∧
  (∀ i : Fin 16, x.quads[i].present = decide (4 * i.val < lanes) ∧ (4 * i.val < lanes → x.quads[i].mask = 15 ∧ x.quads[i].stack = [])) ∧
  ∃ f, x.frags = [f] ∧ f.pc = pc ∧ f.state = st ∧ f.handler = false ∧
    f.quads = (List.range 16).filter (fun i => decide (4 * i < lanes))

end Sys2Proof.Claims

/-- Groups come and go (R159, R164, R165, R200 to R202): an agent takes the first launch of the run list that may start and
fits its core, only the head after 16 skips; it claims the next group by an atomic on the ticket line and places it, its
gangs at the record's entry, where they issue once the atomic has returned; a launch whose groups are all claimed leaves the list. A drained group leaves its core; a launch
without groups whose writes have reached their times is complete. -/
def Obligations.LaunchSteps : Prop :=
  (∀ (core head l : Nat) (s : State), s.takes core = some (head, l) →
    s.startable.head? = some head ∧ l ∈ s.startable ∧ (16 ≤ s.headSkips core head → l = head) ∧
    (∀ x, s.launches.find l = some x → s.fitsFrom core l x.rcd = true) ∧
    ∀ pre post, s.startable = pre ++ l :: post → l ∉ pre → s.headSkips core head < 16 →
      ∀ k ∈ pre, ∀ y, s.launches.find k = some y → s.fitsFrom core k y.rcd = false) ∧
  (∀ (core head l x T : Nat) (s s1 : State) (lau : Launch), core < Config.cores → s.evResumePlace core = none →
    s.takes core = some (head, l) → s.launches.find l = some lau → lau.rcd.cluster = false → 1 ≤ lau.rcd.gangs →
    s.unitAtomic lau.func lau.aspace (some l) lau.rcd.ticket.toNat 0 3 1 core = .ok (s1, x, T) →
    (lau.rcd.groups ≤ x →
      ∃ t y, exec (.groupClaim core) s = .next t ∧ t.groups = s1.groups ∧ t.launches.find l = some y ∧ y.allClaimed = true ∧
        RunEntry.launch l ∉ t.runList) ∧
    (∀ a b, x < lau.rcd.groups → (s1.loadOf core).spots lau.rcd (s1.bringsHandler core l lau.rcd) = some (a, b) →
      s1.groups.find (core * Config.groupsPerCore + a.place) = none →
      ∃ (t u : State) (g : Group) (y : Launch), exec (.groupClaim core) s = .next t ∧ t = (u.headNote core head (head == l)).agentWorks core ∧ u.mem = s.mem ∧
        u.groups.find (core * Config.groupsPerCore + a.place) = some g ∧ g.launch = l ∧ g.index = x ∧ g.handlerOf = false ∧
        g.stash = [] ∧ g.acc = [] ∧ g.gangs.length = lau.rcd.gangs ∧
        (∀ i q, g.gangs[i]? = some q →
          Claims.GangStarts q lau.rcd (if i + 1 = lau.rcd.gangs then lau.rcd.lastLanes else lau.rcd.width) lau.rcd.entry
            (if T ≤ s1.now then .eligible else .stalled (.until T))) ∧
        u.launches.find l = some y ∧ y.claimed = lau.claimed + 1 ∧ y.start = (if lau.claimed = 0 then s.now else lau.start) ∧
        (lau.rcd.groups = x + 1 → y.allClaimed = true ∧ RunEntry.launch l ∉ u.runList))) ∧
  (∀ (gid : Nat) (s : State) (g : Group), s.groups.find gid = some g → g.draining = true → s.drained gid = true →
    ∃ t, exec (.groupDrainComplete gid) s = .next t ∧ t.groups.find gid = none ∧ t.mem = s.mem ∧
      (∀ lau, g.handlerOf = false → s.launches.find g.launch = some lau →
        t.launches.find g.launch = some { lau with exited := lau.exited + 1 }) ∧
      ∀ k h, k ≠ gid → s.groups.find k = some h → h.peer ≠ some gid → t.groups.find k = some h) ∧
  (∀ (l : Nat) (s : State) (lau : Launch), s.launches.find l = some lau → lau.complete = false → lau.allClaimed = true →
    (∀ k g, (k, g) ∈ s.groups → g.launch ≠ l) → lau.latest ≤ s.now →
    (lau.terminated = true ∨ (lau.claimed ≤ lau.exited ∧ lau.saved = [])) →
    ∃ t, exec (.launchComplete l) s = .next t ∧ { t with launches := s.launches } = s ∧
      t.launches.find l = some { lau with complete := true })

/-- The delivery of a fault and its answers (R31, R217, R220 to R223): an entry is appended and the fragment waits; a
delegable fault instead enters its kernel's handler at COW_ENTRY with the entry in %frec0 to %frec7. RETRY resumes the
fragment, and sends an access of it that failed at its home slice again (log 27); TERMINATE ends its launch, each group draining; REPLAY lets the work parked in a translation record walk again, and
CANCEL ends it in its fault; the answer to what is not there ends with RESULT 5; work that found the queue full walks again
after 4,096 ticks. -/
def Obligations.FaultAnswers : Prop :=
  (∀ (w : Who) (s s1 : State) (c : Ctx) (i : FaultInfo) (va : Nat), s.ctxOf w = some c → c.frag.state = .faulted i none →
    (i.reason ≠ .codeAbsent → c.delegable i.reason = false →
      s.appendAt c.grp.launch c.core (c.entryOf i false) = (s1, some va) →
      ∃ t, exec (.faultDelivery w) s = .next t ∧ t.mem = s.mem ∧ t.pending = s1.pending ∧
        t.fragOf w = some { c.frag with state := .faulted i (some va) }) ∧
    (c.delegable i.reason = true →
      ((∀ f ∈ c.gang.frags, f.id ≠ w.frag → f.handler = false) →
        s.appendAt c.grp.launch c.core (c.entryOf i true) = (s1, some va) →
        ∃ t q, exec (.delegatedFault w) s = .next t ∧ t.mem = s.mem ∧ t.pending = s1.pending ∧
          t.fragOf w = some { c.frag with
            state := .eligible, handler := true, pc := c.lau.rcd.cowEntry, code := none, grant := none } ∧
          t.gangAt w.gid w.gang = some q ∧ q.frec.toList = (c.entryOf i true).words) ∧
      ((∃ f ∈ c.gang.frags, f.id ≠ w.frag ∧ f.handler = true) →
        ∃ t, exec (.delegatedFault w) s = .next t ∧ { t with groups := s.groups } = s ∧
          t.fragOf w = some { c.frag with state := .faulted i (some 0) }))) ∧
  (∀ (i : Nat) (s : State) (w : Who) (f : Frag) (due : Nat), s.rewalks[i]? = some { due := due, what := .frag w } → due ≤ s.now →
    s.fragOf w = some f → (∀ a b, f.state ≠ .faulted a b) →
    ∃ t, exec (.faultqOverflowRewalk i) s = .next t ∧ t.rewalks = s.rewalks.eraseIdx i ∧ t.mem = s.mem ∧
      t.fragOf w = some { f with state := .eligible, grant := none }) ∧
  (∀ (func : Nat) (s : State), Claims.MailboxReady s func →
    let a0 := ((s.fn func).hcArgs[0]).toNat
    (s.faultAt func a0 = none → s.savedFault func a0 = none →
      (∃ t, exec (.retry func) s = .next t ∧ Claims.MailboxDone t func 5 0 ∧ t.groups = s.groups) ∧
      (∃ t, exec (.terminate func) s = .next t ∧ Claims.MailboxDone t func 5 0 ∧ t.groups = s.groups)) ∧
    (∀ c, s.faultAt func a0 = some c → s.fragOf c.who = some c.frag → s.savedFault func a0 = none →
      (∃ t, exec (.retry func) s = .next t ∧ Claims.MailboxDone t func 0 0 ∧ t.mem = s.mem ∧
        t.fragOf c.who = some { c.frag with state := .eligible } ∧
        ∀ r ∈ s.reqs, ∀ q p, r.stage = .bad q → p ∈ r.parts → p.ofGang c.who.gid c.who.gang = true →
          p.lane = 64 ∨ p.lane / 4 ∈ c.frag.quads → { r with stage := .flight } ∈ t.reqs) ∧
      (∀ lau, s.launches.find c.grp.launch = some lau →
        ∃ t y, exec (.terminate func) s = .next t ∧ Claims.MailboxDone t func 0 0 ∧ t.mem = s.mem ∧
          t.launches.find c.grp.launch = some y ∧ y.terminated = true ∧ y.allClaimed = true ∧
          RunEntry.launch c.grp.launch ∉ t.runList ∧
          ∀ k g, t.groups.find k = some g → g.launch = c.grp.launch → g.draining = true)) ∧
    (∀ i, (i = .replay func ∨ i = .cancel func) →
      s.xrecs.find? (fun r => 4096 * r.die + r.place == a0 && r.func == func) = none →
      ∃ t, exec i s = .next t ∧ Claims.MailboxDone t func 5 0 ∧ t.groups = s.groups ∧ t.xrecs = s.xrecs) ∧
    (∀ r w why va f, s.xrecs.find? (fun r => 4096 * r.die + r.place == a0 && r.func == func) = some r →
      r.parked = [(.frag w, why, va)] → s.fragOf w = some f → (∀ a b, f.state ≠ .faulted a b) →
      let left := s.xrecs.filter (fun x => !(x.die == r.die && x.place == r.place))
      (∃ t, exec (.replay func) s = .next t ∧ Claims.MailboxDone t func 0 0 ∧ t.xrecs = left ∧ t.mem = s.mem ∧
        t.fragOf w = some { f with state := .eligible, grant := none }) ∧
      (∃ t, exec (.cancel func) s = .next t ∧ Claims.MailboxDone t func 0 0 ∧ t.xrecs = left ∧ t.mem = s.mem ∧
        t.fragOf w = some { f with state := .eligible, grant := some (.walkFault why va) })))

/-- A fault raised in handler mode is never delegated: it goes to the agent with NESTED set, and RETRY then resumes the handler
at its own faulting instruction. -/
def Obligations.HandlerFaultsAreNested : Prop :=
  ∀ (w : Who) (s : State) (c : Ctx) (i : FaultInfo), s.ctxOf w = some c → c.frag.handler = true → c.frag.state = .faulted i none →
    exec (.delegatedFault w) s = .next s ∧ (c.entryOf i false).nested = true ∧ (c.entryOf i false).delegated = false ∧
    (i.reason ≠ .codeAbsent → ∀ s1 va, s.appendAt c.grp.launch c.core (c.entryOf i false) = (s1, some va) →
      ∃ t, exec (.faultDelivery w) s = .next t ∧ t.fragOf w = some { c.frag with state := .faulted i (some va) }) ∧
    ∀ (func : Nat) (u : State) (d : Ctx) (va : Nat), Claims.MailboxReady u func → ((u.fn func).hcArgs[0]).toNat = va →
      u.faultAt func va = some d → d.who = w → u.fragOf w = some d.frag → d.frag = { c.frag with state := .faulted i (some va) } →
      ∃ t f, exec (.retry func) u = .next t ∧ t.fragOf w = some f ∧ f.handler = true ∧ f.state = .eligible ∧ f.pc = c.frag.pc

/-- Pre-emption (R60, R225 to R228, R233, R397, R405, R408). PREEMPT names a group and gets its slot, or ends with a RESULT;
a group that waits gets a slot once one is free, and its halt begins once the claim has its time; at a boundary the group
halts: its waits are withdrawn, its accesses that are not performed and its commands that wait for the queue are taken into
the image (log 28), and its windows dropped; once its commands are done its image is written and it leaves its core; SAVED_TICK is
stored before STATUS COMPLETE, and then the host hears of it, or the agents' own RESUME joins the run list at its head; the
first RESUME of the run list is placed where its group fits, or fails with the number of the check; a lane focus that has
ended is reported and the group is to be saved. -/
def Obligations.PreemptionSteps : Prop :=
  (∀ (func : Nat) (s : State), Claims.MailboxReady s func →
    let a := (s.fn func).hcArgs
    let b := s.updFn func (fun f => { f with hcCmd := 1, hcBusy := true })
    (fld a[1] 32 32 ≠ 0 → ∃ t, exec (.preempt func) s = .next t ∧ Claims.MailboxDone t func 5 0 ∧ t.groups = s.groups) ∧
    (fld a[1] 32 32 = 0 → s.groupNamed func a[0].toNat (fld a[1] 0 32) = none →
      ∃ t, exec (.preempt func) s = .next t ∧ Claims.MailboxDone t func 3 0 ∧ t.groups = s.groups) ∧
    (∀ gid g, fld a[1] 32 32 = 0 → s.groupNamed func a[0].toNat (fld a[1] 0 32) = some (gid, g) → s.groups.find gid = some g →
      (∀ h k n, g.preempt = .claimed h k n →
        ∃ t, exec (.preempt func) s = .next t ∧ Claims.MailboxDone t func 0 k ∧
          t.groups.find gid = some { g with preempt := .claimed true k n }) ∧
      (∀ h k n r q x, g.preempt = .saving h k n r q x →
        ∃ t, exec (.preempt func) s = .next t ∧ Claims.MailboxDone t func 0 k ∧
          t.groups.find gid = some { g with preempt := .saving true k n r q x }) ∧
      (∀ lau, (g.preempt = .none ∨ ∃ h, g.preempt = .wanted h) → s.launches.find g.launch = some lau →
        let claim := (b.runSlots (coreOf gid)).claimSlot (coreOf gid) g.launch lau
        (∀ e, claim = .error e →
          ∃ t, exec (.preempt func) s = .next t ∧ Claims.MailboxDone t func 8 0 ∧ t.groups = s.groups) ∧
        (∀ s1, claim = .ok (s1, none) →
          ∃ t, exec (.preempt func) s = .next t ∧ Claims.MailboxDone t func 4 0 ∧ t.groups = s1.groups) ∧
        (∀ s1 k T x, claim = .ok (s1, some (k, T)) → s1.groups.find gid = some x →
          ∃ t, exec (.preempt func) s = .next t ∧ Claims.MailboxDone t func 0 k ∧
            t.groups.find gid = some { x with preempt := .claimed true k (max T s1.now) })))) ∧
  (∀ (gid : Nat) (s : State) (g : Group), s.groups.find gid = some g →
    (∀ host lau s1 k T x, g.preempt = .wanted host → s.launches.find g.launch = some lau →
      (s.runSlots (coreOf gid)).claimSlot (coreOf gid) g.launch lau = .ok (s1, some (k, T)) → s1.groups.find gid = some x →
      ∃ t, exec (.imageSlotClaim gid) s = .next t ∧ { t with groups := s1.groups, cores := s1.cores } = s1 ∧
        t.groups.find gid = some { x with preempt := .claimed host k (max T s1.now) }) ∧
    (∀ host k since, g.preempt = .claimed host k since → (∀ m ∈ s.monitors, m.who.gid ≠ some gid) → s.atBoundary gid g = true →
      since ≤ s.now →
      let u := s.takeCmds gid g
      ∃ t x rs, exec (.groupHalt gid) s = .next t ∧ t.groups.find gid = some x ∧
        x.preempt = .saving host k s.now rs (s.reqs.filter (fun r => r.cancels gid)) u.2 ∧ x.lines = [] ∧
        (∀ h, u.1.groups.find gid = some h → x.gangs.map Gang.frags = h.gangs.map (fun y => y.frags.map Frag.halt)) ∧
        (∀ r ∈ t.reqs, r.cancels gid = false) ∧
        x.gangs.map Gang.v = g.gangs.map Gang.v ∧ x.gangs.map Gang.g = g.gangs.map Gang.g ∧
        (∀ r ∈ (t.core (coreOf gid)).rsvs, r.who.gid ≠ gid) ∧ ∀ w ∈ t.walks, w.who.gid ≠ gid) ∧
    (∀ host slot halt rsvs reqs cmds lau s1 va g1 s2 due hosts, g.preempt = .saving host slot halt rsvs reqs cmds →
      s.launches.find g.launch = some lau → s.workDone gid = true →
      (∀ x ∈ s.saves, x.gid = gid → x.opened = true → s.writesDone x.due x.hosts = false) →
      (s.dropLines gid).imageVa (coreOf gid) lau.func lau.aspace lau.rcd.saveBase.toNat slot = .ok (s1, va) →
      s1.groups.find gid = some g1 →
      let pens := (s1.core (coreOf gid)).pennants.filter (fun p => p.gid == gid && !p.handling)
      let img := s1.imageOf gid g1 lau halt rsvs pens reqs cmds
      s1.unitStore lau.func lau.aspace (some g1.launch) va img 0 (coreOf gid) = .ok (s2, due, hosts) →
      ∃ t x, exec (.saveComplete gid) s = .next t ∧ t.groups.find gid = none ∧ x ∈ t.saves ∧ x.va = va ∧ x.image = img ∧
        x.opened = true ∧ x.due = due ∧ x.hosts = hosts ∧ x.host = host ∧ x.slot = slot ∧ x.launch = g1.launch ∧ x.reqs = reqs ∧
        x.cmds = cmds ∧ t.mem = s2.mem ∧ t.pending.map Pending.id = s2.pending.map Pending.id) ∧
    (∀ f lau, g.focus = some f → f.ended ≠ 0 → g.preempt = .none → g.draining = false → s.launches.find g.launch = some lau →
      lau.func ≤ Config.physFn →
      ∃ t, exec (.focusEnd gid) s = .next t ∧ t.mem = s.mem ∧ (t.fn lau.func).focus = focusReport (s.fn lau.func).focus f ∧
        t.groups.find gid = some { g with preempt := .wanted true })) ∧
  (∀ (gid : Nat) (s s1 s2 : State) (x : SaveRec) (r1 r2 : Nat × List Nat),
    s.saves.find? (fun x => x.gid == gid && x.opened && s.writesDone x.due x.hosts) = some x →
    x.host = true ∨ s.runList.length < 256 →
    let done := imageDone x.image s.now
    s.unitStore x.func x.aspace (some x.launch) (x.va + 0x30) (sec done 0x30 16) 0 (coreOf x.gid) = .ok (s1, r1) →
    s1.unitStore x.func x.aspace (some x.launch) x.va (sec done 0 8) r1.1 (coreOf x.gid) = .ok (s2, r2) →
    ∃ t, exec (.saveComplete gid) s = .next t ∧
      (∀ y ∈ t.saves, y.func = x.func → y.aspace = x.aspace → y.va = x.va → y.opened = false) ∧
      (x.host = true → t.runList = s2.runList) ∧
      (x.host = false → { t with saves := s2.saves, runList := s2.runList } = s2 ∧
        ∃ base, t.runList = .resume x.func x.aspace none base x.slot :: s2.runList)) ∧
  (∀ (core : Nat) (s s1 : State) (func aspace slot va : Nat) (q : Option Nat) (base : Reg) (rest : List RunEntry), core < Config.cores →
    s.runList = .resume func aspace q base slot :: rest → s.imageVa core func aspace base.toNat slot = .ok (s1, va) →
    (∀ k, s1.readImage core func aspace va = .error k →
      (q = none → exec (.resumePlace core) s = .next { s with runList := rest }) ∧
      (∀ n, q = some n → n < 8 → func ≤ Config.physFn →
        ∃ t, exec (.resumePlace core) s = .next t ∧ t.runList = rest ∧ t.groups.map Prod.fst = s.groups.map Prod.fst ∧
          (t.cq func n).state = 2 ∧ (t.cq func n).stopReason = 9 ∧ (t.cq func n).stopDetail = k)) ∧
    (∀ s2 img s3 l lau a, s1.readImage core func aspace va = .ok (s2, img) →
      State.launchFor { s2 with runList := rest } func aspace (word img 0x10) (s.saveOf func aspace va) = some (s3, l) →
      s3.launches.find l = some lau → lau.rcd.shape = bits (word img 0x18) 0 32 → lau.rcd.stash4k = bits (word img 0x20) 32 9 →
      (s3.core core).engine.count = (s3.core core).engine.issued →
      (s3.core core).waitingCmds + (imageCounts img).cmds ≤ Config.engineQueue → (s.fn func).focus.getLsbD 63 = false →
      s3.spotsFor core l lau.rcd (imageHandler img) (bits (word img 0x18) 32 32) = some (a, none) →
      ∃ t y, exec (.resumePlace core) s = .next t ∧ t.runList = rest ∧
        t.groups.find (core * Config.groupsPerCore + a.place) = some y ∧ y.launch = l ∧
        y.resumedBy = ((s.saveOf func aspace va).map (fun x => x.grp.resumedBy)).getD [] ++ q.toList ∧
        (imageHandler img = false → y.index = bits (word img 0x18) 32 32 ∨ (s.saveOf func aspace va).isSome = true) ∧
        ∀ d, d < 5 → (t.die d).hlc = (t.die 0).hlc))

namespace Sys2Proof.Claims
open Sys2Proof.Machine

/-- A mask-stack entry whose addresses are code addresses (R168). -/
def EntryOk (e : MaskEntry) : Prop :=
  e.resume.toNat % 2 = 0 ∧ e.resume.toNat < 2 ^ 57 ∧ ∀ j, e.join = some j → j.toNat % 2 = 0 ∧ j.toNat < 2 ^ 57

end Sys2Proof.Claims

/-- What an image keeps of a gang comes back (R230, R231, R233): from the GANG, QUAD and LANE records that a save writes,
a restore reads the uniform registers, the matrix and format registers, the handles, the sticky flags, the fault
registers, the uniform and lane predicates, the lane registers of the launch's width, and of each quad that is present its
mask, its mask stack and its %dix. -/
def Obligations.GangImageRoundTrip : Prop :=
  ∀ (x base : Gang) (width regs : Nat), 0 < width → width ≤ 64 → regs ≤ 96 → x.wct < 2 ^ 64 → x.batchNo < 2 ^ 64 →
    let y := base.parse width regs x.record (x.quads.toList.map Quad.record) (x.laneRecord width regs)
    y.g = x.g ∧ y.m = x.m ∧ y.h = x.h ∧ y.frec = x.frec ∧ y.fsticky = x.fsticky ∧ y.wct = x.wct ∧ y.batchNo = x.batchNo ∧
    (∀ q, q < 8 → y.qpred q = x.qpred q) ∧
    (∀ r l, r < regs → l < width → y.rdV r l = x.rdV r l) ∧
    (∀ p l, p < 8 → l < 64 → y.pred p l = x.pred p l) ∧
    ∀ i : Fin 16, x.quads[i].present = true → base.quads[i].present = true →
      y.quads[i].mask = x.quads[i].mask ∧ y.quads[i].dix = x.quads[i].dix ∧
      (x.quads[i].stack.length ≤ 32 → (∀ e ∈ x.quads[i].stack, Claims.EntryOk e) → y.quads[i].stack = x.quads[i].stack)

/-- The steps of the gain queues (R160, R209 to R211, R214): a held update is applied once its marker has come, before it
no other of its gang; OPEN is refused, with ERR, of a pool that is open or whose registers or entries are bad, and else
opens it, to close at once where it is below TOLERANCE or has no queued task; CLOSE abandons the queued tasks. -/
def Obligations.GainQueueSteps : Prop :=
  (∀ (k i : Nat) (s : State) (u : GqUpdate), k < 16 → (s.pool k).held[i]? = some u → u.marker ≤ s.now →
    (∀ x ∈ (s.pool k).held.take i, x.who.gid = u.who.gid → x.who.gang ≠ u.who.gang) →
    let p := { s.pool k with held := (s.pool k).held.eraseIdx i }
    (s.ctxOf u.who = none → exec (.gqUpdateApply k i) s = .next (s.setPool k p)) ∧
    ∀ c, s.ctxOf u.who = some c → (∀ a b, c.frag.state ≠ .faulted a b) →
      (∀ r, s.gqCheck c k (some u.task) (some u.value) = some r →
        exec (.gqUpdateApply k i) s = .next ((s.setPool k p).put (c.fault s.now r))) ∧
      (s.gqCheck c k (some u.task) (some u.value) = none →
        (∀ r, p.update u.max u.task u.value = .error r →
          exec (.gqUpdateApply k i) s = .next ((s.setPool k p).put (c.fault s.now r))) ∧
        (∀ q b, p.update u.max u.task u.value = .ok (q, b) →
          ∃ t, exec (.gqUpdateApply k i) s = .next t ∧
            (p.sleepers = [] → t.fragOf u.who = some { c.frag with state := .eligible, grant := some (.pred b) }) ∧
            ((t.pool k).state = 1 → q.sleepers = [] → t.pool k = q)))) ∧
  (∀ (func k : Nat) (s : State), k < 16 →
    let p := s.pool k
    ((p.owner ≠ func ∨ func = 0x1FF) →
      exec (.gqPoolOpen func k) s = .next s ∧ exec (.gqPoolClose func k) s = .next s) ∧
    (p.owner = func → func ≠ 0x1FF →
      (p.state ≠ 1 → exec (.gqPoolClose func k) s = .next s) ∧
      (p.state = 1 → ∃ t, exec (.gqPoolClose func k) s = .next t ∧ (t.pool k).state = 2 ∧ (t.pool k).closeReason = 3 ∧
        (t.pool k).sleepers = [] ∧ ∀ (i : Nat) (x : Task), p.tasks[i]? = some x →
          (t.pool k).tasks[i]? = some (if x.state = 1 then { x with state := 4 } else x)) ∧
      ((p.state = 1 ∨ p.ntasks = 0 ∨ 2 ^ 20 < p.ntasks ∨ p.base.toNat % 16 ≠ 0 ∨ p.spill.toNat % 16 ≠ 0 ∨
          2 ^ 38 < p.spill.toNat + 16 * p.ntasks ∨ posFin p.tolerance.toNat = false ∨ posFin p.threshold.toNat = false) →
        exec (.gqPoolOpen func k) s = .next (s.setPool k { p with err := true })) ∧
      (∀ s1 bs, p.state ≠ 1 → 0 < p.ntasks → p.ntasks ≤ 2 ^ 20 → p.base.toNat % 16 = 0 → p.spill.toNat % 16 = 0 →
        p.spill.toNat + 16 * p.ntasks ≤ 2 ^ 38 → posFin p.tolerance.toNat = true → posFin p.threshold.toNat = true →
        s.unitLoad p.owner p.aspace p.base.toNat (16 * p.ntasks) .read = .ok (s1, bs) →
        (parseTasks bs p.ntasks 0 = none → exec (.gqPoolOpen func k) s = .next (s.setPool k { p with err := true })) ∧
        (∀ ts, parseTasks bs p.ntasks 0 = some ts →
          let q : Pool := { p with tasks := ts, err := false, state := 1, closeReason := 0 }
          ∃ t, exec (.gqPoolOpen func k) s = .next t ∧
            (q.low = true → (t.pool k).state = 2 ∧ (t.pool k).closeReason = 1) ∧
            (q.low = false → (∀ x ∈ ts, x.state ≠ 1) → (t.pool k).state = 2 ∧ (t.pool k).closeReason = 2) ∧
            (q.low = false → (∃ x ∈ ts, x.state = 1) → p.sleepers = [] → t = s1.setPool k q)))))

/-- The host's registers that act (R19, R24, R40, R47, R192, R396, R413, R416, R424): EVQ_CTL and EVQ_HEAD, a change of an MX
region's mode and its end, which takes the lines of both views out of L2 (log 7), L2_WAYS with the masks it rejects, L2_LEASE with
its range, CODE_CANTON with the sum it rejects, TRC_CTL, PROF_CTL and MOD_PWR with its range. -/
def Sys2Proof.Claims.HostRegisters : Prop :=
  (∀ (func v : Nat) (s : State), s.trust.accepted = true → func ≤ Config.physFn →
    let f := s.fn func
    (let size := if f.evEn then f.evSize else bits v 16 4
     ∃ t, exec (.evqCtlWrite func v) s = .next t ∧ (t.fn func).evSize = size ∧ (t.fn func).evVector = v % 2 ^ 16 ∧
       (t.fn func).evEn = (bits v 31 1 == 1 && decide (6 ≤ size ∧ size ≤ 16)) ∧
       (f.evWait = [] → f.evDue = none → (t.fn func).evLost = (f.evLost && bits v 32 1 == 0) ∧ { t with funcs := s.funcs } = s)) ∧
    (∃ t, exec (.evqHeadWrite func v) s = .next t ∧ (t.fn func).evHead = BitVec.ofNat 32 v ∧
      (f.evWait = [] → f.evDue = none → t = s.setFn func { f with evHead := BitVec.ofNat 32 v })) ∧
    (let alloc : BitVec 16 := BitVec.ofNat 16 v
     let code : BitVec 16 := BitVec.ofNat 16 (v / 2 ^ 16)
     let adapt : BitVec 16 := BitVec.ofNat 16 (v / 2 ^ 32)
     let bad : Prop := 4 < ((List.range 16).filter (fun i => code.getLsbD i)).length ∨ (code ||| adapt) &&& ~~~alloc ≠ 0 ∨
       code &&& adapt ≠ 0 ∨ ∃ g, g ≤ Config.physFn ∧ g ≠ func ∧
         ((code ||| adapt) &&& ((s.fn g).alloc ||| (s.fn g).code ||| (s.fn g).adapt) ≠ 0 ∨ alloc &&& ((s.fn g).code ||| (s.fn g).adapt) ≠ 0)
     (bad → exec (.l2WaysWrite func v) s = .next (s.setFn func { f with waysErr := true })) ∧
     (¬ bad → exec (.l2WaysWrite func v) s =
       .next (s.setFn func { f with waysErr := false, adapt := adapt, code := code, alloc := alloc }))) ∧
    (∃ n, exec (.l2LeaseWrite func v) s = .next (s.setFn func { f with lease := n }) ∧ 32 ≤ n ∧ n ≤ 4096 ∧
      (v % 2 ^ 13 < 32 → n = 32) ∧ (4096 < v % 2 ^ 13 → n = 4096) ∧
      (32 ≤ v % 2 ^ 13 → v % 2 ^ 13 ≤ 4096 → n = v % 2 ^ 13)) ∧
    (let others := ((List.range 257).filter (fun g => g != func)).map (fun g => (s.fn g).quota)
     (128 < v % 256 ∨ 128 < others.sum + v % 256 →
       exec (.codeCantonWrite func v) s = .next (s.setFn func { f with cantonErr := true })) ∧
     (v % 256 ≤ 128 → others.sum + v % 256 ≤ 128 →
       exec (.codeCantonWrite func v) s = .next (s.setFn func { f with cantonErr := false, quota := v % 256 }))) ∧
    (let size := if f.trcEn then f.trcSize else v % 16
     ∃ t, exec (.traceEnable func v) s = .next t ∧ { t with funcs := s.funcs } = s ∧
       (t.fn func).trcEn = (bits v 63 1 == 1 && decide (6 ≤ size)) ∧ (t.fn func).trcSize = size ∧
       (t.fn func).trcKinds = bits v 16 8 ∧
       (f.trcEn = false → (t.fn func).trcEn = true → ∀ r ∈ (t.fn func).rings, r.head = 0 ∧ r.tail = 0) ∧
       ∀ g, g ≠ func → t.fn g = s.fn g)) ∧
  (∀ (e v : Nat) (on : Bool) (s : State), s.trust.accepted = true →
    (∀ mode, e < 64 → mode < 3 → exec (.mxModeChange e mode) s = .next (s.setMx e { s.mxe e with mode := mode, busy := true })) ∧
    (∀ mode, 64 ≤ e ∨ 3 ≤ mode → exec (.mxModeChange e mode) s = .next s) ∧
    (e < Config.cores → exec (.profFreeze e on) s = .next (s.setCore e { s.core e with profFreeze := on }) ∧
      exec (.profClear e) s = .next (s.setCore e { s.core e with prof := [] })) ∧
    (let w := v % 2 ^ 12
     let x := if w < 1200 then 1200 else if 2200 < w then 2200 else w
     exec (.powerLimitWrite v) s = .next { s with limit := x, powerStretch := decide (x < s.measured) })) ∧
  (∀ (e : Nat) (s : State), ((s.mxe e).busy = false → exec (.mxModeChangeDone e) s = .next s) ∧
    ((s.mxe e).busy = true →
      ∃ t, exec (.mxModeChangeDone e) s = .next t ∧ { t with l2 := s.l2, mx := s.mx } = s ∧
        t.mxe e = { s.mxe e with busy := false } ∧ (∀ e', e' ≠ e → t.mxe e' = s.mxe e') ∧
        t.l2.map (fun x => (x.1, x.2.plru)) = s.l2.map (fun x => (x.1, x.2.plru)) ∧
        ∀ k x y (i : Fin 16), s.l2.find k = some x → t.l2.find k = some y →
          (y.ways[i] = x.ways[i] ∧ ∀ w, x.ways[i] = some w → (s.mxe e).onLine w.line = false) ∨
          (y.ways[i] = none ∧ ∃ w, x.ways[i] = some w ∧ (s.mxe e).onLine w.line = true))) ∧
  (∀ (i : Instr) (s : State) (func v : Nat), s.trust.accepted = false ∨ Config.physFn < func →
    i = .evqCtlWrite func v ∨ i = .evqHeadWrite func v ∨ i = .l2WaysWrite func v ∨ i = .l2LeaseWrite func v ∨
      i = .codeCantonWrite func v ∨ i = .traceEnable func v → exec i s = .next s)

/-- The register map (R386, R397, R402). A register is written or read by an aligned access of 64 bits, or half of it by an
aligned access of 32; any other access completes with Completer Abort. A write of an offset that no table lists or of a
register that is read-only changes nothing; until firmware is accepted only the physical function's mailbox takes writes. A
write reaches the register's own action; HC_CMD starts the command of its code. An unlisted offset reads 0, HC_CMD and HC_ARG
what they hold. Past a function's window there is no register (log 115). -/
def Sys2Proof.Claims.RegisterMap : Prop :=
  (∀ (func off size : Nat) (v : Option Nat) (s : State),
    let past := Config.physFn < func ∨ (func < Config.physFn ∧ 2 ^ 16 ≤ off) ∨ 2 ^ 22 ≤ off
    let misfit := (size ≠ 8 ∨ off % 8 ≠ 0) ∧ (size ≠ 4 ∨ off % 4 ≠ 0)
    let answer : Option (List Byte) → Host.Outcome State Fault Refusal := fun data =>
      .next { s with out := s.out ++ [Output.bar0 func data] }
    (past → exec (.registerWrite func off size v) s = .next s) ∧
    (¬ past → misfit → exec (.registerWrite func off size v) s = answer none) ∧
    (¬ past → ¬ misfit → s.trust.accepted = false → func ≠ Config.physFn ∨ 0x28 ≤ off → v ≠ none →
      exec (.registerWrite func off size v) s = .next s) ∧
    (¬ past → ¬ misfit → v = none →
      exec (.registerWrite func off size v) s =
        answer (some (toLE size (s.regRead func (off / 8 * 8) / (if off % 8 = 0 then 1 else 2 ^ 32)))))) ∧
  (∀ (func : Nat) (s : State),
    (∀ o, o % 8 = 0 → (0x30 ≤ o ∧ o < 0x100) ∨ (0x120 ≤ o ∧ o < 0x200) ∨ (0x420 ≤ o ∧ o < 0x500) ∨ (0x968 ≤ o ∧ o < 0xA00) ∨
      (0xA30 ≤ o ∧ o < 0xB00) ∨ (func < Config.physFn ∧ 0xB00 < o) → s.regRead func o = 0) ∧
    (∀ j : Fin 4, s.regRead func (8 + 8 * j.val) = ((s.fn func).hcArgs[j]).toNat) ∧
    s.regRead func 0 = (s.fn func).hcCmd.toNat) ∧
  (∀ (func v : Nat) (s : State), s.trust.accepted = true → func ≤ Config.physFn → v < 2 ^ 64 →
    exec (.registerWrite func 0x108 8 (some v)) s = exec (.evqCtlWrite func v) s ∧
    exec (.registerWrite func 0x110 8 (some v)) s = exec (.evqHeadWrite func v) s ∧
    exec (.registerWrite func 0x908 8 (some v)) s = exec (.traceEnable func v) s ∧
    (∀ q, q < 8 → exec (.registerWrite func (0x208 + 64 * q) 8 (some v)) s = exec (.cqEnable func q v) s ∧
      exec (.registerWrite func (0x218 + 64 * q) 8 (some v)) s = exec (.cqDoorbell func q (v % 2 ^ 32)) s) ∧
    (∀ k, k < 16 → (s.pool k).owner = func →
      (v % 4 = 1 → exec (.registerWrite func (0x500 + 64 * k) 8 (some v)) s = exec (.gqPoolOpen func k) s) ∧
      (v % 4 = 2 → exec (.registerWrite func (0x500 + 64 * k) 8 (some v)) s = exec (.gqPoolClose func k) s)) ∧
    (∀ j : Fin 4, exec (.registerWrite func (8 + 8 * j.val) 8 (some v)) s =
      .next (s.setFn func { s.fn func with hcArgs := (s.fn func).hcArgs.set j (BitVec.ofNat 64 v) })) ∧
    (∀ f, f ≤ Config.physFn → func = Config.physFn →
      exec (.registerWrite func (0x10000 + 0x40 * f) 8 (some v)) s = exec (.l2WaysWrite f v) s ∧
      exec (.registerWrite func (0x10008 + 0x40 * f) 8 (some v)) s = exec (.l2LeaseWrite f v) s ∧
      exec (.registerWrite func (0x10010 + 0x40 * f) 8 (some v)) s = exec (.codeCantonWrite f v) s) ∧
    (func < Config.physFn → ∀ o, o = 0x400 ∨ o = 0x408 ∨ o = 0x410 ∨ o = 0xB00 → exec (.registerWrite func o 8 (some v)) s = .next s) ∧
    (func = Config.physFn → exec (.registerWrite func 0xB00 8 (some v)) s = exec (.powerLimitWrite v) s ∧
      (∀ k, k < 16 → exec (.registerWrite func (0x18000 + 8 * k) 8 (some v)) s = .next (s.setPool k { s.pool k with owner := bits v 32 9 })) ∧
      ∀ e, e < 64 → (s.mxe e).modeOf ≠ 0 → exec (.registerWrite func (0x20000 + 0x20 * e) 8 (some v)) s = .next s) ∧
    (∀ j : Fin 4,
      let old := ((s.fn func).hcArgs[j]).toNat
      let arg : Nat → Host.Outcome State Fault Refusal := fun x =>
        .next (s.setFn func { s.fn func with hcArgs := (s.fn func).hcArgs.set j (BitVec.ofNat 64 x) })
      exec (.registerWrite func (8 + 8 * j.val) 4 (some v)) s = arg (old / 2 ^ 32 * 2 ^ 32 + v % 2 ^ 32) ∧
      exec (.registerWrite func (12 + 8 * j.val) 4 (some v)) s = arg (old % 2 ^ 32 + v % 2 ^ 32 * 2 ^ 32)) ∧
    (∀ o, o % 8 = 0 → (0x28 ≤ o ∧ o < 0x100) ∨ (0x118 ≤ o ∧ o < 0x200) ∨ (0x420 ≤ o ∧ o < 0x500) ∨ (0x938 ≤ o ∧ o < 0xA00) ∨
      (0xA30 ≤ o ∧ o < 0xB00) ∨ (func < Config.physFn ∧ 0xB00 ≤ o) → exec (.registerWrite func o 8 (some v)) s = .next s)) ∧
  (∀ (func : Nat) (s : State), s.trust.accepted = true → func ≤ Config.physFn →
    exec (.registerWrite func 0 8 (some 1)) s = exec (.preempt func) s ∧ exec (.registerWrite func 0 8 (some 2)) s = exec (.retry func) s ∧
    exec (.registerWrite func 0 8 (some 3)) s = exec (.terminate func) s ∧ exec (.registerWrite func 0 8 (some 4)) s = exec (.replay func) s ∧
    exec (.registerWrite func 0 8 (some 5)) s = exec (.cancel func) s ∧ exec (.registerWrite func 0 8 (some 6)) s = exec (.invalidate func) s ∧
    exec (.registerWrite func 0 8 (some 7)) s = exec (.peerSet func) s ∧ exec (.registerWrite func 0 8 (some 8)) s = exec (.collSetup func) s ∧
    exec (.registerWrite func 0 8 (some 9)) s = exec (.attest func) s ∧ exec (.registerWrite func 0 8 (some 10)) s = exec (.functionReset func) s ∧
    exec (.registerWrite func 0 8 (some 16)) s = exec (.moduleLoad func) s ∧ exec (.registerWrite func 0 8 (some 17)) s = exec (.moduleBind func) s ∧
    exec (.registerWrite func 0 8 (some 18)) s = exec (.moduleUnload func) s ∧ exec (.registerWrite func 0 8 (some 19)) s = exec (.keyEnroll func) s ∧
    exec (.registerWrite func 0 8 (some 20)) s = exec (.fwLoad func) s)

namespace Sys2Proof.Claims
open Sys2Proof.Machine

/-- The state in which a mailbox command runs: its code is in HC_CMD, and BUSY is 1. -/
def Taken (s : State) (func : Nat) (code : Reg) : State := s.updFn func (fun f => { f with hcCmd := code, hcBusy := true })

/-- The mailbox commands of a function. -/
def mailbox (i : Instr) : Option Nat :=
  match i with
  | .preempt f | .retry f | .terminate f | .replay f | .cancel f | .invalidate f | .peerSet f | .collSetup f | .attest f
  | .functionReset f | .moduleLoad f | .moduleBind f | .moduleUnload f | .keyEnroll f | .fwLoad f => some f
  | _ => none

/-- Those of the physical function alone (R397). -/
def physOnly (i : Instr) : Option Nat :=
  match i with
  | .moduleLoad f | .moduleBind f | .moduleUnload f | .keyEnroll f | .fwLoad f => some f
  | _ => none

end Sys2Proof.Claims

/-- The mailbox (R28, R60, R397, R401 to R404): a command is ignored while BUSY is 1, and but for FW_LOAD until firmware is
accepted; a code that no table lists ends with RESULT 5, one of the wrong issuer with RESULT 1, and changes nothing else.
INVALIDATE drops the translations of the function that it names, in every cache, and the window lines filled through them
(which bytes its arguments name: log 49), and ends once what used them is done; PEER_SET and COLL_SETUP fill their tables;
ATTEST raises the leaf counter, writes a signature over the report that begins with its leaf, and ends with RESULT 2 once
2^20 signatures are used; FUNCTION_RESET disables the function's
queues, disarms its ARM entries and terminates its launches. -/
def Sys2Proof.Claims.MailboxCommands : Prop :=
  (∀ (i : Instr) (func : Nat) (s : State), Claims.mailbox i = some func →
    (Config.physFn < func ∨ (s.fn func).hcBusy = true → exec i s = .next s) ∧
    (s.trust.accepted = false → (∀ f, i ≠ .fwLoad f) → exec i s = .next s) ∧
    (Claims.physOnly i = some func → func ≠ Config.physFn → Claims.MailboxReady s func →
      ∃ t, exec i s = .next t ∧ Claims.MailboxDone t func 1 0 ∧ { t with funcs := s.funcs } = s)) ∧
  (∀ (func code : Nat) (s : State), Claims.MailboxReady s func →
    (code ≤ 0x14 → code ≠ 0 → code ≤ 0xA ∨ 0x10 ≤ code → exec (.hcCmdUnknown func code) s = .next s) ∧
    (0x14 < code ∨ code = 0 ∨ (0xA < code ∧ code < 0x10) →
      ∃ t, exec (.hcCmdUnknown func code) s = .next t ∧ Claims.MailboxDone t func 5 0 ∧ { t with funcs := s.funcs } = s ∧
        (t.fn func).hcCmd = BitVec.ofNat 64 (code % 256))) ∧
  (∀ (func : Nat) (s : State), Claims.MailboxReady s func →
    let a := (s.fn func).hcArgs
    (let named : Nat → Nat → Nat → Prop := fun aspace va n =>
       ∀ x lo hi, Config.invalidateScope a.toList = some (x, lo, hi) → aspace = x ∧ lo < va + n ∧ va < hi
     ∃ t, exec (.invalidate func) s = .next t ∧ (t.fn func).hcBusy = true ∧ (t.fn func).hcMark = t.nextId ∧
       (∀ x, x ∈ t.tlb ↔ x ∈ s.tlb ∧ ¬ (x.func = func ∧ named x.aspace (x.page * 2 ^ spanOf x.lvl) (2 ^ spanOf x.lvl))) ∧
       (∀ k g' l j, t.groups.find k = some g' → t.launches.find g'.launch = some l → l.func = func →
         named l.aspace ((g'.windowVa j).getD 0) 64 → g'.lines.find j = none) ∧
       (∀ k g', s.groups.find k = some g' → (∀ x l, (k, x) ∈ s.groups → s.launches.find x.launch = some l → l.func ≠ func) →
         t.groups.find k = some g')) ∧
    (64 ≤ a[0].toNat ∨ fld a[1] 25 7 ≠ 0 ∨ fld a[1] 40 24 ≠ 0 →
      ∃ t, exec (.peerSet func) s = .next t ∧ Claims.MailboxDone t func 5 0 ∧ (t.fn func).peers = (s.fn func).peers) ∧
    (a[0].toNat < 64 → fld a[1] 25 7 = 0 → fld a[1] 40 24 = 0 →
      ∃ t, exec (.peerSet func) s = .next t ∧ Claims.MailboxDone t func 0 0 ∧ { t with funcs := s.funcs } = s ∧
        (t.fn func).peers.find a[0].toNat =
          some { id := a[0].toNat, device := fld a[1] 0 16, func := fld a[1] 16 9, ports := fld a[1] 32 8 } ∧
        ∀ j, j ≠ a[0].toNat → (t.fn func).peers.find j = (s.fn func).peers.find j) ∧
    (16 ≤ a[0].toNat → ∃ t, exec (.collSetup func) s = .next t ∧ Claims.MailboxDone t func 5 0 ∧ (t.fn func).colls = (s.fn func).colls) ∧
    (∀ s1 w s2 ids, a[0].toNat < 16 → (Claims.Taken s func 8).unitWord func 0 a[1].toNat 8 .read = .ok (s1, w) →
      (bits w 0 32 < 2 ∨ 64 < bits w 0 32 ∨ bits w 0 32 ≤ bits w 32 32 →
        ∃ t, exec (.collSetup func) s = .next t ∧ Claims.MailboxDone t func 5 0 ∧ (t.fn func).colls = (s.fn func).colls) ∧
      (2 ≤ bits w 0 32 → bits w 0 32 ≤ 64 → bits w 32 32 < bits w 0 32 →
        s1.unitLoad func 0 (a[1].toNat + 8) (bits w 0 32) .read = .ok (s2, ids) →
        ∃ t x, exec (.collSetup func) s = .next t ∧ Claims.MailboxDone t func 0 0 ∧ t.mem = s2.mem ∧
          (t.fn func).colls.find a[0].toNat = some x ∧ x.n = bits w 0 32 ∧ x.rank = bits w 32 32 ∧ x.peers = ids.map BitVec.toNat)) ∧
    (2 ^ 20 ≤ s.trust.leaf → ∃ t, exec (.attest func) s = .next t ∧ Claims.MailboxDone t func 2 0 ∧ { t with funcs := s.funcs } = s) ∧
    (∀ s1 nonce, s.trust.leaf < 2 ^ 20 → (Claims.Taken s func 9).unitLoad func 0 a[0].toNat 32 .read = .ok (s1, nonce) →
      let s2 : State := { s1 with trust := { s1.trust with leaf := s1.trust.leaf + 1 } }
      let rep := (Claims.Taken s func 9).report func nonce
      let sig := toBE 4 s.trust.leaf ++ (List.range (xmssSigLen - 4)).map (Config.attestSig s.trust.leaf rep)
      (∀ s3 r, s2.unitStore func 0 none a[1].toNat (rep ++ sig) = .ok (s3, r) →
        ∃ t, exec (.attest func) s = .next t ∧ Claims.MailboxDone t func 0 0 ∧ { t with funcs := s3.funcs } = s3) ∧
      (∀ e, s2.unitStore func 0 none a[1].toNat (rep ++ sig) = .error e →
        ∃ t, exec (.attest func) s = .next t ∧ Claims.MailboxDone t func 8 0 ∧ { t with funcs := s2.funcs } = s2)) ∧
    (let target := if func = Config.physFn then a[0].toNat else func
     (Config.physFn < target → ∃ t, exec (.functionReset func) s = .next t ∧ Claims.MailboxDone t func 5 0 ∧ t.groups = s.groups) ∧
     (target ≤ Config.physFn →
       ∃ t, exec (.functionReset func) s = .next t ∧ Claims.MailboxDone t func 0 0 ∧ (t.fn target).arms = [] ∧
         (∀ q, q < 8 → (t.cq target q).en = false) ∧
         ∀ l lau, s.launches.find l = some lau → lau.func = target → lau.complete = false →
           (∃ y, t.launches.find l = some y ∧ y.terminated = true ∧ y.allClaimed = true) ∧
           ∀ k g, t.groups.find k = some g → g.launch = l → g.draining = true))) ∧
  (∀ (func : Nat) (s : State), (s.fn func).hcBusy = true → (s.fn func).hcCmd = 6 →
    (∀ r ∈ s.reqs, r.func = func → (s.fn func).hcMark ≤ r.id) → (∀ p ∈ s.pending, p.func = func → p.id < (s.fn func).hcMark → p.t ≤ s.now) →
    ∃ t, exec (.invalidateComplete func) s = .next t ∧ Claims.MailboxDone t func 0 0 ∧ { t with funcs := s.funcs } = s)

/-- Modules, keys and firmware (R180 to R182, R193, R398, R402, R403). MODULE_LOAD fills the lowest FREE entry with what it
verified, or ends with RESULT 5, 6, 7 or 8; MODULE_BIND of a LOADED module fills a free slot that conflicts with none, or frees it; MODULE_UNLOAD
revokes, and ends once no entry of any core names the module; KEY_ENROLL fills or clears its slot; FW_LOAD writes over the
image, which the root of trust checks at a reset. -/
def Sys2Proof.Claims.ModuleCommands : Prop :=
  (∀ (s : State), let func := Config.physFn
    Claims.MailboxReady s func →
    let a := (s.fn func).hcArgs
    (let len := fld a[1] 0 16
     let b := Claims.Taken s func 0x10
     (a[0].toNat % 4096 ≠ 0 ∨ len = 0 ∨ fld a[1] 49 15 ≠ 0 ∨ 8 ≤ a[3].toNat →
       ∃ t, exec (.moduleLoad func) s = .next t ∧ Claims.MailboxDone t func 5 0 ∧ t.modules = s.modules) ∧
     (a[0].toNat % 4096 = 0 → len ≠ 0 → fld a[1] 49 15 = 0 → a[3].toNat < 8 →
       ((∀ i, i < 256 → (s.modl i).state ≠ 0) ∨ s.trust.keys.find a[3].toNat = none →
         ∃ t, exec (.moduleLoad func) s = .next t ∧ Claims.MailboxDone t func 7 0 ∧ t.modules = s.modules) ∧
       (∀ i key s1 bs s2 sig, i < 256 → (s.modl i).state = 0 → (∀ j, j < i → (s.modl j).state ≠ 0) →
         s.trust.keys.find a[3].toNat = some key → b.unitLoad func 0 a[0].toNat (len * 4096) .read = .ok (s1, bs) →
         b.unitLoad func 0 a[2].toNat xmssSigLen .read = .ok (s2, sig) →
         let words := (bs.drop (fld a[1] 16 16 * 4096)).take (4 * fld a[1] 32 16)
         let dir := parseDir len ((wordsOf words).map BitVec.toNat) 0
         let verified := xmssVerify key (shake256 bs ++ toLE 8 a[1].toNat) sig
         (dir = none ∨ words.length ≠ 4 * fld a[1] 32 16 ∨ verified = false →
           ∃ t, exec (.moduleLoad func) s = .next t ∧ Claims.MailboxDone t func 6 0 ∧ t.modules = s.modules) ∧
         (∀ d, dir = some d → words.length = 4 * fld a[1] 32 16 → verified = true →
           ∃ t, exec (.moduleLoad func) s = .next t ∧ Claims.MailboxDone t func 0 i ∧ t.mem = s1.mem ∧
             (t.modl i).state = 1 ∧ (t.modl i).digest = shake256 bs ∧ (t.modl i).len = len ∧ (t.modl i).dir = d ∧
             (t.modl i).bytes = bs ∧ (t.modl i).shared = (fld a[1] 48 1 == 1) ∧ ∀ j, j ≠ i → t.modl j = s1.modl j)))) ∧
    (let f := fld a[1] 0 9
     let slot := fld a[1] 32 6
     let bad : Prop := 256 ≤ a[0].toNat ∨ Config.physFn < f ∨ fld a[1] 9 7 ≠ 0 ∨ fld a[1] 20 12 ≠ 0 ∨ fld a[1] 38 2 ≠ 0 ∨
       fld a[1] 41 23 ≠ 0 ∨ a[3] ≠ 0 ∨ (fld a[1] 40 1 = 0 ∧ a[2].toNat % 4096 ≠ 0)
     let b : Binding := { modIdx := a[0].toNat, aspace := fld a[1] 16 4, va4k := a[2].toNat / 4096 }
     (bad → ∃ t, exec (.moduleBind func) s = .next t ∧ Claims.MailboxDone t func 5 0 ∧ ∀ g, (t.fn g).bindings = (s.fn g).bindings) ∧
     (¬ bad → fld a[1] 40 1 = 1 → (s.modl a[0].toNat).state ≠ 1 →
       ∃ t, exec (.moduleBind func) s = .next t ∧ Claims.MailboxDone t func 7 0 ∧ ∀ g, (t.fn g).bindings = (s.fn g).bindings) ∧
     (¬ bad → fld a[1] 40 1 = 1 → (s.modl a[0].toNat).state = 1 →
       ∃ t, exec (.moduleBind func) s = .next t ∧ Claims.MailboxDone t func 0 0 ∧ (t.fn f).bindings.find slot = none ∧
         ∀ j, j ≠ slot → (t.fn f).bindings.find j = (s.fn f).bindings.find j) ∧
     (¬ bad → fld a[1] 40 1 = 0 →
       (((s.fn f).bindings.find slot).isSome = true ∨ (Claims.Taken s func 0x11).bindClash f b = true →
         ∃ t, exec (.moduleBind func) s = .next t ∧ Claims.MailboxDone t func 7 0 ∧ ∀ g, (t.fn g).bindings = (s.fn g).bindings) ∧
       ((s.fn f).bindings.find slot = none → (Claims.Taken s func 0x11).bindClash f b = false →
         ∃ t, exec (.moduleBind func) s = .next t ∧ Claims.MailboxDone t func 0 0 ∧ (t.fn f).bindings.find slot = some b ∧
           ∀ g, g ≠ f → (t.fn g).bindings = (s.fn g).bindings))) ∧
    ((256 ≤ a[0].toNat ∨ a[1] ≠ 0 ∨ a[2] ≠ 0 ∨ a[3] ≠ 0 →
       ∃ t, exec (.moduleUnload func) s = .next t ∧ Claims.MailboxDone t func 5 0 ∧ t.modules = s.modules) ∧
     (a[0].toNat < 256 → a[1] = 0 → a[2] = 0 → a[3] = 0 → ((s.modl a[0].toNat).state ≠ 1 →
       ∃ t, exec (.moduleUnload func) s = .next t ∧ Claims.MailboxDone t func 7 0 ∧ t.modules = s.modules) ∧
      ((s.modl a[0].toNat).state = 1 →
       ∃ t, exec (.moduleUnload func) s = .next t ∧ (t.fn func).hcBusy = true ∧ (t.fn func).hcCmd = 0x12 ∧
         t.modl a[0].toNat = { s.modl a[0].toNat with state := 2 } ∧ t.groups = s.groups ∧ t.mem = s.mem ∧
         ∀ (core : Nat) (i : Fin 64), (t.core core).residency[i] = { (s.core core).residency[i] with
           revoked := (s.core core).residency[i].revoked ||
             decide ((s.core core).residency[i].state ≠ 0 ∧ (s.core core).residency[i].modIdx = a[0].toNat) }))) ∧
    ((fld a[1] 3 5 ≠ 0 ∨ fld a[1] 9 55 ≠ 0 ∨ a[2] ≠ 0 ∨ a[3] ≠ 0 →
       ∃ t, exec (.keyEnroll func) s = .next t ∧ Claims.MailboxDone t func 5 0 ∧ t.trust = s.trust) ∧
     (fld a[1] 3 5 = 0 → fld a[1] 9 55 = 0 → a[2] = 0 → a[3] = 0 →
       (fld a[1] 8 1 = 1 → ∃ t, exec (.keyEnroll func) s = .next t ∧ Claims.MailboxDone t func 0 0 ∧
         t.trust = { s.trust with keys := s.trust.keys.del (fld a[1] 0 3) }) ∧
       (∀ s1 key, fld a[1] 8 1 = 0 → (Claims.Taken s func 0x13).unitLoad func 0 a[0].toNat 68 .read = .ok (s1, key) →
         (beNat (key.take 4) ≠ 0x12 → ∃ t, exec (.keyEnroll func) s = .next t ∧ Claims.MailboxDone t func 6 0 ∧ t.trust = s.trust) ∧
         (beNat (key.take 4) = 0x12 → ∃ t, exec (.keyEnroll func) s = .next t ∧ Claims.MailboxDone t func 0 0 ∧
           t.trust = { s1.trust with keys := s1.trust.keys.set (fld a[1] 0 3) key })))) ∧
    ((a[0].toNat % 4096 ≠ 0 ∨ a[1].toNat < 4096 ∨ 2 ^ 26 < a[1].toNat ∨ a[3] ≠ 0 →
       ∃ t, exec (.fwLoad func) s = .next t ∧ Claims.MailboxDone t func 5 0 ∧ t.trust = s.trust) ∧
     (∀ s1 image s2 sig, a[0].toNat % 4096 = 0 → 4096 ≤ a[1].toNat → a[1].toNat ≤ 2 ^ 26 → a[3] = 0 →
       (Claims.Taken s func 0x14).unitLoad func 0 a[0].toNat a[1].toNat .read = .ok (s1, image) →
       (Claims.Taken s func 0x14).unitLoad func 0 a[2].toNat xmssSigLen .read = .ok (s2, sig) →
       (s.trust.passes image sig = false →
         ∃ t, exec (.fwLoad func) s = .next t ∧ Claims.MailboxDone t func 6 0 ∧ t.trust = s.trust) ∧
       (s.trust.passes image sig = true →
         ∃ t, exec (.fwLoad func) s = .next t ∧ Claims.MailboxDone t func 0 ((Config.fwVersion image).toNat % 2 ^ 32) ∧
           t.trust = { s1.trust with image := image, sig := sig })))) ∧
  (∀ (func : Nat) (s : State) (i : Nat) (m : Module), (s.fn func).hcBusy = true → (s.fn func).hcCmd = 0x12 →
    s.modules.find? (fun x => x.2.state == 2) = some (i, m) →
    (∀ k x, (k, x) ∈ s.cores → ∀ e ∈ x.residency, e.state ≠ 0 → e.modIdx ≠ i) →
    ∃ t, exec (.moduleUnloadComplete func) s = .next t ∧ Claims.MailboxDone t func 0 0 ∧ t.modl i = Module.free ∧
      t.groups = s.groups ∧ ∀ g j b, (t.fn g).bindings.find j = some b → b.modIdx ≠ i) ∧
  (∀ s : State, ∃ t, exec .firmwareVerify s = .next t ∧ { t with trust := s.trust } = s ∧
    { t.trust with digest := s.trust.digest, version := s.trust.version, accepted := s.trust.accepted } = s.trust ∧
    t.trust.digest = shake256 s.trust.image ∧
    (t.trust.accepted = true ↔ s.trust.minVersion.toNat ≤ (Config.fwVersion s.trust.image).toNat ∧
      xmssVerify s.trust.key (shake256 s.trust.image) s.trust.sig = true ∧ shake256 s.trust.key = s.trust.fused))

/-- L2_LEASE: the lease length of a function is LEASE_TICKS, no fewer than 32 ticks and no more than 4,096; its other bits
store nothing, and nothing else changes. -/
def Obligations.LeaseRegister : Prop :=
  ∀ (func v : Nat) (s : State), s.trust.accepted = true → func ≤ Config.physFn →
    ∃ t, exec (.l2LeaseWrite func v) s = .next t ∧ { t with funcs := s.funcs } = s ∧ { t.fn func with lease := 0 } = { s.fn func with lease := 0 } ∧
      (∀ g, g ≠ func → t.fn g = s.fn g) ∧ (v % 2 ^ 13 < 32 → (t.fn func).lease = 32) ∧ (4096 < v % 2 ^ 13 → (t.fn func).lease = 4096) ∧
      (32 ≤ v % 2 ^ 13 → v % 2 ^ 13 ≤ 4096 → (t.fn func).lease = v % 2 ^ 13) ∧ (State.reset.fn func).lease = 128

/-- Errors, and what stands in for what fails (R38, R60, R234, R401, R418, R420 to R422). A corrected error and a successful
retry count and do nothing else; a lasting one sends an ERROR event, and of a storage array makes its line uncorrectable; of a
line that is lost on its way to memory, memory keeps the older value (which one: log 44), and no other line changes. A core that is retired has its groups saved or ended,
and once they have left a spare takes its number, all its stores empty; a slice's requests go to the next live slice of its
die, whose LEASE_HORIZON rises to all that the retired one held; a device has one spare, to which lines are copied. -/
def Sys2Proof.Claims.ErrorsAndSpares : Prop :=
  (∀ (die kind pa : Nat) (s : State), (5 ≤ die ∨ 3 < kind → exec (.errorRetry die kind pa) s = .next s) ∧
    (die < 5 →
      (∃ t, exec (.errorRetry die 0 pa) s = .next t ∧ { t with dies := s.dies } = s ∧ t.die die = { s.die die with corr := (s.die die).corr + 1 } ∧
        ∀ d, d ≠ die → t.die d = s.die d) ∧
      (∃ t, exec (.errorRetry die 1 pa) s = .next t ∧ { t with dies := s.dies } = s ∧
        t.die die = { s.die die with transient := (s.die die).transient + 1 } ∧ ∀ d, d ≠ die → t.die d = s.die d) ∧
      (kind = 2 ∨ (kind = 3 ∧ pa < 2 ^ 38) → ∃ t, exec (.errorRetry die kind pa) s = .next t ∧ t.mem = s.mem ∧
        (t.die die).lasting = (s.die die).lasting + 1 ∧ (kind = 3 → lineOf pa ∈ t.ecc) ∧ (∀ l ∈ s.ecc, kind = 2 → l ∈ t.ecc) ∧
        let f := s.fn Config.physFn
        (f.evEn = false → f.evWait.length < 1024 →
          (t.fn Config.physFn).evWait = f.evWait ++ [{ due := 0, kind := 5, hosts := [], w1 := BitVec.ofNat 64 pa, w2 := 0, w3 := 0 }])))) ∧
  (∀ (pa : Nat) (s : State), (2 ^ 38 ≤ pa → exec (.uncorrectableWriteback pa) s = .next s) ∧
    (pa < 2 ^ 38 → ∃ t, exec (.uncorrectableWriteback pa) s = .next t ∧
      (let x := s.l2Set (lineOf pa)
       (s.recOf (lineOf pa)).owner = none →
         (x.wayOf (lineOf pa) = none → t.mem = s.mem) ∧
         ∀ i w, x.wayOf (lineOf pa) = some i → x.ways[i]? = some (some w) → (w.older = none → t.mem = s.mem) ∧
           ∀ old, w.older = some old → old.length = 64 →
             (∀ a, lineOf a ≠ lineOf pa → SMap.get 0 t.mem a = SMap.get 0 s.mem a) ∧ ∀ j : Fin 64, SMap.get 0 t.mem (lineOf pa * 64 + j) = old[j.val]?.getD 0) ∧
      (let f := s.fn Config.physFn
       f.evEn = false → f.evWait.length < 1024 → (s.recOf (lineOf pa)).owner = none →
         (t.fn Config.physFn).evWait = f.evWait ++ [{ due := 0, kind := 5, hosts := [], w1 := BitVec.ofNat 64 pa, w2 := 0, w3 := 0 }]) ∧
      (∀ gid g, (s.recOf (lineOf pa)).owner = some gid → s.groups.find gid = some g →
        t.mem = s.mem ∧ ∃ x, t.groups.find gid = some x ∧ ∀ k l, (k, l) ∈ x.lines → lineOf l.pa = lineOf pa → l.own = false))) ∧
  (∀ (core : Nat) (s : State), (Config.cores ≤ core ∨ (s.core core).unplaced = true → exec (.coreRetire core) s = .next s) ∧
    (core < Config.cores → (s.core core).unplaced = false →
      ((s.core core).retiring = false →
        ∃ t, exec (.coreRetire core) s = .next t ∧ t.mem = s.mem ∧ (t.core core).retiring = true ∧
          ∀ gid g, t.groups.find gid = some g → coreOf gid = core → g.draining = true ∨ g.preempt ≠ .none) ∧
      ((s.core core).retiring = true → (∃ gid g, (gid, g) ∈ s.groups ∧ coreOf gid = core) → exec (.coreRetire core) s = .next s) ∧
      ((s.core core).retiring = true → (∀ gid g, (gid, g) ∈ s.groups → coreOf gid ≠ core) →
        ∃ t, exec (.coreRetire core) s = .next t ∧ { t with cores := s.cores, dies := s.dies } = s ∧ (t.core core).retiring = false ∧
          (t.core core).istore = [] ∧ (t.core core).rsvs = [] ∧ (t.core core).opcache = [] ∧
          (∀ i : Fin 64, (t.core core).residency[i].state = 0) ∧ (∀ i : Fin 4, (t.core core).dicts[i].words = []) ∧
          (∀ c, c ≠ core → t.core c = s.core c) ∧
          ((s.die (dieOf core)).spares = 0 → (t.core core).unplaced = true ∧ t.dies = s.dies) ∧
          ((s.die (dieOf core)).spares ≠ 0 → (t.core core).unplaced = false ∧
            (t.die (dieOf core)).spares + 1 = (s.die (dieOf core)).spares)))) ∧
  (∀ (k : Nat) (s : State), (64 ≤ k ∨ (s.slice k).retired = true → exec (.sliceRetire k) s = .next s) ∧
    (k < 64 → (s.slice k).retired = false → ∀ n, n < 15 →
      let j : Nat → Nat := fun i => k / 16 * 16 + (k % 16 + i + 1) % 16
      (s.slice (j n)).retired = false → (∀ i, i < n → (s.slice (j i)).retired = true) →
      ∃ t, exec (.sliceRetire k) s = .next t ∧ t.mem = s.mem ∧ (t.slice k).retired = true ∧ (∀ m ∈ t.monitors, m.slice ≠ k) ∧
        (∀ x, x ∈ t.l2 ↔ x ∈ s.l2 ∧ x.1 / 2048 ≠ k) ∧
        (∀ line, t.homeOf line = if s.homeOf line = k then j n else s.homeOf line) ∧
        (s.slice k).horizon ≤ (t.slice (j n)).horizon ∧ (s.slice (j n)).horizon ≤ (t.slice (j n)).horizon ∧
        ∀ line x, (line, x) ∈ s.lines → s.homeOf line = k → x.lmax ≤ (t.slice (j n)).horizon ∧ x.tlast ≤ (t.slice (j n)).horizon)) ∧
  (∀ (dev line : Nat) (s : State),
    (64 ≤ dev ∨ (∃ d ∈ s.sparing, d.dev / 16 = dev / 16) → exec (.deviceSpare dev) s = .next s) ∧
    (dev < 64 → (∀ d ∈ s.sparing, d.dev / 16 ≠ dev / 16) →
      exec (.deviceSpare dev) s = .next { s with sparing := s.sparing ++ [{ dev := dev, copied := [] }] }) ∧
    (∀ d, s.sparing = [d] → d.dev = dev → line ∉ d.copied → line < 2 ^ 32 → channelOf line = dev / 2 →
      (line ∈ s.ecc → exec (.spareDeviceCopy dev line) s = .next s) ∧
      (line ∉ s.ecc → ∃ t x, exec (.spareDeviceCopy dev line) s = .next t ∧ { t with sparing := s.sparing } = s ∧ t.sparing = [x] ∧
        x.dev = dev ∧ ∀ l, l ∈ x.copied ↔ l = line ∨ l ∈ d.copied))) ∧
  (∀ (port seq : Nat) (s : State), (8 ≤ port → exec (.flitReplay port seq) s = .next s) ∧
    (port < 8 → ∃ t, exec (.flitReplay port seq) s = .next t ∧ { t with dies := s.dies } = s ∧
      t.die 4 = { s.die 4 with transient := (s.die 4).transient + 1 }))

/-- The clocks that stretch and stop (R12, R412, R423, R424): a droop stretches a pair's clock until its supply has been
above the threshold for 64 clk; power above LIMIT stretches every pair; a die in repair reset has no time, and goes on from
what its clock held, a HEADER due in each of its trace rings. None of it changes device time. -/
def Sys2Proof.Claims.ClockStretches : Prop :=
  (∀ (p : Nat) (s : State), (48 ≤ p → exec (.droopStretch p) s = .next s ∧ exec (.droopRelease p) s = .next s) ∧
    (p < 48 → exec (.droopStretch p) s = .next (s.setPair p { s.pair p with stretched := true, above := 0 }) ∧
      ((s.pair p).stretched = true → 64 ≤ (s.pair p).above →
        exec (.droopRelease p) s = .next (s.setPair p { s.pair p with stretched := false, above := 0 })) ∧
      ((s.pair p).stretched = false ∨ (s.pair p).above < 64 → exec (.droopRelease p) s = .next s))) ∧
  (∀ (w : Nat) (s : State),
    (s.limit < w → w < 4096 → exec (.powerLimitStretch w) s = .next { s with measured := w, powerStretch := true }) ∧
    (w ≤ s.limit → exec (.powerLimitStretch w) s = .next s ∧
      exec (.powerLimitRelease w) s = .next { s with measured := w, powerStretch := false }) ∧
    (s.limit < w → exec (.powerLimitRelease w) s = .next s)) ∧
  (∀ (d : Nat) (s : State),
    (4 ≤ d ∨ (s.die d).stopped = true → exec (.dieRepairReset d) s = .next s) ∧
    (d < 4 → (s.die d).stopped = false →
      ∃ t, exec (.dieRepairReset d) s = .next t ∧ { t with dies := s.dies } = s ∧ t.die d = { s.die d with stopped := true } ∧
        ∀ e, e ≠ d → t.die e = s.die e) ∧
    ((s.die d).stopped = false → exec (.dieRestart d) s = .next s) ∧
    (∀ h : d < 5, (s.die d).stopped = true →
      ∃ t, exec (.dieRestart d) s = .next t ∧ { t with dies := s.dies, funcs := s.funcs } = s ∧
        t.die d = { s.die d with stopped := false } ∧
        ∀ f, ((t.fn f).rings[d]'h).fresh = true ∧ ((t.fn f).rings[d]'h).tail = ((s.fn f).rings[d]'h).tail))

/-- Words that the spec writes out decode to the instructions it names beside them (R242 to R259; the worked words of
files 14, 15, 18, 19, 20, 21 and 22). -/
def Obligations.SpecWordsDecode : Prop :=
  decodeTableWord 32 0x00E14262 = some (.iadd { g := 7, d := 5, a := 4, b := 98 }) ∧
  decodeTableWord 32 0x1FF04307 = some (.icmp { g := 7, d := 0x41, a := 6, b := 7 }) ∧
  decodeTableWord 32 0x5A020020 = some (.movi { d := 1, a := 0, imm := 32 }) ∧
  decodeTableWord 64 0x0000120064E1B200 = some (.ldN32Lane
    { w := { g := 7, d := 6, a := 100, b := 0 }, x := { c := 0, subf := 0, ord := 0, ty := 0, mode := 0, addr := 0x1200 } }) ∧
  decodeTableWord 64 0x021131006C20B280 = some (.atomAddLane
    { w := { g := 1, d := 2, a := 101, b := 0 }, x := { c := 1, subf := 0, ord := 2, ty := 2, mode := 1, addr := 0x1100 } }) ∧
  decodeTableWord 96 0x000000FFFFFF0000B2E00000 = some (.brl { g := 7, rsvd := 0, d64 := 0x000000FFFFFF0000 }) ∧
  decodeTableWord 32 0xB1200012 = some (.bra { g := 1, disp := 18 }) ∧
  decodeTableWord 32 0xB05FFFFA = some (.br { g := 2, disp := -6 }) ∧
  decodeTableWord 32 0xB5E03367 = some (.callo { g := 7, d := 0, a := 102, b := 103 }) ∧
  decodeTableWord 32 0xF4E07180 = some (.elect { g := 7, d := 1, a := 99, b := 0 }) ∧
  decodeTableWord 32 0xF5F88163 = some (.lsel { g := 7, d := 98, a := 2, b := 99 }) ∧
  decodeTableWord 64 0x00000000E9E07469 = some (.gqPop
    { w := { g := 7, d := 1, a := 104, b := 105 }, x := { c := 0, slot := 0, rnd := 0, sat := 0, sub := 0, ty := 0, imm := 0 } }) ∧
  decodeTableWord 32 0xF9E00000 = some (.nop { g := 7, d := 0, a := 0, b := 0 })

/-- Decode and encode agree (R242 to R259): from the words of a well-formed program instruction, laid out in their byte
order and followed by any bytes, the decoder reads that instruction, every operand as it was, and leaves what follows. -/
def Obligations.DecodeOfEncode : Prop :=
  ∀ (i : Instr) (rest : List Byte), i.wf = true → encode i ≠ [] →
    decode ((encode i).flatMap (fun w => leBytes 4 w.toNat) ++ rest) = .ok (i, rest)

/-- What the decoder accepts is well formed, and of one reading: the bytes that it takes are the encoding of the instruction
it answers (R242 to R260). -/
def Obligations.EncodeOfDecode : Prop :=
  ∀ (bs rest : List Byte) (i : Instr), decode bs = .ok (i, rest) →
    i.wf = true ∧ encode i ≠ [] ∧ bs = (encode i).flatMap (fun w => leBytes 4 w.toNat) ++ rest

/-- A step runs the decoded instruction. The picked fragment that may issue, whose words at its program counter decode, runs
that instruction, and then what follows every instruction (breakpoints and the focus count, R406, R409); in a deterministic
launch a synchronising operation first waits for its turn (R206); words that do not decode, and an instruction that needs more lane registers than the launch has, are ILLEGAL_INSTRUCTION (R165, R260). A
turn of the schedule for a unit runs that unit's instruction, and one for an address space gives it its ROOT (log 6). Fetch takes three words in a row from the resident entry that
covers the program counter (R188, R252). The schedule is the model's (log 13). -/
def Obligations.StepRunsTheInstruction : Prop :=
  (∀ (s : State) (i : Instr) (l : List Turn), s.agenda = .unit i :: l → step s = exec i { s with agenda := l }) ∧
  (∀ (s : State) (l : List Turn) (func aspace pa core : Nat),
    (s.agenda = .root func aspace pa :: l →
      ∃ t, step s = .next t ∧ { t with funcs := s.funcs } = { s with agenda := l } ∧ (t.fn func).roots.find aspace = some pa) ∧
    (s.agenda = .spill core :: l → (s.core core).spilled = [] → step s = .next { s with agenda := l })) ∧
  (∀ (s : State) (w : Who) (rest : List Who) (l : List Turn) (c : Ctx) (x0 x1 x2 : Word) (slot : Option Nat),
    (s.agenda = .issue :: l ∨ (s.agenda = [] ∧ l = [])) → s.issuing = w :: rest →
    let u : State := { s with agenda := l, issuing := rest }
    u.ctxOf w = some c → u.mayIssue c = true → u.fetchAt c = .words x0 x1 x2 slot →
    (∀ i r, decode ([x0, x1, x2].flatMap (fun w => leBytes 4 w.toNat)) = .ok (i, r) →
      (i.regsNeeded ≤ c.lau.rcd.regs → (c.grp.focus = none ∨ joinKey x0 = false) →
        (c.frag.grant = none → u.syncing c = true → isPair x0 = false → step s = .next (u.awaitTurn c)) ∧
        (c.frag.grant ≠ none ∨ u.syncing c = false ∨ isPair x0 = true → u.regsBusy c (scoreRegs i (implicitRegs x0)) = false →
        step s = match exec i (u.issueFrom c slot) with
          | .next t => .next (t.postIssue w)
          | o => o)) ∧
      (c.lau.rcd.regs < i.regsNeeded →
        ∃ t f r, step s = .next t ∧ t.mem = s.mem ∧ t.fragOf w = some f ∧ f.pc = c.frag.pc ∧ f.state = .faulted r none ∧
          r.reason = .illegalInstruction)) ∧
    (∀ e, decode ([x0, x1, x2].flatMap (fun w => leBytes 4 w.toNat)) = .error e →
      ∃ t f r, step s = .next t ∧ t.mem = s.mem ∧ t.fragOf w = some f ∧ f.pc = c.frag.pc ∧ f.state = .faulted r none ∧
        r.reason = .illegalInstruction)) ∧
  (∀ (s : State) (c : Ctx) (m off j : Nat), c.frag.code = none → c.frag.pc.toNat % 2 = 0 →
    s.bindingAt c.lau.func c.lau.aspace c.frag.pc.toNat = some (m, off) → s.revokedMod m = false →
    (s.core c.core).slotAt m off = some j → (c.lau.rcd.dict = 0 ∨ c.grp.dictReady = true) →
    let e := (s.core c.core).res j
    let word : Nat → Word := fun n => SMap.get 0 (s.core c.core).istore (e.store * 1024 + (off - e.offset * 4096) / 4 + n)
    (e.state = 1 → s.fetchAt c = .wait .codeLoad) ∧
    (e.state = 2 → s.beyondQuota c.core c.lau.func j = false → off % 4 = 0 → e.offset * 4096 ≤ off → off + 12 ≤ (e.offset + e.units) * 4096 →
      s.fetchAt c = .words (word 0) (word 1) (word 2) (some j)))

/-- The canonical form of memory is kept by every step, so that equal memories are always equal data. -/
def Obligations.MemoryStaysCanonical : Prop := ∀ s t : State, s.MemOk → step s = .next t → t.MemOk

/-- Each fragment's quads stay some, each once, of its gang's sixteen (R170), by every step. -/
def Obligations.FragmentQuadsStayGood : Prop := ∀ s t : State, s.FragsOk → step s = .next t → t.FragsOk

/-- The device right after reset, where the spec says what it holds (R19, R38, R40, R47, R180, R184, R192, R209, R387, R396,
R400, R413, R416, R424): no code resident, no pool open or owned, no module, each function's ways, lease and quota at their
values, rings and queues disabled, the power limit 2,200 W, the identity remap of the slices. Memory is in its canonical form,
and every fragment's quads are good. -/
def Obligations.ResetState : Prop :=
  let s := State.reset
  s.MemOk ∧ s.FragsOk ∧ s.groups = [] ∧ s.limit = 2200 ∧
  (∀ f, (s.fn f).alloc = 0xFFFF ∧ (s.fn f).code = 0 ∧ (s.fn f).adapt = 0 ∧ (s.fn f).waysErr = false ∧ (s.fn f).lease = 128 ∧
    (s.fn f).quota = (if f = 256 then 128 else 0) ∧ (s.fn f).cantonErr = false ∧ (s.fn f).evEn = false ∧ (s.fn f).evLost = false ∧
    (s.fn f).trcEn = false ∧ (s.fn f).kvPool = 0 ∧ (∀ q, q < 8 → (s.cq f q).en = false ∧ (s.cq f q).state = 0 ∧ (s.cq f q).head = 0) ∧
    (s.fn f).focus = 0) ∧
  (∀ c i, (s.core c).profFunc = 0x1FF ∧ (s.core c).profFreeze = false ∧ ((s.core c).res i).state = 0) ∧
  (∀ k, (s.pool k).state = 0 ∧ (s.pool k).owner = 0x1FF ∧ (s.pool k).err = false) ∧ (∀ i, (s.modl i).state = 0) ∧
  (∀ e, (s.mxe e).mode = 0 ∧ (s.mxe e).busy = false ∧ (s.mxe e).len = 0) ∧
  (∀ k, (s.slice k).remap = k ∧ (s.slice k).overflow = 0) ∧
  ∀ d, (s.die d).corr = 0 ∧ (s.die d).transient = 0 ∧ (s.die d).lasting = 0 ∧ (s.die d).fqOverflow = 0

/-- The lane integer instructions (R264 to R271): those of one word; the saturating sums; BFE, BFI, BREV and the counts;
and those of three operands. -/
def Obligations.LaneIntegerResults : Prop :=
  Claims.LaneIntegerResults ∧ Claims.LaneSaturatingResults ∧ Claims.LaneBitResults ∧ Claims.LaneTernaryIntegerResults

/-- The lane float instructions, of one word and of three operands, and the conversions between plain formats. -/
def Obligations.LaneFloatResults : Prop :=
  Claims.LaneFloatResults ∧ Claims.LaneTernaryFloatResults

/-- The conversions out of and into a format slot, and PACK, UNPACK, BPICK, QSPLIT and SPC.48. -/
def Obligations.ConversionResults : Prop :=
  Claims.SlotConversionResults ∧ Claims.PackingResults

/-- The moves, within a lane, between the lanes, and between the lanes and the uniform pipe. -/
def Obligations.MoveResults : Prop :=
  Claims.MoveResults ∧ Claims.ExchangeResults

/-- The instructions that combine the lanes: VREDUCE, VSCAN, VOTE, BALLOT, EQMASK, VCOMP and VEXPAND. -/
def Obligations.ReductionResults : Prop :=
  Claims.ReductionResults ∧ Claims.VoteAndCompactResults

/-- The instructions of the uniform pipe, with a uniform register or a uniform predicate as their result. -/
def Obligations.UniformPipeResults : Prop :=
  Claims.UniformIntegerResults ∧ Claims.UniformPredicateResults

/-- The instructions that part the lanes of a gang and bring them together: BRA, REGANG and EXIT. -/
def Obligations.PathResults : Prop :=
  Claims.LaneBranchResults ∧ Claims.RegangResults ∧ Claims.ExitResults

/-- SREAD and SWRITE of every special register. -/
def Obligations.SpecialRegisterResults : Prop :=
  Claims.SpecialReadResults ∧ Claims.SpecialWriteResults

/-- The checks of a memory instruction before its accesses, and what each end of them does. -/
def Obligations.AccessChecks : Prop :=
  Claims.AccessChecks ∧ Claims.AccessStops

/-- The lane loads: what is served at once, by its route, and what each load does with it. -/
def Obligations.LaneLoadResults : Prop :=
  Claims.LaneLoadResults ∧ Claims.LoadsServedAtOnce

/-- The uniform loads, LDC and PREF. -/
def Obligations.UniformLoadResults : Prop :=
  Claims.UniformLoadResults ∧ Claims.PrefetchAndConstantResults

/-- WAITCMP, the fences and CINV. -/
def Obligations.WaitAndFenceResults : Prop :=
  Claims.MonitorWaitResults ∧ Claims.FenceResults

/-- The instructions of the code store: HOIST, HWAIT, EVICT, PIN and UNPIN, and a dictionary pair. -/
def Obligations.CodeInstructionResults : Prop :=
  Claims.HoistResults ∧ Claims.OverlayResults ∧ Claims.DictionaryPairResults

/-- HSET, and the commands of the engine. -/
def Obligations.HandleAndEngineResults : Prop :=
  Claims.HandleWriteResult ∧ Claims.EngineIssueResults

/-- The matrix instructions: MM.LOADB, MM.PASS, MM.SPASS, MM.ZERO and MM.STORE. -/
def Obligations.MatrixResults : Prop :=
  Claims.MatrixPostResults ∧ Claims.MatrixRowResults

/-- Batches, barriers and timelines: CBATCH, CWAIT, BAR.INIT, BAR.ARRIVE, BAR.WAIT, TWAIT and TREAD. -/
def Obligations.SynchronisationResults : Prop :=
  Claims.BatchResults ∧ Claims.BarrierResults ∧ Claims.TimelineResults

/-- The tap instructions of a kernel and of its handler. -/
def Obligations.TapResults : Prop :=
  Claims.TapIssueResults ∧ Claims.TapHandlerResults

/-- The gain queues: what an operation does to its task, what each instruction does, and when a pool closes. -/
def Obligations.GainQueueResults : Prop :=
  Claims.GainQueueTasks ∧ Claims.GainQueueResults ∧ Claims.GainQueueClosing

/-- The paged-tensor instructions, and the counts that a KV.DROP leaves. -/
def Obligations.PagedTensorResults : Prop :=
  Claims.PagedTensorResults ∧ Claims.DroppedCounts

/-- Writes at their times, and the leases of the lines that they wait for. -/
def Obligations.WritesAndLeases : Prop :=
  Claims.WritesAtTheirTime ∧ Claims.LinesAndLeases

/-- Page walks, the waits that a tick ends, and the host's answers and accesses. -/
def Obligations.WalksAndHostAccesses : Prop :=
  Claims.WalksAndWaits ∧ Claims.HostAccesses

/-- The engine: one iteration of a walk, the steps of its commands, copies and reductions. -/
def Obligations.EngineSteps : Prop :=
  Claims.WalkIterations ∧ Claims.EngineSteps ∧ Claims.CollectiveSteps

/-- The tap unit: the features that it selects, and its steps. -/
def Obligations.TapSteps : Prop :=
  Claims.FeatureSelection ∧ Claims.TapSteps

/-- The issue logic: the clk of every core, how a port picks, and its steps. -/
def Obligations.IssueSteps : Prop :=
  Claims.ClockAndPick ∧ Claims.IssueSteps

/-- A queue's SIGNAL and WAIT, messages, and its registers. -/
def Obligations.QueueSteps : Prop :=
  Claims.SignalAndMessageResults ∧ Claims.QueueRegisterResults

/-- The host's registers that act, and the register map. -/
def Obligations.HostRegisters : Prop :=
  Claims.HostRegisters ∧ Claims.RegisterMap

/-- The commands of the control mailbox. -/
def Obligations.MailboxResults : Prop :=
  Claims.MailboxCommands ∧ Claims.ModuleCommands

/-- Errors and spares, and the clocks that stretch and stop. -/
def Obligations.ErrorsAndClocks : Prop :=
  Claims.ErrorsAndSpares ∧ Claims.ClockStretches
end

