-- ==== Sys2Proof/Laws/Map.lean ====
section
/-!
SUPPORT. Sparse tables and memory: read after write, and the canonical form that every operation keeps.
-/

namespace Sys2Proof.Machine

section
variable {α : Type}

@[simp] theorem SMap.find_nil (x : Nat) : SMap.find ([] : SMap α) x = none := rfl

theorem SMap.find_cons (k : Nat) (v : α) (t : SMap α) (x : Nat) :
    SMap.find ((k, v) :: t) x = if k = x then some v else SMap.find t x := rfl

@[simp] theorem SMap.find_set_same (m : SMap α) (x : Nat) (v : α) : (m.set x v).find x = some v := by
  induction m with
  | nil => simp [SMap.set, SMap.find_cons]
  | cons p t ih =>
    obtain ⟨k, w⟩ := p
    simp only [SMap.set]
    split
    · simp [SMap.find_cons]
    · split
      · simp [SMap.find_cons]
      · rename_i h; simp [SMap.find_cons, h, ih]

theorem SMap.find_set_other (m : SMap α) {x y : Nat} (v : α) (h : y ≠ x) : (m.set x v).find y = m.find y := by
  induction m with
  | nil => simp [SMap.set, SMap.find_cons, Ne.symm h]
  | cons p t ih =>
    obtain ⟨k, w⟩ := p
    simp only [SMap.set]
    split
    · simp [SMap.find_cons, Ne.symm h]
    · split
      · rename_i hk; subst hk; simp [SMap.find_cons, Ne.symm h]
      · simp [SMap.find_cons, ih]

@[simp] theorem SMap.find_del_same (m : SMap α) (x : Nat) : (m.del x).find x = none := by
  induction m with
  | nil => rfl
  | cons p t ih =>
    obtain ⟨k, w⟩ := p
    simp only [SMap.del]
    split
    · exact ih
    · rename_i h; simp [SMap.find_cons, h, ih]

theorem SMap.find_del_other (m : SMap α) {x y : Nat} (h : y ≠ x) : (m.del x).find y = m.find y := by
  induction m with
  | nil => rfl
  | cons p t ih =>
    obtain ⟨k, w⟩ := p
    simp only [SMap.del]
    split
    · rename_i hk; subst hk; simp [SMap.find_cons, Ne.symm h, ih]
    · simp [SMap.find_cons, ih]

@[simp] theorem SMap.get_set_same (d : α) (m : SMap α) (x : Nat) (v : α) : SMap.get d (m.set x v) x = v := by
  simp [SMap.get]

theorem SMap.get_set_other (d : α) (m : SMap α) {x y : Nat} (v : α) (h : y ≠ x) :
    SMap.get d (m.set x v) y = SMap.get d m y := by
  simp [SMap.get, SMap.find_set_other m v h]

variable [DecidableEq α]

@[simp] theorem SMap.get_put_same (d : α) (m : SMap α) (x : Nat) (v : α) : SMap.get d (SMap.put d m x v) x = v := by
  unfold SMap.put SMap.get
  split
  · rename_i h; simp [h]
  · simp

theorem SMap.get_put_other (d : α) (m : SMap α) {x y : Nat} (v : α) (h : y ≠ x) :
    SMap.get d (SMap.put d m x v) y = SMap.get d m y := by
  unfold SMap.put SMap.get
  split
  · rw [SMap.find_del_other m h]
  · rw [SMap.find_set_other m v h]

/-- Read after write, in one rule. -/
theorem SMap.get_put (d : α) (m : SMap α) (x y : Nat) (v : α) :
    SMap.get d (SMap.put d m x v) y = if y = x then v else SMap.get d m y := by
  split
  · rename_i h; subst h; simp
  · rename_i h; exact SMap.get_put_other d m v h

theorem SMap.wfFrom_mono (d : α) {lo lo' : Nat} (m : SMap α) (h : lo' ≤ lo) (hm : SMap.wfFrom d lo m = true) :
    SMap.wfFrom d lo' m = true := by
  cases m with
  | nil => rfl
  | cons p t =>
    obtain ⟨k, w⟩ := p
    simp only [SMap.wfFrom, Bool.and_eq_true, decide_eq_true_eq, Bool.not_eq_true'] at hm ⊢
    exact ⟨⟨Nat.le_trans h hm.1.1, hm.1.2⟩, hm.2⟩

theorem SMap.wfFrom_del (d : α) (lo : Nat) (m : SMap α) (x : Nat) (hm : SMap.wfFrom d lo m = true) :
    SMap.wfFrom d lo (m.del x) = true := by
  induction m generalizing lo with
  | nil => rfl
  | cons p t ih =>
    obtain ⟨k, w⟩ := p
    simp only [SMap.wfFrom, Bool.and_eq_true, decide_eq_true_eq, Bool.not_eq_true'] at hm
    simp only [SMap.del]
    split
    · exact SMap.wfFrom_mono d _ (Nat.le_succ_of_le hm.1.1) (ih _ hm.2)
    · simp only [SMap.wfFrom, Bool.and_eq_true, decide_eq_true_eq, Bool.not_eq_true']
      exact ⟨hm.1, ih _ hm.2⟩

theorem SMap.wfFrom_set (d : α) (lo : Nat) (m : SMap α) (x : Nat) (v : α) (hx : lo ≤ x) (hv : v ≠ d)
    (hm : SMap.wfFrom d lo m = true) : SMap.wfFrom d lo (m.set x v) = true := by
  induction m generalizing lo with
  | nil => simp [SMap.set, SMap.wfFrom, hx, hv]
  | cons p t ih =>
    obtain ⟨k, w⟩ := p
    simp only [SMap.wfFrom, Bool.and_eq_true, decide_eq_true_eq, Bool.not_eq_true', decide_eq_false_iff_not] at hm
    simp only [SMap.set]
    split
    · simp only [SMap.wfFrom, Bool.and_eq_true, decide_eq_true_eq, Bool.not_eq_true', decide_eq_false_iff_not]
      exact ⟨⟨hx, hv⟩, ⟨by omega, hm.1.2⟩, hm.2⟩
    · split
      · rename_i hk; subst hk
        simp only [SMap.wfFrom, Bool.and_eq_true, decide_eq_true_eq, Bool.not_eq_true', decide_eq_false_iff_not]
        exact ⟨⟨hm.1.1, hv⟩, hm.2⟩
      · simp only [SMap.wfFrom, Bool.and_eq_true, decide_eq_true_eq, Bool.not_eq_true', decide_eq_false_iff_not]
        exact ⟨hm.1, ih _ (by omega) hm.2⟩

theorem SMap.wfFrom_put (d : α) (lo : Nat) (m : SMap α) (x : Nat) (v : α) (hx : lo ≤ x)
    (hm : SMap.wfFrom d lo m = true) : SMap.wfFrom d lo (SMap.put d m x v) = true := by
  unfold SMap.put
  split
  · exact SMap.wfFrom_del d lo m x hm
  · rename_i h; exact SMap.wfFrom_set d lo m x v hx h hm

end

/-- Writing bytes keeps the canonical form. -/
theorem Memory.wf_write (m : Memory) (a : Nat) (bs : List Byte) (h : m.wf = true) : (m.write a bs).wf = true := by
  induction bs generalizing m a with
  | nil => exact h
  | cons b t ih => exact ih _ _ (SMap.wfFrom_put 0 0 m a b (Nat.zero_le _) h)

/-- A byte after a write of bytes: one of them, or what was there. -/
theorem Memory.get_write (m : Memory) (a : Nat) (bs : List Byte) (x : Nat) :
    SMap.get 0 (m.write a bs) x = if a ≤ x ∧ x < a + bs.length then bs[x - a]?.getD 0 else SMap.get 0 m x := by
  induction bs generalizing m a with
  | nil => simp only [Memory.write, List.length_nil, Nat.add_zero]; rw [if_neg (by omega)]
  | cons b t ih =>
    simp only [Memory.write, ih, SMap.get_put, List.length_cons]
    by_cases h1 : x = a
    · subst h1; simp only [Nat.sub_self, if_true]; rw [if_neg (by omega), if_pos (by omega)]; rfl
    · by_cases h2 : a + 1 ≤ x ∧ x < a + 1 + t.length
      · have h3 : x - a = (x - (a + 1)) + 1 := by omega
        rw [if_pos h2, if_pos (by omega), h3]; simp
      · rw [if_neg h2, if_neg h1, if_neg (by omega)]

/-- Performing a write keeps the canonical form. -/
theorem Pending.wf_apply (p : Pending) (m : Memory) (h : m.wf = true) : (p.apply m).wf = true := by
  unfold Pending.apply
  split <;> exact Memory.wf_write _ _ _ h

/-- What a list reads after one of its elements is replaced. -/
theorem getElem?_listSet {α : Type} (l : List α) (i j : Nat) (v : α) :
    (listSet l i v)[j]? = if j = i ∧ i < l.length then some v else l[j]? := by
  induction l generalizing i j with
  | nil => simp [listSet]
  | cons h t ih =>
    cases i with
    | zero => cases j <;> simp [listSet]
    | succ i => cases j with
      | zero => simp [listSet]
      | succ j => simp [listSet, ih]

@[simp] theorem length_listSet {α : Type} (l : List α) (i : Nat) (v : α) : (listSet l i v).length = l.length := by
  induction l generalizing i with
  | nil => rfl
  | cons h t ih => cases i <;> simp [listSet, ih]

end Sys2Proof.Machine
end

