-- ==== Sys2Proof/Laws/State.lean ====
section
/-!
SUPPORT. What each update of the state does to each of its fields: one rule for each, true by unfolding.
-/

namespace Sys2Proof.Machine

/-! ### put -/

@[simp] theorem State.put_agenda (s : State) (c : Ctx) : (s.put c).agenda = s.agenda := rfl
@[simp] theorem State.put_issuing (s : State) (c : Ctx) : (s.put c).issuing = s.issuing := rfl
@[simp] theorem State.put_cur (s : State) (c : Ctx) : (s.put c).cur = s.cur := rfl
@[simp] theorem State.put_free (s : State) (c : Ctx) : (s.put c).free = s.free := rfl
@[simp] theorem State.put_nextId (s : State) (c : Ctx) : (s.put c).nextId = s.nextId := rfl
@[simp] theorem State.put_now (s : State) (c : Ctx) : (s.put c).now = s.now := rfl
@[simp] theorem State.put_phase (s : State) (c : Ctx) : (s.put c).phase = s.phase := rfl
@[simp] theorem State.put_clk (s : State) (c : Ctx) : (s.put c).clk = s.clk := rfl
@[simp] theorem State.put_mem (s : State) (c : Ctx) : (s.put c).mem = s.mem := rfl
@[simp] theorem State.put_ecc (s : State) (c : Ctx) : (s.put c).ecc = s.ecc := rfl
@[simp] theorem State.put_mx (s : State) (c : Ctx) : (s.put c).mx = s.mx := rfl
@[simp] theorem State.put_tlb (s : State) (c : Ctx) : (s.put c).tlb = s.tlb := rfl
@[simp] theorem State.put_walks (s : State) (c : Ctx) : (s.put c).walks = s.walks := rfl
@[simp] theorem State.put_xrecs (s : State) (c : Ctx) : (s.put c).xrecs = s.xrecs := rfl
@[simp] theorem State.put_rewalks (s : State) (c : Ctx) : (s.put c).rewalks = s.rewalks := rfl
@[simp] theorem State.put_lines (s : State) (c : Ctx) : (s.put c).lines = s.lines := rfl
@[simp] theorem State.put_slices (s : State) (c : Ctx) : (s.put c).slices = s.slices := rfl
@[simp] theorem State.put_l2 (s : State) (c : Ctx) : (s.put c).l2 = s.l2 := rfl
@[simp] theorem State.put_reqs (s : State) (c : Ctx) : (s.put c).reqs = s.reqs := rfl
@[simp] theorem State.put_pending (s : State) (c : Ctx) : (s.put c).pending = s.pending := rfl
@[simp] theorem State.put_nextIns (s : State) (c : Ctx) : (s.put c).nextIns = s.nextIns := rfl
@[simp] theorem State.put_monitors (s : State) (c : Ctx) : (s.put c).monitors = s.monitors := rfl
@[simp] theorem State.put_cores (s : State) (c : Ctx) : (s.put c).cores = s.cores := rfl
@[simp] theorem State.put_groups (s : State) (c : Ctx) : (s.put c).groups = s.groups.set c.who.gid c.grp' := rfl
@[simp] theorem State.put_saves (s : State) (c : Ctx) : (s.put c).saves = s.saves := rfl
@[simp] theorem State.put_runList (s : State) (c : Ctx) : (s.put c).runList = s.runList := rfl
@[simp] theorem State.put_launches (s : State) (c : Ctx) : (s.put c).launches = s.launches := rfl
@[simp] theorem State.put_nextLaunch (s : State) (c : Ctx) : (s.put c).nextLaunch = s.nextLaunch := rfl
@[simp] theorem State.put_pools (s : State) (c : Ctx) : (s.put c).pools = s.pools := rfl
@[simp] theorem State.put_modules (s : State) (c : Ctx) : (s.put c).modules = s.modules := rfl
@[simp] theorem State.put_funcs (s : State) (c : Ctx) : (s.put c).funcs = s.funcs := rfl
@[simp] theorem State.put_trust (s : State) (c : Ctx) : (s.put c).trust = s.trust := rfl
@[simp] theorem State.put_dies (s : State) (c : Ctx) : (s.put c).dies = s.dies := rfl
@[simp] theorem State.put_pairs (s : State) (c : Ctx) : (s.put c).pairs = s.pairs := rfl
@[simp] theorem State.put_powerStretch (s : State) (c : Ctx) : (s.put c).powerStretch = s.powerStretch := rfl
@[simp] theorem State.put_measured (s : State) (c : Ctx) : (s.put c).measured = s.measured := rfl
@[simp] theorem State.put_limit (s : State) (c : Ctx) : (s.put c).limit = s.limit := rfl
@[simp] theorem State.put_sparing (s : State) (c : Ctx) : (s.put c).sparing = s.sparing := rfl
@[simp] theorem State.put_msgAt (s : State) (c : Ctx) : (s.put c).msgAt = s.msgAt := rfl
@[simp] theorem State.put_out (s : State) (c : Ctx) : (s.put c).out = s.out := rfl

/-! ### setCore -/

@[simp] theorem State.setCore_agenda (s : State) (k : Nat) (x : Core) : (s.setCore k x).agenda = s.agenda := rfl
@[simp] theorem State.setCore_issuing (s : State) (k : Nat) (x : Core) : (s.setCore k x).issuing = s.issuing := rfl
@[simp] theorem State.setCore_cur (s : State) (k : Nat) (x : Core) : (s.setCore k x).cur = s.cur := rfl
@[simp] theorem State.setCore_free (s : State) (k : Nat) (x : Core) : (s.setCore k x).free = s.free := rfl
@[simp] theorem State.setCore_nextId (s : State) (k : Nat) (x : Core) : (s.setCore k x).nextId = s.nextId := rfl
@[simp] theorem State.setCore_now (s : State) (k : Nat) (x : Core) : (s.setCore k x).now = s.now := rfl
@[simp] theorem State.setCore_phase (s : State) (k : Nat) (x : Core) : (s.setCore k x).phase = s.phase := rfl
@[simp] theorem State.setCore_clk (s : State) (k : Nat) (x : Core) : (s.setCore k x).clk = s.clk := rfl
@[simp] theorem State.setCore_mem (s : State) (k : Nat) (x : Core) : (s.setCore k x).mem = s.mem := rfl
@[simp] theorem State.setCore_ecc (s : State) (k : Nat) (x : Core) : (s.setCore k x).ecc = s.ecc := rfl
@[simp] theorem State.setCore_mx (s : State) (k : Nat) (x : Core) : (s.setCore k x).mx = s.mx := rfl
@[simp] theorem State.setCore_tlb (s : State) (k : Nat) (x : Core) : (s.setCore k x).tlb = s.tlb := rfl
@[simp] theorem State.setCore_walks (s : State) (k : Nat) (x : Core) : (s.setCore k x).walks = s.walks := rfl
@[simp] theorem State.setCore_xrecs (s : State) (k : Nat) (x : Core) : (s.setCore k x).xrecs = s.xrecs := rfl
@[simp] theorem State.setCore_rewalks (s : State) (k : Nat) (x : Core) : (s.setCore k x).rewalks = s.rewalks := rfl
@[simp] theorem State.setCore_lines (s : State) (k : Nat) (x : Core) : (s.setCore k x).lines = s.lines := rfl
@[simp] theorem State.setCore_slices (s : State) (k : Nat) (x : Core) : (s.setCore k x).slices = s.slices := rfl
@[simp] theorem State.setCore_l2 (s : State) (k : Nat) (x : Core) : (s.setCore k x).l2 = s.l2 := rfl
@[simp] theorem State.setCore_reqs (s : State) (k : Nat) (x : Core) : (s.setCore k x).reqs = s.reqs := rfl
@[simp] theorem State.setCore_pending (s : State) (k : Nat) (x : Core) : (s.setCore k x).pending = s.pending := rfl
@[simp] theorem State.setCore_nextIns (s : State) (k : Nat) (x : Core) : (s.setCore k x).nextIns = s.nextIns := rfl
@[simp] theorem State.setCore_monitors (s : State) (k : Nat) (x : Core) : (s.setCore k x).monitors = s.monitors := rfl
@[simp] theorem State.setCore_cores (s : State) (k : Nat) (x : Core) : (s.setCore k x).cores = s.cores.set k x := rfl
@[simp] theorem State.setCore_groups (s : State) (k : Nat) (x : Core) : (s.setCore k x).groups = s.groups := rfl
@[simp] theorem State.setCore_saves (s : State) (k : Nat) (x : Core) : (s.setCore k x).saves = s.saves := rfl
@[simp] theorem State.setCore_runList (s : State) (k : Nat) (x : Core) : (s.setCore k x).runList = s.runList := rfl
@[simp] theorem State.setCore_launches (s : State) (k : Nat) (x : Core) : (s.setCore k x).launches = s.launches := rfl
@[simp] theorem State.setCore_nextLaunch (s : State) (k : Nat) (x : Core) : (s.setCore k x).nextLaunch = s.nextLaunch := rfl
@[simp] theorem State.setCore_pools (s : State) (k : Nat) (x : Core) : (s.setCore k x).pools = s.pools := rfl
@[simp] theorem State.setCore_modules (s : State) (k : Nat) (x : Core) : (s.setCore k x).modules = s.modules := rfl
@[simp] theorem State.setCore_funcs (s : State) (k : Nat) (x : Core) : (s.setCore k x).funcs = s.funcs := rfl
@[simp] theorem State.setCore_trust (s : State) (k : Nat) (x : Core) : (s.setCore k x).trust = s.trust := rfl
@[simp] theorem State.setCore_dies (s : State) (k : Nat) (x : Core) : (s.setCore k x).dies = s.dies := rfl
@[simp] theorem State.setCore_pairs (s : State) (k : Nat) (x : Core) : (s.setCore k x).pairs = s.pairs := rfl
@[simp] theorem State.setCore_powerStretch (s : State) (k : Nat) (x : Core) : (s.setCore k x).powerStretch = s.powerStretch := rfl
@[simp] theorem State.setCore_measured (s : State) (k : Nat) (x : Core) : (s.setCore k x).measured = s.measured := rfl
@[simp] theorem State.setCore_limit (s : State) (k : Nat) (x : Core) : (s.setCore k x).limit = s.limit := rfl
@[simp] theorem State.setCore_sparing (s : State) (k : Nat) (x : Core) : (s.setCore k x).sparing = s.sparing := rfl
@[simp] theorem State.setCore_msgAt (s : State) (k : Nat) (x : Core) : (s.setCore k x).msgAt = s.msgAt := rfl
@[simp] theorem State.setCore_out (s : State) (k : Nat) (x : Core) : (s.setCore k x).out = s.out := rfl

/-! ### updCore -/

@[simp] theorem State.updCore_agenda (s : State) (k : Nat) (f : Core → Core) : (s.updCore k f).agenda = s.agenda := rfl
@[simp] theorem State.updCore_issuing (s : State) (k : Nat) (f : Core → Core) : (s.updCore k f).issuing = s.issuing := rfl
@[simp] theorem State.updCore_cur (s : State) (k : Nat) (f : Core → Core) : (s.updCore k f).cur = s.cur := rfl
@[simp] theorem State.updCore_free (s : State) (k : Nat) (f : Core → Core) : (s.updCore k f).free = s.free := rfl
@[simp] theorem State.updCore_nextId (s : State) (k : Nat) (f : Core → Core) : (s.updCore k f).nextId = s.nextId := rfl
@[simp] theorem State.updCore_now (s : State) (k : Nat) (f : Core → Core) : (s.updCore k f).now = s.now := rfl
@[simp] theorem State.updCore_phase (s : State) (k : Nat) (f : Core → Core) : (s.updCore k f).phase = s.phase := rfl
@[simp] theorem State.updCore_clk (s : State) (k : Nat) (f : Core → Core) : (s.updCore k f).clk = s.clk := rfl
@[simp] theorem State.updCore_mem (s : State) (k : Nat) (f : Core → Core) : (s.updCore k f).mem = s.mem := rfl
@[simp] theorem State.updCore_ecc (s : State) (k : Nat) (f : Core → Core) : (s.updCore k f).ecc = s.ecc := rfl
@[simp] theorem State.updCore_mx (s : State) (k : Nat) (f : Core → Core) : (s.updCore k f).mx = s.mx := rfl
@[simp] theorem State.updCore_tlb (s : State) (k : Nat) (f : Core → Core) : (s.updCore k f).tlb = s.tlb := rfl
@[simp] theorem State.updCore_walks (s : State) (k : Nat) (f : Core → Core) : (s.updCore k f).walks = s.walks := rfl
@[simp] theorem State.updCore_xrecs (s : State) (k : Nat) (f : Core → Core) : (s.updCore k f).xrecs = s.xrecs := rfl
@[simp] theorem State.updCore_rewalks (s : State) (k : Nat) (f : Core → Core) : (s.updCore k f).rewalks = s.rewalks := rfl
@[simp] theorem State.updCore_lines (s : State) (k : Nat) (f : Core → Core) : (s.updCore k f).lines = s.lines := rfl
@[simp] theorem State.updCore_slices (s : State) (k : Nat) (f : Core → Core) : (s.updCore k f).slices = s.slices := rfl
@[simp] theorem State.updCore_l2 (s : State) (k : Nat) (f : Core → Core) : (s.updCore k f).l2 = s.l2 := rfl
@[simp] theorem State.updCore_reqs (s : State) (k : Nat) (f : Core → Core) : (s.updCore k f).reqs = s.reqs := rfl
@[simp] theorem State.updCore_pending (s : State) (k : Nat) (f : Core → Core) : (s.updCore k f).pending = s.pending := rfl
@[simp] theorem State.updCore_nextIns (s : State) (k : Nat) (f : Core → Core) : (s.updCore k f).nextIns = s.nextIns := rfl
@[simp] theorem State.updCore_monitors (s : State) (k : Nat) (f : Core → Core) : (s.updCore k f).monitors = s.monitors := rfl
@[simp] theorem State.updCore_cores (s : State) (k : Nat) (f : Core → Core) : (s.updCore k f).cores = s.cores.set k (f (s.core k)) := rfl
@[simp] theorem State.updCore_groups (s : State) (k : Nat) (f : Core → Core) : (s.updCore k f).groups = s.groups := rfl
@[simp] theorem State.updCore_saves (s : State) (k : Nat) (f : Core → Core) : (s.updCore k f).saves = s.saves := rfl
@[simp] theorem State.updCore_runList (s : State) (k : Nat) (f : Core → Core) : (s.updCore k f).runList = s.runList := rfl
@[simp] theorem State.updCore_launches (s : State) (k : Nat) (f : Core → Core) : (s.updCore k f).launches = s.launches := rfl
@[simp] theorem State.updCore_nextLaunch (s : State) (k : Nat) (f : Core → Core) : (s.updCore k f).nextLaunch = s.nextLaunch := rfl
@[simp] theorem State.updCore_pools (s : State) (k : Nat) (f : Core → Core) : (s.updCore k f).pools = s.pools := rfl
@[simp] theorem State.updCore_modules (s : State) (k : Nat) (f : Core → Core) : (s.updCore k f).modules = s.modules := rfl
@[simp] theorem State.updCore_funcs (s : State) (k : Nat) (f : Core → Core) : (s.updCore k f).funcs = s.funcs := rfl
@[simp] theorem State.updCore_trust (s : State) (k : Nat) (f : Core → Core) : (s.updCore k f).trust = s.trust := rfl
@[simp] theorem State.updCore_dies (s : State) (k : Nat) (f : Core → Core) : (s.updCore k f).dies = s.dies := rfl
@[simp] theorem State.updCore_pairs (s : State) (k : Nat) (f : Core → Core) : (s.updCore k f).pairs = s.pairs := rfl
@[simp] theorem State.updCore_powerStretch (s : State) (k : Nat) (f : Core → Core) : (s.updCore k f).powerStretch = s.powerStretch := rfl
@[simp] theorem State.updCore_measured (s : State) (k : Nat) (f : Core → Core) : (s.updCore k f).measured = s.measured := rfl
@[simp] theorem State.updCore_limit (s : State) (k : Nat) (f : Core → Core) : (s.updCore k f).limit = s.limit := rfl
@[simp] theorem State.updCore_sparing (s : State) (k : Nat) (f : Core → Core) : (s.updCore k f).sparing = s.sparing := rfl
@[simp] theorem State.updCore_msgAt (s : State) (k : Nat) (f : Core → Core) : (s.updCore k f).msgAt = s.msgAt := rfl
@[simp] theorem State.updCore_out (s : State) (k : Nat) (f : Core → Core) : (s.updCore k f).out = s.out := rfl

/-! ### setFn -/

@[simp] theorem State.setFn_agenda (s : State) (k : Nat) (x : Func) : (s.setFn k x).agenda = s.agenda := rfl
@[simp] theorem State.setFn_issuing (s : State) (k : Nat) (x : Func) : (s.setFn k x).issuing = s.issuing := rfl
@[simp] theorem State.setFn_cur (s : State) (k : Nat) (x : Func) : (s.setFn k x).cur = s.cur := rfl
@[simp] theorem State.setFn_free (s : State) (k : Nat) (x : Func) : (s.setFn k x).free = s.free := rfl
@[simp] theorem State.setFn_nextId (s : State) (k : Nat) (x : Func) : (s.setFn k x).nextId = s.nextId := rfl
@[simp] theorem State.setFn_now (s : State) (k : Nat) (x : Func) : (s.setFn k x).now = s.now := rfl
@[simp] theorem State.setFn_phase (s : State) (k : Nat) (x : Func) : (s.setFn k x).phase = s.phase := rfl
@[simp] theorem State.setFn_clk (s : State) (k : Nat) (x : Func) : (s.setFn k x).clk = s.clk := rfl
@[simp] theorem State.setFn_mem (s : State) (k : Nat) (x : Func) : (s.setFn k x).mem = s.mem := rfl
@[simp] theorem State.setFn_ecc (s : State) (k : Nat) (x : Func) : (s.setFn k x).ecc = s.ecc := rfl
@[simp] theorem State.setFn_mx (s : State) (k : Nat) (x : Func) : (s.setFn k x).mx = s.mx := rfl
@[simp] theorem State.setFn_tlb (s : State) (k : Nat) (x : Func) : (s.setFn k x).tlb = s.tlb := rfl
@[simp] theorem State.setFn_walks (s : State) (k : Nat) (x : Func) : (s.setFn k x).walks = s.walks := rfl
@[simp] theorem State.setFn_xrecs (s : State) (k : Nat) (x : Func) : (s.setFn k x).xrecs = s.xrecs := rfl
@[simp] theorem State.setFn_rewalks (s : State) (k : Nat) (x : Func) : (s.setFn k x).rewalks = s.rewalks := rfl
@[simp] theorem State.setFn_lines (s : State) (k : Nat) (x : Func) : (s.setFn k x).lines = s.lines := rfl
@[simp] theorem State.setFn_slices (s : State) (k : Nat) (x : Func) : (s.setFn k x).slices = s.slices := rfl
@[simp] theorem State.setFn_l2 (s : State) (k : Nat) (x : Func) : (s.setFn k x).l2 = s.l2 := rfl
@[simp] theorem State.setFn_reqs (s : State) (k : Nat) (x : Func) : (s.setFn k x).reqs = s.reqs := rfl
@[simp] theorem State.setFn_pending (s : State) (k : Nat) (x : Func) : (s.setFn k x).pending = s.pending := rfl
@[simp] theorem State.setFn_nextIns (s : State) (k : Nat) (x : Func) : (s.setFn k x).nextIns = s.nextIns := rfl
@[simp] theorem State.setFn_monitors (s : State) (k : Nat) (x : Func) : (s.setFn k x).monitors = s.monitors := rfl
@[simp] theorem State.setFn_cores (s : State) (k : Nat) (x : Func) : (s.setFn k x).cores = s.cores := rfl
@[simp] theorem State.setFn_groups (s : State) (k : Nat) (x : Func) : (s.setFn k x).groups = s.groups := rfl
@[simp] theorem State.setFn_saves (s : State) (k : Nat) (x : Func) : (s.setFn k x).saves = s.saves := rfl
@[simp] theorem State.setFn_runList (s : State) (k : Nat) (x : Func) : (s.setFn k x).runList = s.runList := rfl
@[simp] theorem State.setFn_launches (s : State) (k : Nat) (x : Func) : (s.setFn k x).launches = s.launches := rfl
@[simp] theorem State.setFn_nextLaunch (s : State) (k : Nat) (x : Func) : (s.setFn k x).nextLaunch = s.nextLaunch := rfl
@[simp] theorem State.setFn_pools (s : State) (k : Nat) (x : Func) : (s.setFn k x).pools = s.pools := rfl
@[simp] theorem State.setFn_modules (s : State) (k : Nat) (x : Func) : (s.setFn k x).modules = s.modules := rfl
@[simp] theorem State.setFn_funcs (s : State) (k : Nat) (x : Func) : (s.setFn k x).funcs = s.funcs.set k x := rfl
@[simp] theorem State.setFn_trust (s : State) (k : Nat) (x : Func) : (s.setFn k x).trust = s.trust := rfl
@[simp] theorem State.setFn_dies (s : State) (k : Nat) (x : Func) : (s.setFn k x).dies = s.dies := rfl
@[simp] theorem State.setFn_pairs (s : State) (k : Nat) (x : Func) : (s.setFn k x).pairs = s.pairs := rfl
@[simp] theorem State.setFn_powerStretch (s : State) (k : Nat) (x : Func) : (s.setFn k x).powerStretch = s.powerStretch := rfl
@[simp] theorem State.setFn_measured (s : State) (k : Nat) (x : Func) : (s.setFn k x).measured = s.measured := rfl
@[simp] theorem State.setFn_limit (s : State) (k : Nat) (x : Func) : (s.setFn k x).limit = s.limit := rfl
@[simp] theorem State.setFn_sparing (s : State) (k : Nat) (x : Func) : (s.setFn k x).sparing = s.sparing := rfl
@[simp] theorem State.setFn_msgAt (s : State) (k : Nat) (x : Func) : (s.setFn k x).msgAt = s.msgAt := rfl
@[simp] theorem State.setFn_out (s : State) (k : Nat) (x : Func) : (s.setFn k x).out = s.out := rfl

/-! ### updFn -/

@[simp] theorem State.updFn_agenda (s : State) (k : Nat) (f : Func → Func) : (s.updFn k f).agenda = s.agenda := rfl
@[simp] theorem State.updFn_issuing (s : State) (k : Nat) (f : Func → Func) : (s.updFn k f).issuing = s.issuing := rfl
@[simp] theorem State.updFn_cur (s : State) (k : Nat) (f : Func → Func) : (s.updFn k f).cur = s.cur := rfl
@[simp] theorem State.updFn_free (s : State) (k : Nat) (f : Func → Func) : (s.updFn k f).free = s.free := rfl
@[simp] theorem State.updFn_nextId (s : State) (k : Nat) (f : Func → Func) : (s.updFn k f).nextId = s.nextId := rfl
@[simp] theorem State.updFn_now (s : State) (k : Nat) (f : Func → Func) : (s.updFn k f).now = s.now := rfl
@[simp] theorem State.updFn_phase (s : State) (k : Nat) (f : Func → Func) : (s.updFn k f).phase = s.phase := rfl
@[simp] theorem State.updFn_clk (s : State) (k : Nat) (f : Func → Func) : (s.updFn k f).clk = s.clk := rfl
@[simp] theorem State.updFn_mem (s : State) (k : Nat) (f : Func → Func) : (s.updFn k f).mem = s.mem := rfl
@[simp] theorem State.updFn_ecc (s : State) (k : Nat) (f : Func → Func) : (s.updFn k f).ecc = s.ecc := rfl
@[simp] theorem State.updFn_mx (s : State) (k : Nat) (f : Func → Func) : (s.updFn k f).mx = s.mx := rfl
@[simp] theorem State.updFn_tlb (s : State) (k : Nat) (f : Func → Func) : (s.updFn k f).tlb = s.tlb := rfl
@[simp] theorem State.updFn_walks (s : State) (k : Nat) (f : Func → Func) : (s.updFn k f).walks = s.walks := rfl
@[simp] theorem State.updFn_xrecs (s : State) (k : Nat) (f : Func → Func) : (s.updFn k f).xrecs = s.xrecs := rfl
@[simp] theorem State.updFn_rewalks (s : State) (k : Nat) (f : Func → Func) : (s.updFn k f).rewalks = s.rewalks := rfl
@[simp] theorem State.updFn_lines (s : State) (k : Nat) (f : Func → Func) : (s.updFn k f).lines = s.lines := rfl
@[simp] theorem State.updFn_slices (s : State) (k : Nat) (f : Func → Func) : (s.updFn k f).slices = s.slices := rfl
@[simp] theorem State.updFn_l2 (s : State) (k : Nat) (f : Func → Func) : (s.updFn k f).l2 = s.l2 := rfl
@[simp] theorem State.updFn_reqs (s : State) (k : Nat) (f : Func → Func) : (s.updFn k f).reqs = s.reqs := rfl
@[simp] theorem State.updFn_pending (s : State) (k : Nat) (f : Func → Func) : (s.updFn k f).pending = s.pending := rfl
@[simp] theorem State.updFn_nextIns (s : State) (k : Nat) (f : Func → Func) : (s.updFn k f).nextIns = s.nextIns := rfl
@[simp] theorem State.updFn_monitors (s : State) (k : Nat) (f : Func → Func) : (s.updFn k f).monitors = s.monitors := rfl
@[simp] theorem State.updFn_cores (s : State) (k : Nat) (f : Func → Func) : (s.updFn k f).cores = s.cores := rfl
@[simp] theorem State.updFn_groups (s : State) (k : Nat) (f : Func → Func) : (s.updFn k f).groups = s.groups := rfl
@[simp] theorem State.updFn_saves (s : State) (k : Nat) (f : Func → Func) : (s.updFn k f).saves = s.saves := rfl
@[simp] theorem State.updFn_runList (s : State) (k : Nat) (f : Func → Func) : (s.updFn k f).runList = s.runList := rfl
@[simp] theorem State.updFn_launches (s : State) (k : Nat) (f : Func → Func) : (s.updFn k f).launches = s.launches := rfl
@[simp] theorem State.updFn_nextLaunch (s : State) (k : Nat) (f : Func → Func) : (s.updFn k f).nextLaunch = s.nextLaunch := rfl
@[simp] theorem State.updFn_pools (s : State) (k : Nat) (f : Func → Func) : (s.updFn k f).pools = s.pools := rfl
@[simp] theorem State.updFn_modules (s : State) (k : Nat) (f : Func → Func) : (s.updFn k f).modules = s.modules := rfl
@[simp] theorem State.updFn_funcs (s : State) (k : Nat) (f : Func → Func) : (s.updFn k f).funcs = s.funcs.set k (f (s.fn k)) := rfl
@[simp] theorem State.updFn_trust (s : State) (k : Nat) (f : Func → Func) : (s.updFn k f).trust = s.trust := rfl
@[simp] theorem State.updFn_dies (s : State) (k : Nat) (f : Func → Func) : (s.updFn k f).dies = s.dies := rfl
@[simp] theorem State.updFn_pairs (s : State) (k : Nat) (f : Func → Func) : (s.updFn k f).pairs = s.pairs := rfl
@[simp] theorem State.updFn_powerStretch (s : State) (k : Nat) (f : Func → Func) : (s.updFn k f).powerStretch = s.powerStretch := rfl
@[simp] theorem State.updFn_measured (s : State) (k : Nat) (f : Func → Func) : (s.updFn k f).measured = s.measured := rfl
@[simp] theorem State.updFn_limit (s : State) (k : Nat) (f : Func → Func) : (s.updFn k f).limit = s.limit := rfl
@[simp] theorem State.updFn_sparing (s : State) (k : Nat) (f : Func → Func) : (s.updFn k f).sparing = s.sparing := rfl
@[simp] theorem State.updFn_msgAt (s : State) (k : Nat) (f : Func → Func) : (s.updFn k f).msgAt = s.msgAt := rfl
@[simp] theorem State.updFn_out (s : State) (k : Nat) (f : Func → Func) : (s.updFn k f).out = s.out := rfl

/-! ### updDie -/

@[simp] theorem State.updDie_agenda (s : State) (k : Nat) (f : Die → Die) : (s.updDie k f).agenda = s.agenda := rfl
@[simp] theorem State.updDie_issuing (s : State) (k : Nat) (f : Die → Die) : (s.updDie k f).issuing = s.issuing := rfl
@[simp] theorem State.updDie_cur (s : State) (k : Nat) (f : Die → Die) : (s.updDie k f).cur = s.cur := rfl
@[simp] theorem State.updDie_free (s : State) (k : Nat) (f : Die → Die) : (s.updDie k f).free = s.free := rfl
@[simp] theorem State.updDie_nextId (s : State) (k : Nat) (f : Die → Die) : (s.updDie k f).nextId = s.nextId := rfl
@[simp] theorem State.updDie_now (s : State) (k : Nat) (f : Die → Die) : (s.updDie k f).now = s.now := rfl
@[simp] theorem State.updDie_phase (s : State) (k : Nat) (f : Die → Die) : (s.updDie k f).phase = s.phase := rfl
@[simp] theorem State.updDie_clk (s : State) (k : Nat) (f : Die → Die) : (s.updDie k f).clk = s.clk := rfl
@[simp] theorem State.updDie_mem (s : State) (k : Nat) (f : Die → Die) : (s.updDie k f).mem = s.mem := rfl
@[simp] theorem State.updDie_ecc (s : State) (k : Nat) (f : Die → Die) : (s.updDie k f).ecc = s.ecc := rfl
@[simp] theorem State.updDie_mx (s : State) (k : Nat) (f : Die → Die) : (s.updDie k f).mx = s.mx := rfl
@[simp] theorem State.updDie_tlb (s : State) (k : Nat) (f : Die → Die) : (s.updDie k f).tlb = s.tlb := rfl
@[simp] theorem State.updDie_walks (s : State) (k : Nat) (f : Die → Die) : (s.updDie k f).walks = s.walks := rfl
@[simp] theorem State.updDie_xrecs (s : State) (k : Nat) (f : Die → Die) : (s.updDie k f).xrecs = s.xrecs := rfl
@[simp] theorem State.updDie_rewalks (s : State) (k : Nat) (f : Die → Die) : (s.updDie k f).rewalks = s.rewalks := rfl
@[simp] theorem State.updDie_lines (s : State) (k : Nat) (f : Die → Die) : (s.updDie k f).lines = s.lines := rfl
@[simp] theorem State.updDie_slices (s : State) (k : Nat) (f : Die → Die) : (s.updDie k f).slices = s.slices := rfl
@[simp] theorem State.updDie_l2 (s : State) (k : Nat) (f : Die → Die) : (s.updDie k f).l2 = s.l2 := rfl
@[simp] theorem State.updDie_reqs (s : State) (k : Nat) (f : Die → Die) : (s.updDie k f).reqs = s.reqs := rfl
@[simp] theorem State.updDie_pending (s : State) (k : Nat) (f : Die → Die) : (s.updDie k f).pending = s.pending := rfl
@[simp] theorem State.updDie_nextIns (s : State) (k : Nat) (f : Die → Die) : (s.updDie k f).nextIns = s.nextIns := rfl
@[simp] theorem State.updDie_monitors (s : State) (k : Nat) (f : Die → Die) : (s.updDie k f).monitors = s.monitors := rfl
@[simp] theorem State.updDie_cores (s : State) (k : Nat) (f : Die → Die) : (s.updDie k f).cores = s.cores := rfl
@[simp] theorem State.updDie_groups (s : State) (k : Nat) (f : Die → Die) : (s.updDie k f).groups = s.groups := rfl
@[simp] theorem State.updDie_saves (s : State) (k : Nat) (f : Die → Die) : (s.updDie k f).saves = s.saves := rfl
@[simp] theorem State.updDie_runList (s : State) (k : Nat) (f : Die → Die) : (s.updDie k f).runList = s.runList := rfl
@[simp] theorem State.updDie_launches (s : State) (k : Nat) (f : Die → Die) : (s.updDie k f).launches = s.launches := rfl
@[simp] theorem State.updDie_nextLaunch (s : State) (k : Nat) (f : Die → Die) : (s.updDie k f).nextLaunch = s.nextLaunch := rfl
@[simp] theorem State.updDie_pools (s : State) (k : Nat) (f : Die → Die) : (s.updDie k f).pools = s.pools := rfl
@[simp] theorem State.updDie_modules (s : State) (k : Nat) (f : Die → Die) : (s.updDie k f).modules = s.modules := rfl
@[simp] theorem State.updDie_funcs (s : State) (k : Nat) (f : Die → Die) : (s.updDie k f).funcs = s.funcs := rfl
@[simp] theorem State.updDie_trust (s : State) (k : Nat) (f : Die → Die) : (s.updDie k f).trust = s.trust := rfl
@[simp] theorem State.updDie_dies (s : State) (k : Nat) (f : Die → Die) : (s.updDie k f).dies = s.dies.set k (f (s.die k)) := rfl
@[simp] theorem State.updDie_pairs (s : State) (k : Nat) (f : Die → Die) : (s.updDie k f).pairs = s.pairs := rfl
@[simp] theorem State.updDie_powerStretch (s : State) (k : Nat) (f : Die → Die) : (s.updDie k f).powerStretch = s.powerStretch := rfl
@[simp] theorem State.updDie_measured (s : State) (k : Nat) (f : Die → Die) : (s.updDie k f).measured = s.measured := rfl
@[simp] theorem State.updDie_limit (s : State) (k : Nat) (f : Die → Die) : (s.updDie k f).limit = s.limit := rfl
@[simp] theorem State.updDie_sparing (s : State) (k : Nat) (f : Die → Die) : (s.updDie k f).sparing = s.sparing := rfl
@[simp] theorem State.updDie_msgAt (s : State) (k : Nat) (f : Die → Die) : (s.updDie k f).msgAt = s.msgAt := rfl
@[simp] theorem State.updDie_out (s : State) (k : Nat) (f : Die → Die) : (s.updDie k f).out = s.out := rfl

/-! ### setPair -/

@[simp] theorem State.setPair_agenda (s : State) (k : Nat) (x : Machine.Pair) : (s.setPair k x).agenda = s.agenda := rfl
@[simp] theorem State.setPair_issuing (s : State) (k : Nat) (x : Machine.Pair) : (s.setPair k x).issuing = s.issuing := rfl
@[simp] theorem State.setPair_cur (s : State) (k : Nat) (x : Machine.Pair) : (s.setPair k x).cur = s.cur := rfl
@[simp] theorem State.setPair_free (s : State) (k : Nat) (x : Machine.Pair) : (s.setPair k x).free = s.free := rfl
@[simp] theorem State.setPair_nextId (s : State) (k : Nat) (x : Machine.Pair) : (s.setPair k x).nextId = s.nextId := rfl
@[simp] theorem State.setPair_now (s : State) (k : Nat) (x : Machine.Pair) : (s.setPair k x).now = s.now := rfl
@[simp] theorem State.setPair_phase (s : State) (k : Nat) (x : Machine.Pair) : (s.setPair k x).phase = s.phase := rfl
@[simp] theorem State.setPair_clk (s : State) (k : Nat) (x : Machine.Pair) : (s.setPair k x).clk = s.clk := rfl
@[simp] theorem State.setPair_mem (s : State) (k : Nat) (x : Machine.Pair) : (s.setPair k x).mem = s.mem := rfl
@[simp] theorem State.setPair_ecc (s : State) (k : Nat) (x : Machine.Pair) : (s.setPair k x).ecc = s.ecc := rfl
@[simp] theorem State.setPair_mx (s : State) (k : Nat) (x : Machine.Pair) : (s.setPair k x).mx = s.mx := rfl
@[simp] theorem State.setPair_tlb (s : State) (k : Nat) (x : Machine.Pair) : (s.setPair k x).tlb = s.tlb := rfl
@[simp] theorem State.setPair_walks (s : State) (k : Nat) (x : Machine.Pair) : (s.setPair k x).walks = s.walks := rfl
@[simp] theorem State.setPair_xrecs (s : State) (k : Nat) (x : Machine.Pair) : (s.setPair k x).xrecs = s.xrecs := rfl
@[simp] theorem State.setPair_rewalks (s : State) (k : Nat) (x : Machine.Pair) : (s.setPair k x).rewalks = s.rewalks := rfl
@[simp] theorem State.setPair_lines (s : State) (k : Nat) (x : Machine.Pair) : (s.setPair k x).lines = s.lines := rfl
@[simp] theorem State.setPair_slices (s : State) (k : Nat) (x : Machine.Pair) : (s.setPair k x).slices = s.slices := rfl
@[simp] theorem State.setPair_l2 (s : State) (k : Nat) (x : Machine.Pair) : (s.setPair k x).l2 = s.l2 := rfl
@[simp] theorem State.setPair_reqs (s : State) (k : Nat) (x : Machine.Pair) : (s.setPair k x).reqs = s.reqs := rfl
@[simp] theorem State.setPair_pending (s : State) (k : Nat) (x : Machine.Pair) : (s.setPair k x).pending = s.pending := rfl
@[simp] theorem State.setPair_nextIns (s : State) (k : Nat) (x : Machine.Pair) : (s.setPair k x).nextIns = s.nextIns := rfl
@[simp] theorem State.setPair_monitors (s : State) (k : Nat) (x : Machine.Pair) : (s.setPair k x).monitors = s.monitors := rfl
@[simp] theorem State.setPair_cores (s : State) (k : Nat) (x : Machine.Pair) : (s.setPair k x).cores = s.cores := rfl
@[simp] theorem State.setPair_groups (s : State) (k : Nat) (x : Machine.Pair) : (s.setPair k x).groups = s.groups := rfl
@[simp] theorem State.setPair_saves (s : State) (k : Nat) (x : Machine.Pair) : (s.setPair k x).saves = s.saves := rfl
@[simp] theorem State.setPair_runList (s : State) (k : Nat) (x : Machine.Pair) : (s.setPair k x).runList = s.runList := rfl
@[simp] theorem State.setPair_launches (s : State) (k : Nat) (x : Machine.Pair) : (s.setPair k x).launches = s.launches := rfl
@[simp] theorem State.setPair_nextLaunch (s : State) (k : Nat) (x : Machine.Pair) : (s.setPair k x).nextLaunch = s.nextLaunch := rfl
@[simp] theorem State.setPair_pools (s : State) (k : Nat) (x : Machine.Pair) : (s.setPair k x).pools = s.pools := rfl
@[simp] theorem State.setPair_modules (s : State) (k : Nat) (x : Machine.Pair) : (s.setPair k x).modules = s.modules := rfl
@[simp] theorem State.setPair_funcs (s : State) (k : Nat) (x : Machine.Pair) : (s.setPair k x).funcs = s.funcs := rfl
@[simp] theorem State.setPair_trust (s : State) (k : Nat) (x : Machine.Pair) : (s.setPair k x).trust = s.trust := rfl
@[simp] theorem State.setPair_dies (s : State) (k : Nat) (x : Machine.Pair) : (s.setPair k x).dies = s.dies := rfl
@[simp] theorem State.setPair_pairs (s : State) (k : Nat) (x : Machine.Pair) : (s.setPair k x).pairs = s.pairs.set k x := rfl
@[simp] theorem State.setPair_powerStretch (s : State) (k : Nat) (x : Machine.Pair) : (s.setPair k x).powerStretch = s.powerStretch := rfl
@[simp] theorem State.setPair_measured (s : State) (k : Nat) (x : Machine.Pair) : (s.setPair k x).measured = s.measured := rfl
@[simp] theorem State.setPair_limit (s : State) (k : Nat) (x : Machine.Pair) : (s.setPair k x).limit = s.limit := rfl
@[simp] theorem State.setPair_sparing (s : State) (k : Nat) (x : Machine.Pair) : (s.setPair k x).sparing = s.sparing := rfl
@[simp] theorem State.setPair_msgAt (s : State) (k : Nat) (x : Machine.Pair) : (s.setPair k x).msgAt = s.msgAt := rfl
@[simp] theorem State.setPair_out (s : State) (k : Nat) (x : Machine.Pair) : (s.setPair k x).out = s.out := rfl

/-! ### setPool -/

@[simp] theorem State.setPool_agenda (s : State) (k : Nat) (x : Pool) : (s.setPool k x).agenda = s.agenda := rfl
@[simp] theorem State.setPool_issuing (s : State) (k : Nat) (x : Pool) : (s.setPool k x).issuing = s.issuing := rfl
@[simp] theorem State.setPool_cur (s : State) (k : Nat) (x : Pool) : (s.setPool k x).cur = s.cur := rfl
@[simp] theorem State.setPool_free (s : State) (k : Nat) (x : Pool) : (s.setPool k x).free = s.free := rfl
@[simp] theorem State.setPool_nextId (s : State) (k : Nat) (x : Pool) : (s.setPool k x).nextId = s.nextId := rfl
@[simp] theorem State.setPool_now (s : State) (k : Nat) (x : Pool) : (s.setPool k x).now = s.now := rfl
@[simp] theorem State.setPool_phase (s : State) (k : Nat) (x : Pool) : (s.setPool k x).phase = s.phase := rfl
@[simp] theorem State.setPool_clk (s : State) (k : Nat) (x : Pool) : (s.setPool k x).clk = s.clk := rfl
@[simp] theorem State.setPool_mem (s : State) (k : Nat) (x : Pool) : (s.setPool k x).mem = s.mem := rfl
@[simp] theorem State.setPool_ecc (s : State) (k : Nat) (x : Pool) : (s.setPool k x).ecc = s.ecc := rfl
@[simp] theorem State.setPool_mx (s : State) (k : Nat) (x : Pool) : (s.setPool k x).mx = s.mx := rfl
@[simp] theorem State.setPool_tlb (s : State) (k : Nat) (x : Pool) : (s.setPool k x).tlb = s.tlb := rfl
@[simp] theorem State.setPool_walks (s : State) (k : Nat) (x : Pool) : (s.setPool k x).walks = s.walks := rfl
@[simp] theorem State.setPool_xrecs (s : State) (k : Nat) (x : Pool) : (s.setPool k x).xrecs = s.xrecs := rfl
@[simp] theorem State.setPool_rewalks (s : State) (k : Nat) (x : Pool) : (s.setPool k x).rewalks = s.rewalks := rfl
@[simp] theorem State.setPool_lines (s : State) (k : Nat) (x : Pool) : (s.setPool k x).lines = s.lines := rfl
@[simp] theorem State.setPool_slices (s : State) (k : Nat) (x : Pool) : (s.setPool k x).slices = s.slices := rfl
@[simp] theorem State.setPool_l2 (s : State) (k : Nat) (x : Pool) : (s.setPool k x).l2 = s.l2 := rfl
@[simp] theorem State.setPool_reqs (s : State) (k : Nat) (x : Pool) : (s.setPool k x).reqs = s.reqs := rfl
@[simp] theorem State.setPool_pending (s : State) (k : Nat) (x : Pool) : (s.setPool k x).pending = s.pending := rfl
@[simp] theorem State.setPool_nextIns (s : State) (k : Nat) (x : Pool) : (s.setPool k x).nextIns = s.nextIns := rfl
@[simp] theorem State.setPool_monitors (s : State) (k : Nat) (x : Pool) : (s.setPool k x).monitors = s.monitors := rfl
@[simp] theorem State.setPool_cores (s : State) (k : Nat) (x : Pool) : (s.setPool k x).cores = s.cores := rfl
@[simp] theorem State.setPool_groups (s : State) (k : Nat) (x : Pool) : (s.setPool k x).groups = s.groups := rfl
@[simp] theorem State.setPool_saves (s : State) (k : Nat) (x : Pool) : (s.setPool k x).saves = s.saves := rfl
@[simp] theorem State.setPool_runList (s : State) (k : Nat) (x : Pool) : (s.setPool k x).runList = s.runList := rfl
@[simp] theorem State.setPool_launches (s : State) (k : Nat) (x : Pool) : (s.setPool k x).launches = s.launches := rfl
@[simp] theorem State.setPool_nextLaunch (s : State) (k : Nat) (x : Pool) : (s.setPool k x).nextLaunch = s.nextLaunch := rfl
@[simp] theorem State.setPool_pools (s : State) (k : Nat) (x : Pool) : (s.setPool k x).pools = s.pools.set k x := rfl
@[simp] theorem State.setPool_modules (s : State) (k : Nat) (x : Pool) : (s.setPool k x).modules = s.modules := rfl
@[simp] theorem State.setPool_funcs (s : State) (k : Nat) (x : Pool) : (s.setPool k x).funcs = s.funcs := rfl
@[simp] theorem State.setPool_trust (s : State) (k : Nat) (x : Pool) : (s.setPool k x).trust = s.trust := rfl
@[simp] theorem State.setPool_dies (s : State) (k : Nat) (x : Pool) : (s.setPool k x).dies = s.dies := rfl
@[simp] theorem State.setPool_pairs (s : State) (k : Nat) (x : Pool) : (s.setPool k x).pairs = s.pairs := rfl
@[simp] theorem State.setPool_powerStretch (s : State) (k : Nat) (x : Pool) : (s.setPool k x).powerStretch = s.powerStretch := rfl
@[simp] theorem State.setPool_measured (s : State) (k : Nat) (x : Pool) : (s.setPool k x).measured = s.measured := rfl
@[simp] theorem State.setPool_limit (s : State) (k : Nat) (x : Pool) : (s.setPool k x).limit = s.limit := rfl
@[simp] theorem State.setPool_sparing (s : State) (k : Nat) (x : Pool) : (s.setPool k x).sparing = s.sparing := rfl
@[simp] theorem State.setPool_msgAt (s : State) (k : Nat) (x : Pool) : (s.setPool k x).msgAt = s.msgAt := rfl
@[simp] theorem State.setPool_out (s : State) (k : Nat) (x : Pool) : (s.setPool k x).out = s.out := rfl

/-! ### setSlice -/

@[simp] theorem State.setSlice_agenda (s : State) (k : Nat) (x : Slice) : (s.setSlice k x).agenda = s.agenda := rfl
@[simp] theorem State.setSlice_issuing (s : State) (k : Nat) (x : Slice) : (s.setSlice k x).issuing = s.issuing := rfl
@[simp] theorem State.setSlice_cur (s : State) (k : Nat) (x : Slice) : (s.setSlice k x).cur = s.cur := rfl
@[simp] theorem State.setSlice_free (s : State) (k : Nat) (x : Slice) : (s.setSlice k x).free = s.free := rfl
@[simp] theorem State.setSlice_nextId (s : State) (k : Nat) (x : Slice) : (s.setSlice k x).nextId = s.nextId := rfl
@[simp] theorem State.setSlice_now (s : State) (k : Nat) (x : Slice) : (s.setSlice k x).now = s.now := rfl
@[simp] theorem State.setSlice_phase (s : State) (k : Nat) (x : Slice) : (s.setSlice k x).phase = s.phase := rfl
@[simp] theorem State.setSlice_clk (s : State) (k : Nat) (x : Slice) : (s.setSlice k x).clk = s.clk := rfl
@[simp] theorem State.setSlice_mem (s : State) (k : Nat) (x : Slice) : (s.setSlice k x).mem = s.mem := rfl
@[simp] theorem State.setSlice_ecc (s : State) (k : Nat) (x : Slice) : (s.setSlice k x).ecc = s.ecc := rfl
@[simp] theorem State.setSlice_mx (s : State) (k : Nat) (x : Slice) : (s.setSlice k x).mx = s.mx := rfl
@[simp] theorem State.setSlice_tlb (s : State) (k : Nat) (x : Slice) : (s.setSlice k x).tlb = s.tlb := rfl
@[simp] theorem State.setSlice_walks (s : State) (k : Nat) (x : Slice) : (s.setSlice k x).walks = s.walks := rfl
@[simp] theorem State.setSlice_xrecs (s : State) (k : Nat) (x : Slice) : (s.setSlice k x).xrecs = s.xrecs := rfl
@[simp] theorem State.setSlice_rewalks (s : State) (k : Nat) (x : Slice) : (s.setSlice k x).rewalks = s.rewalks := rfl
@[simp] theorem State.setSlice_lines (s : State) (k : Nat) (x : Slice) : (s.setSlice k x).lines = s.lines := rfl
@[simp] theorem State.setSlice_slices (s : State) (k : Nat) (x : Slice) : (s.setSlice k x).slices = s.slices.set k x := rfl
@[simp] theorem State.setSlice_l2 (s : State) (k : Nat) (x : Slice) : (s.setSlice k x).l2 = s.l2 := rfl
@[simp] theorem State.setSlice_reqs (s : State) (k : Nat) (x : Slice) : (s.setSlice k x).reqs = s.reqs := rfl
@[simp] theorem State.setSlice_pending (s : State) (k : Nat) (x : Slice) : (s.setSlice k x).pending = s.pending := rfl
@[simp] theorem State.setSlice_nextIns (s : State) (k : Nat) (x : Slice) : (s.setSlice k x).nextIns = s.nextIns := rfl
@[simp] theorem State.setSlice_monitors (s : State) (k : Nat) (x : Slice) : (s.setSlice k x).monitors = s.monitors := rfl
@[simp] theorem State.setSlice_cores (s : State) (k : Nat) (x : Slice) : (s.setSlice k x).cores = s.cores := rfl
@[simp] theorem State.setSlice_groups (s : State) (k : Nat) (x : Slice) : (s.setSlice k x).groups = s.groups := rfl
@[simp] theorem State.setSlice_saves (s : State) (k : Nat) (x : Slice) : (s.setSlice k x).saves = s.saves := rfl
@[simp] theorem State.setSlice_runList (s : State) (k : Nat) (x : Slice) : (s.setSlice k x).runList = s.runList := rfl
@[simp] theorem State.setSlice_launches (s : State) (k : Nat) (x : Slice) : (s.setSlice k x).launches = s.launches := rfl
@[simp] theorem State.setSlice_nextLaunch (s : State) (k : Nat) (x : Slice) : (s.setSlice k x).nextLaunch = s.nextLaunch := rfl
@[simp] theorem State.setSlice_pools (s : State) (k : Nat) (x : Slice) : (s.setSlice k x).pools = s.pools := rfl
@[simp] theorem State.setSlice_modules (s : State) (k : Nat) (x : Slice) : (s.setSlice k x).modules = s.modules := rfl
@[simp] theorem State.setSlice_funcs (s : State) (k : Nat) (x : Slice) : (s.setSlice k x).funcs = s.funcs := rfl
@[simp] theorem State.setSlice_trust (s : State) (k : Nat) (x : Slice) : (s.setSlice k x).trust = s.trust := rfl
@[simp] theorem State.setSlice_dies (s : State) (k : Nat) (x : Slice) : (s.setSlice k x).dies = s.dies := rfl
@[simp] theorem State.setSlice_pairs (s : State) (k : Nat) (x : Slice) : (s.setSlice k x).pairs = s.pairs := rfl
@[simp] theorem State.setSlice_powerStretch (s : State) (k : Nat) (x : Slice) : (s.setSlice k x).powerStretch = s.powerStretch := rfl
@[simp] theorem State.setSlice_measured (s : State) (k : Nat) (x : Slice) : (s.setSlice k x).measured = s.measured := rfl
@[simp] theorem State.setSlice_limit (s : State) (k : Nat) (x : Slice) : (s.setSlice k x).limit = s.limit := rfl
@[simp] theorem State.setSlice_sparing (s : State) (k : Nat) (x : Slice) : (s.setSlice k x).sparing = s.sparing := rfl
@[simp] theorem State.setSlice_msgAt (s : State) (k : Nat) (x : Slice) : (s.setSlice k x).msgAt = s.msgAt := rfl
@[simp] theorem State.setSlice_out (s : State) (k : Nat) (x : Slice) : (s.setSlice k x).out = s.out := rfl

/-! ### setMx -/

@[simp] theorem State.setMx_agenda (s : State) (k : Nat) (x : MxEntry) : (s.setMx k x).agenda = s.agenda := rfl
@[simp] theorem State.setMx_issuing (s : State) (k : Nat) (x : MxEntry) : (s.setMx k x).issuing = s.issuing := rfl
@[simp] theorem State.setMx_cur (s : State) (k : Nat) (x : MxEntry) : (s.setMx k x).cur = s.cur := rfl
@[simp] theorem State.setMx_free (s : State) (k : Nat) (x : MxEntry) : (s.setMx k x).free = s.free := rfl
@[simp] theorem State.setMx_nextId (s : State) (k : Nat) (x : MxEntry) : (s.setMx k x).nextId = s.nextId := rfl
@[simp] theorem State.setMx_now (s : State) (k : Nat) (x : MxEntry) : (s.setMx k x).now = s.now := rfl
@[simp] theorem State.setMx_phase (s : State) (k : Nat) (x : MxEntry) : (s.setMx k x).phase = s.phase := rfl
@[simp] theorem State.setMx_clk (s : State) (k : Nat) (x : MxEntry) : (s.setMx k x).clk = s.clk := rfl
@[simp] theorem State.setMx_mem (s : State) (k : Nat) (x : MxEntry) : (s.setMx k x).mem = s.mem := rfl
@[simp] theorem State.setMx_ecc (s : State) (k : Nat) (x : MxEntry) : (s.setMx k x).ecc = s.ecc := rfl
@[simp] theorem State.setMx_mx (s : State) (k : Nat) (x : MxEntry) : (s.setMx k x).mx = s.mx.set k x := rfl
@[simp] theorem State.setMx_tlb (s : State) (k : Nat) (x : MxEntry) : (s.setMx k x).tlb = s.tlb := rfl
@[simp] theorem State.setMx_walks (s : State) (k : Nat) (x : MxEntry) : (s.setMx k x).walks = s.walks := rfl
@[simp] theorem State.setMx_xrecs (s : State) (k : Nat) (x : MxEntry) : (s.setMx k x).xrecs = s.xrecs := rfl
@[simp] theorem State.setMx_rewalks (s : State) (k : Nat) (x : MxEntry) : (s.setMx k x).rewalks = s.rewalks := rfl
@[simp] theorem State.setMx_lines (s : State) (k : Nat) (x : MxEntry) : (s.setMx k x).lines = s.lines := rfl
@[simp] theorem State.setMx_slices (s : State) (k : Nat) (x : MxEntry) : (s.setMx k x).slices = s.slices := rfl
@[simp] theorem State.setMx_l2 (s : State) (k : Nat) (x : MxEntry) : (s.setMx k x).l2 = s.l2 := rfl
@[simp] theorem State.setMx_reqs (s : State) (k : Nat) (x : MxEntry) : (s.setMx k x).reqs = s.reqs := rfl
@[simp] theorem State.setMx_pending (s : State) (k : Nat) (x : MxEntry) : (s.setMx k x).pending = s.pending := rfl
@[simp] theorem State.setMx_nextIns (s : State) (k : Nat) (x : MxEntry) : (s.setMx k x).nextIns = s.nextIns := rfl
@[simp] theorem State.setMx_monitors (s : State) (k : Nat) (x : MxEntry) : (s.setMx k x).monitors = s.monitors := rfl
@[simp] theorem State.setMx_cores (s : State) (k : Nat) (x : MxEntry) : (s.setMx k x).cores = s.cores := rfl
@[simp] theorem State.setMx_groups (s : State) (k : Nat) (x : MxEntry) : (s.setMx k x).groups = s.groups := rfl
@[simp] theorem State.setMx_saves (s : State) (k : Nat) (x : MxEntry) : (s.setMx k x).saves = s.saves := rfl
@[simp] theorem State.setMx_runList (s : State) (k : Nat) (x : MxEntry) : (s.setMx k x).runList = s.runList := rfl
@[simp] theorem State.setMx_launches (s : State) (k : Nat) (x : MxEntry) : (s.setMx k x).launches = s.launches := rfl
@[simp] theorem State.setMx_nextLaunch (s : State) (k : Nat) (x : MxEntry) : (s.setMx k x).nextLaunch = s.nextLaunch := rfl
@[simp] theorem State.setMx_pools (s : State) (k : Nat) (x : MxEntry) : (s.setMx k x).pools = s.pools := rfl
@[simp] theorem State.setMx_modules (s : State) (k : Nat) (x : MxEntry) : (s.setMx k x).modules = s.modules := rfl
@[simp] theorem State.setMx_funcs (s : State) (k : Nat) (x : MxEntry) : (s.setMx k x).funcs = s.funcs := rfl
@[simp] theorem State.setMx_trust (s : State) (k : Nat) (x : MxEntry) : (s.setMx k x).trust = s.trust := rfl
@[simp] theorem State.setMx_dies (s : State) (k : Nat) (x : MxEntry) : (s.setMx k x).dies = s.dies := rfl
@[simp] theorem State.setMx_pairs (s : State) (k : Nat) (x : MxEntry) : (s.setMx k x).pairs = s.pairs := rfl
@[simp] theorem State.setMx_powerStretch (s : State) (k : Nat) (x : MxEntry) : (s.setMx k x).powerStretch = s.powerStretch := rfl
@[simp] theorem State.setMx_measured (s : State) (k : Nat) (x : MxEntry) : (s.setMx k x).measured = s.measured := rfl
@[simp] theorem State.setMx_limit (s : State) (k : Nat) (x : MxEntry) : (s.setMx k x).limit = s.limit := rfl
@[simp] theorem State.setMx_sparing (s : State) (k : Nat) (x : MxEntry) : (s.setMx k x).sparing = s.sparing := rfl
@[simp] theorem State.setMx_msgAt (s : State) (k : Nat) (x : MxEntry) : (s.setMx k x).msgAt = s.msgAt := rfl
@[simp] theorem State.setMx_out (s : State) (k : Nat) (x : MxEntry) : (s.setMx k x).out = s.out := rfl

/-! ### setModl -/

@[simp] theorem State.setModl_agenda (s : State) (k : Nat) (x : Module) : (s.setModl k x).agenda = s.agenda := rfl
@[simp] theorem State.setModl_issuing (s : State) (k : Nat) (x : Module) : (s.setModl k x).issuing = s.issuing := rfl
@[simp] theorem State.setModl_cur (s : State) (k : Nat) (x : Module) : (s.setModl k x).cur = s.cur := rfl
@[simp] theorem State.setModl_free (s : State) (k : Nat) (x : Module) : (s.setModl k x).free = s.free := rfl
@[simp] theorem State.setModl_nextId (s : State) (k : Nat) (x : Module) : (s.setModl k x).nextId = s.nextId := rfl
@[simp] theorem State.setModl_now (s : State) (k : Nat) (x : Module) : (s.setModl k x).now = s.now := rfl
@[simp] theorem State.setModl_phase (s : State) (k : Nat) (x : Module) : (s.setModl k x).phase = s.phase := rfl
@[simp] theorem State.setModl_clk (s : State) (k : Nat) (x : Module) : (s.setModl k x).clk = s.clk := rfl
@[simp] theorem State.setModl_mem (s : State) (k : Nat) (x : Module) : (s.setModl k x).mem = s.mem := rfl
@[simp] theorem State.setModl_ecc (s : State) (k : Nat) (x : Module) : (s.setModl k x).ecc = s.ecc := rfl
@[simp] theorem State.setModl_mx (s : State) (k : Nat) (x : Module) : (s.setModl k x).mx = s.mx := rfl
@[simp] theorem State.setModl_tlb (s : State) (k : Nat) (x : Module) : (s.setModl k x).tlb = s.tlb := rfl
@[simp] theorem State.setModl_walks (s : State) (k : Nat) (x : Module) : (s.setModl k x).walks = s.walks := rfl
@[simp] theorem State.setModl_xrecs (s : State) (k : Nat) (x : Module) : (s.setModl k x).xrecs = s.xrecs := rfl
@[simp] theorem State.setModl_rewalks (s : State) (k : Nat) (x : Module) : (s.setModl k x).rewalks = s.rewalks := rfl
@[simp] theorem State.setModl_lines (s : State) (k : Nat) (x : Module) : (s.setModl k x).lines = s.lines := rfl
@[simp] theorem State.setModl_slices (s : State) (k : Nat) (x : Module) : (s.setModl k x).slices = s.slices := rfl
@[simp] theorem State.setModl_l2 (s : State) (k : Nat) (x : Module) : (s.setModl k x).l2 = s.l2 := rfl
@[simp] theorem State.setModl_reqs (s : State) (k : Nat) (x : Module) : (s.setModl k x).reqs = s.reqs := rfl
@[simp] theorem State.setModl_pending (s : State) (k : Nat) (x : Module) : (s.setModl k x).pending = s.pending := rfl
@[simp] theorem State.setModl_nextIns (s : State) (k : Nat) (x : Module) : (s.setModl k x).nextIns = s.nextIns := rfl
@[simp] theorem State.setModl_monitors (s : State) (k : Nat) (x : Module) : (s.setModl k x).monitors = s.monitors := rfl
@[simp] theorem State.setModl_cores (s : State) (k : Nat) (x : Module) : (s.setModl k x).cores = s.cores := rfl
@[simp] theorem State.setModl_groups (s : State) (k : Nat) (x : Module) : (s.setModl k x).groups = s.groups := rfl
@[simp] theorem State.setModl_saves (s : State) (k : Nat) (x : Module) : (s.setModl k x).saves = s.saves := rfl
@[simp] theorem State.setModl_runList (s : State) (k : Nat) (x : Module) : (s.setModl k x).runList = s.runList := rfl
@[simp] theorem State.setModl_launches (s : State) (k : Nat) (x : Module) : (s.setModl k x).launches = s.launches := rfl
@[simp] theorem State.setModl_nextLaunch (s : State) (k : Nat) (x : Module) : (s.setModl k x).nextLaunch = s.nextLaunch := rfl
@[simp] theorem State.setModl_pools (s : State) (k : Nat) (x : Module) : (s.setModl k x).pools = s.pools := rfl
@[simp] theorem State.setModl_modules (s : State) (k : Nat) (x : Module) : (s.setModl k x).modules = s.modules.set k x := rfl
@[simp] theorem State.setModl_funcs (s : State) (k : Nat) (x : Module) : (s.setModl k x).funcs = s.funcs := rfl
@[simp] theorem State.setModl_trust (s : State) (k : Nat) (x : Module) : (s.setModl k x).trust = s.trust := rfl
@[simp] theorem State.setModl_dies (s : State) (k : Nat) (x : Module) : (s.setModl k x).dies = s.dies := rfl
@[simp] theorem State.setModl_pairs (s : State) (k : Nat) (x : Module) : (s.setModl k x).pairs = s.pairs := rfl
@[simp] theorem State.setModl_powerStretch (s : State) (k : Nat) (x : Module) : (s.setModl k x).powerStretch = s.powerStretch := rfl
@[simp] theorem State.setModl_measured (s : State) (k : Nat) (x : Module) : (s.setModl k x).measured = s.measured := rfl
@[simp] theorem State.setModl_limit (s : State) (k : Nat) (x : Module) : (s.setModl k x).limit = s.limit := rfl
@[simp] theorem State.setModl_sparing (s : State) (k : Nat) (x : Module) : (s.setModl k x).sparing = s.sparing := rfl
@[simp] theorem State.setModl_msgAt (s : State) (k : Nat) (x : Module) : (s.setModl k x).msgAt = s.msgAt := rfl
@[simp] theorem State.setModl_out (s : State) (k : Nat) (x : Module) : (s.setModl k x).out = s.out := rfl

/-! ### setLine -/

@[simp] theorem State.setLine_agenda (s : State) (k : Nat) (x : LineRec) : (s.setLine k x).agenda = s.agenda := rfl
@[simp] theorem State.setLine_issuing (s : State) (k : Nat) (x : LineRec) : (s.setLine k x).issuing = s.issuing := rfl
@[simp] theorem State.setLine_cur (s : State) (k : Nat) (x : LineRec) : (s.setLine k x).cur = s.cur := rfl
@[simp] theorem State.setLine_free (s : State) (k : Nat) (x : LineRec) : (s.setLine k x).free = s.free := rfl
@[simp] theorem State.setLine_nextId (s : State) (k : Nat) (x : LineRec) : (s.setLine k x).nextId = s.nextId := rfl
@[simp] theorem State.setLine_now (s : State) (k : Nat) (x : LineRec) : (s.setLine k x).now = s.now := rfl
@[simp] theorem State.setLine_phase (s : State) (k : Nat) (x : LineRec) : (s.setLine k x).phase = s.phase := rfl
@[simp] theorem State.setLine_clk (s : State) (k : Nat) (x : LineRec) : (s.setLine k x).clk = s.clk := rfl
@[simp] theorem State.setLine_mem (s : State) (k : Nat) (x : LineRec) : (s.setLine k x).mem = s.mem := rfl
@[simp] theorem State.setLine_ecc (s : State) (k : Nat) (x : LineRec) : (s.setLine k x).ecc = s.ecc := rfl
@[simp] theorem State.setLine_mx (s : State) (k : Nat) (x : LineRec) : (s.setLine k x).mx = s.mx := rfl
@[simp] theorem State.setLine_tlb (s : State) (k : Nat) (x : LineRec) : (s.setLine k x).tlb = s.tlb := rfl
@[simp] theorem State.setLine_walks (s : State) (k : Nat) (x : LineRec) : (s.setLine k x).walks = s.walks := rfl
@[simp] theorem State.setLine_xrecs (s : State) (k : Nat) (x : LineRec) : (s.setLine k x).xrecs = s.xrecs := rfl
@[simp] theorem State.setLine_rewalks (s : State) (k : Nat) (x : LineRec) : (s.setLine k x).rewalks = s.rewalks := rfl
@[simp] theorem State.setLine_lines (s : State) (k : Nat) (x : LineRec) : (s.setLine k x).lines = s.lines.set k x := rfl
@[simp] theorem State.setLine_slices (s : State) (k : Nat) (x : LineRec) : (s.setLine k x).slices = s.slices := rfl
@[simp] theorem State.setLine_l2 (s : State) (k : Nat) (x : LineRec) : (s.setLine k x).l2 = s.l2 := rfl
@[simp] theorem State.setLine_reqs (s : State) (k : Nat) (x : LineRec) : (s.setLine k x).reqs = s.reqs := rfl
@[simp] theorem State.setLine_pending (s : State) (k : Nat) (x : LineRec) : (s.setLine k x).pending = s.pending := rfl
@[simp] theorem State.setLine_nextIns (s : State) (k : Nat) (x : LineRec) : (s.setLine k x).nextIns = s.nextIns := rfl
@[simp] theorem State.setLine_monitors (s : State) (k : Nat) (x : LineRec) : (s.setLine k x).monitors = s.monitors := rfl
@[simp] theorem State.setLine_cores (s : State) (k : Nat) (x : LineRec) : (s.setLine k x).cores = s.cores := rfl
@[simp] theorem State.setLine_groups (s : State) (k : Nat) (x : LineRec) : (s.setLine k x).groups = s.groups := rfl
@[simp] theorem State.setLine_saves (s : State) (k : Nat) (x : LineRec) : (s.setLine k x).saves = s.saves := rfl
@[simp] theorem State.setLine_runList (s : State) (k : Nat) (x : LineRec) : (s.setLine k x).runList = s.runList := rfl
@[simp] theorem State.setLine_launches (s : State) (k : Nat) (x : LineRec) : (s.setLine k x).launches = s.launches := rfl
@[simp] theorem State.setLine_nextLaunch (s : State) (k : Nat) (x : LineRec) : (s.setLine k x).nextLaunch = s.nextLaunch := rfl
@[simp] theorem State.setLine_pools (s : State) (k : Nat) (x : LineRec) : (s.setLine k x).pools = s.pools := rfl
@[simp] theorem State.setLine_modules (s : State) (k : Nat) (x : LineRec) : (s.setLine k x).modules = s.modules := rfl
@[simp] theorem State.setLine_funcs (s : State) (k : Nat) (x : LineRec) : (s.setLine k x).funcs = s.funcs := rfl
@[simp] theorem State.setLine_trust (s : State) (k : Nat) (x : LineRec) : (s.setLine k x).trust = s.trust := rfl
@[simp] theorem State.setLine_dies (s : State) (k : Nat) (x : LineRec) : (s.setLine k x).dies = s.dies := rfl
@[simp] theorem State.setLine_pairs (s : State) (k : Nat) (x : LineRec) : (s.setLine k x).pairs = s.pairs := rfl
@[simp] theorem State.setLine_powerStretch (s : State) (k : Nat) (x : LineRec) : (s.setLine k x).powerStretch = s.powerStretch := rfl
@[simp] theorem State.setLine_measured (s : State) (k : Nat) (x : LineRec) : (s.setLine k x).measured = s.measured := rfl
@[simp] theorem State.setLine_limit (s : State) (k : Nat) (x : LineRec) : (s.setLine k x).limit = s.limit := rfl
@[simp] theorem State.setLine_sparing (s : State) (k : Nat) (x : LineRec) : (s.setLine k x).sparing = s.sparing := rfl
@[simp] theorem State.setLine_msgAt (s : State) (k : Nat) (x : LineRec) : (s.setLine k x).msgAt = s.msgAt := rfl
@[simp] theorem State.setLine_out (s : State) (k : Nat) (x : LineRec) : (s.setLine k x).out = s.out := rfl

/-! ### updGroup -/

@[simp] theorem State.updGroup_agenda (s : State) (k : Nat) (f : Group → Group) : (s.updGroup k f).agenda = s.agenda := rfl
@[simp] theorem State.updGroup_issuing (s : State) (k : Nat) (f : Group → Group) : (s.updGroup k f).issuing = s.issuing := rfl
@[simp] theorem State.updGroup_cur (s : State) (k : Nat) (f : Group → Group) : (s.updGroup k f).cur = s.cur := rfl
@[simp] theorem State.updGroup_free (s : State) (k : Nat) (f : Group → Group) : (s.updGroup k f).free = s.free := rfl
@[simp] theorem State.updGroup_nextId (s : State) (k : Nat) (f : Group → Group) : (s.updGroup k f).nextId = s.nextId := rfl
@[simp] theorem State.updGroup_now (s : State) (k : Nat) (f : Group → Group) : (s.updGroup k f).now = s.now := rfl
@[simp] theorem State.updGroup_phase (s : State) (k : Nat) (f : Group → Group) : (s.updGroup k f).phase = s.phase := rfl
@[simp] theorem State.updGroup_clk (s : State) (k : Nat) (f : Group → Group) : (s.updGroup k f).clk = s.clk := rfl
@[simp] theorem State.updGroup_mem (s : State) (k : Nat) (f : Group → Group) : (s.updGroup k f).mem = s.mem := rfl
@[simp] theorem State.updGroup_ecc (s : State) (k : Nat) (f : Group → Group) : (s.updGroup k f).ecc = s.ecc := rfl
@[simp] theorem State.updGroup_mx (s : State) (k : Nat) (f : Group → Group) : (s.updGroup k f).mx = s.mx := rfl
@[simp] theorem State.updGroup_tlb (s : State) (k : Nat) (f : Group → Group) : (s.updGroup k f).tlb = s.tlb := rfl
@[simp] theorem State.updGroup_walks (s : State) (k : Nat) (f : Group → Group) : (s.updGroup k f).walks = s.walks := rfl
@[simp] theorem State.updGroup_xrecs (s : State) (k : Nat) (f : Group → Group) : (s.updGroup k f).xrecs = s.xrecs := rfl
@[simp] theorem State.updGroup_rewalks (s : State) (k : Nat) (f : Group → Group) : (s.updGroup k f).rewalks = s.rewalks := rfl
@[simp] theorem State.updGroup_lines (s : State) (k : Nat) (f : Group → Group) : (s.updGroup k f).lines = s.lines := rfl
@[simp] theorem State.updGroup_slices (s : State) (k : Nat) (f : Group → Group) : (s.updGroup k f).slices = s.slices := rfl
@[simp] theorem State.updGroup_l2 (s : State) (k : Nat) (f : Group → Group) : (s.updGroup k f).l2 = s.l2 := rfl
@[simp] theorem State.updGroup_reqs (s : State) (k : Nat) (f : Group → Group) : (s.updGroup k f).reqs = s.reqs := rfl
@[simp] theorem State.updGroup_pending (s : State) (k : Nat) (f : Group → Group) : (s.updGroup k f).pending = s.pending := rfl
@[simp] theorem State.updGroup_nextIns (s : State) (k : Nat) (f : Group → Group) : (s.updGroup k f).nextIns = s.nextIns := rfl
@[simp] theorem State.updGroup_monitors (s : State) (k : Nat) (f : Group → Group) : (s.updGroup k f).monitors = s.monitors := rfl
@[simp] theorem State.updGroup_cores (s : State) (k : Nat) (f : Group → Group) : (s.updGroup k f).cores = s.cores := rfl
@[simp] theorem State.updGroup_groups (s : State) (k : Nat) (f : Group → Group) : (s.updGroup k f).groups = s.groups.upd k f := rfl
@[simp] theorem State.updGroup_saves (s : State) (k : Nat) (f : Group → Group) : (s.updGroup k f).saves = s.saves := rfl
@[simp] theorem State.updGroup_runList (s : State) (k : Nat) (f : Group → Group) : (s.updGroup k f).runList = s.runList := rfl
@[simp] theorem State.updGroup_launches (s : State) (k : Nat) (f : Group → Group) : (s.updGroup k f).launches = s.launches := rfl
@[simp] theorem State.updGroup_nextLaunch (s : State) (k : Nat) (f : Group → Group) : (s.updGroup k f).nextLaunch = s.nextLaunch := rfl
@[simp] theorem State.updGroup_pools (s : State) (k : Nat) (f : Group → Group) : (s.updGroup k f).pools = s.pools := rfl
@[simp] theorem State.updGroup_modules (s : State) (k : Nat) (f : Group → Group) : (s.updGroup k f).modules = s.modules := rfl
@[simp] theorem State.updGroup_funcs (s : State) (k : Nat) (f : Group → Group) : (s.updGroup k f).funcs = s.funcs := rfl
@[simp] theorem State.updGroup_trust (s : State) (k : Nat) (f : Group → Group) : (s.updGroup k f).trust = s.trust := rfl
@[simp] theorem State.updGroup_dies (s : State) (k : Nat) (f : Group → Group) : (s.updGroup k f).dies = s.dies := rfl
@[simp] theorem State.updGroup_pairs (s : State) (k : Nat) (f : Group → Group) : (s.updGroup k f).pairs = s.pairs := rfl
@[simp] theorem State.updGroup_powerStretch (s : State) (k : Nat) (f : Group → Group) : (s.updGroup k f).powerStretch = s.powerStretch := rfl
@[simp] theorem State.updGroup_measured (s : State) (k : Nat) (f : Group → Group) : (s.updGroup k f).measured = s.measured := rfl
@[simp] theorem State.updGroup_limit (s : State) (k : Nat) (f : Group → Group) : (s.updGroup k f).limit = s.limit := rfl
@[simp] theorem State.updGroup_sparing (s : State) (k : Nat) (f : Group → Group) : (s.updGroup k f).sparing = s.sparing := rfl
@[simp] theorem State.updGroup_msgAt (s : State) (k : Nat) (f : Group → Group) : (s.updGroup k f).msgAt = s.msgAt := rfl
@[simp] theorem State.updGroup_out (s : State) (k : Nat) (f : Group → Group) : (s.updGroup k f).out = s.out := rfl

/-! ### updLaunch -/

@[simp] theorem State.updLaunch_agenda (s : State) (k : Nat) (f : Launch → Launch) : (s.updLaunch k f).agenda = s.agenda := rfl
@[simp] theorem State.updLaunch_issuing (s : State) (k : Nat) (f : Launch → Launch) : (s.updLaunch k f).issuing = s.issuing := rfl
@[simp] theorem State.updLaunch_cur (s : State) (k : Nat) (f : Launch → Launch) : (s.updLaunch k f).cur = s.cur := rfl
@[simp] theorem State.updLaunch_free (s : State) (k : Nat) (f : Launch → Launch) : (s.updLaunch k f).free = s.free := rfl
@[simp] theorem State.updLaunch_nextId (s : State) (k : Nat) (f : Launch → Launch) : (s.updLaunch k f).nextId = s.nextId := rfl
@[simp] theorem State.updLaunch_now (s : State) (k : Nat) (f : Launch → Launch) : (s.updLaunch k f).now = s.now := rfl
@[simp] theorem State.updLaunch_phase (s : State) (k : Nat) (f : Launch → Launch) : (s.updLaunch k f).phase = s.phase := rfl
@[simp] theorem State.updLaunch_clk (s : State) (k : Nat) (f : Launch → Launch) : (s.updLaunch k f).clk = s.clk := rfl
@[simp] theorem State.updLaunch_mem (s : State) (k : Nat) (f : Launch → Launch) : (s.updLaunch k f).mem = s.mem := rfl
@[simp] theorem State.updLaunch_ecc (s : State) (k : Nat) (f : Launch → Launch) : (s.updLaunch k f).ecc = s.ecc := rfl
@[simp] theorem State.updLaunch_mx (s : State) (k : Nat) (f : Launch → Launch) : (s.updLaunch k f).mx = s.mx := rfl
@[simp] theorem State.updLaunch_tlb (s : State) (k : Nat) (f : Launch → Launch) : (s.updLaunch k f).tlb = s.tlb := rfl
@[simp] theorem State.updLaunch_walks (s : State) (k : Nat) (f : Launch → Launch) : (s.updLaunch k f).walks = s.walks := rfl
@[simp] theorem State.updLaunch_xrecs (s : State) (k : Nat) (f : Launch → Launch) : (s.updLaunch k f).xrecs = s.xrecs := rfl
@[simp] theorem State.updLaunch_rewalks (s : State) (k : Nat) (f : Launch → Launch) : (s.updLaunch k f).rewalks = s.rewalks := rfl
@[simp] theorem State.updLaunch_lines (s : State) (k : Nat) (f : Launch → Launch) : (s.updLaunch k f).lines = s.lines := rfl
@[simp] theorem State.updLaunch_slices (s : State) (k : Nat) (f : Launch → Launch) : (s.updLaunch k f).slices = s.slices := rfl
@[simp] theorem State.updLaunch_l2 (s : State) (k : Nat) (f : Launch → Launch) : (s.updLaunch k f).l2 = s.l2 := rfl
@[simp] theorem State.updLaunch_reqs (s : State) (k : Nat) (f : Launch → Launch) : (s.updLaunch k f).reqs = s.reqs := rfl
@[simp] theorem State.updLaunch_pending (s : State) (k : Nat) (f : Launch → Launch) : (s.updLaunch k f).pending = s.pending := rfl
@[simp] theorem State.updLaunch_nextIns (s : State) (k : Nat) (f : Launch → Launch) : (s.updLaunch k f).nextIns = s.nextIns := rfl
@[simp] theorem State.updLaunch_monitors (s : State) (k : Nat) (f : Launch → Launch) : (s.updLaunch k f).monitors = s.monitors := rfl
@[simp] theorem State.updLaunch_cores (s : State) (k : Nat) (f : Launch → Launch) : (s.updLaunch k f).cores = s.cores := rfl
@[simp] theorem State.updLaunch_groups (s : State) (k : Nat) (f : Launch → Launch) : (s.updLaunch k f).groups = s.groups := rfl
@[simp] theorem State.updLaunch_saves (s : State) (k : Nat) (f : Launch → Launch) : (s.updLaunch k f).saves = s.saves := rfl
@[simp] theorem State.updLaunch_runList (s : State) (k : Nat) (f : Launch → Launch) : (s.updLaunch k f).runList = s.runList := rfl
@[simp] theorem State.updLaunch_launches (s : State) (k : Nat) (f : Launch → Launch) : (s.updLaunch k f).launches = s.launches.upd k f := rfl
@[simp] theorem State.updLaunch_nextLaunch (s : State) (k : Nat) (f : Launch → Launch) : (s.updLaunch k f).nextLaunch = s.nextLaunch := rfl
@[simp] theorem State.updLaunch_pools (s : State) (k : Nat) (f : Launch → Launch) : (s.updLaunch k f).pools = s.pools := rfl
@[simp] theorem State.updLaunch_modules (s : State) (k : Nat) (f : Launch → Launch) : (s.updLaunch k f).modules = s.modules := rfl
@[simp] theorem State.updLaunch_funcs (s : State) (k : Nat) (f : Launch → Launch) : (s.updLaunch k f).funcs = s.funcs := rfl
@[simp] theorem State.updLaunch_trust (s : State) (k : Nat) (f : Launch → Launch) : (s.updLaunch k f).trust = s.trust := rfl
@[simp] theorem State.updLaunch_dies (s : State) (k : Nat) (f : Launch → Launch) : (s.updLaunch k f).dies = s.dies := rfl
@[simp] theorem State.updLaunch_pairs (s : State) (k : Nat) (f : Launch → Launch) : (s.updLaunch k f).pairs = s.pairs := rfl
@[simp] theorem State.updLaunch_powerStretch (s : State) (k : Nat) (f : Launch → Launch) : (s.updLaunch k f).powerStretch = s.powerStretch := rfl
@[simp] theorem State.updLaunch_measured (s : State) (k : Nat) (f : Launch → Launch) : (s.updLaunch k f).measured = s.measured := rfl
@[simp] theorem State.updLaunch_limit (s : State) (k : Nat) (f : Launch → Launch) : (s.updLaunch k f).limit = s.limit := rfl
@[simp] theorem State.updLaunch_sparing (s : State) (k : Nat) (f : Launch → Launch) : (s.updLaunch k f).sparing = s.sparing := rfl
@[simp] theorem State.updLaunch_msgAt (s : State) (k : Nat) (f : Launch → Launch) : (s.updLaunch k f).msgAt = s.msgAt := rfl
@[simp] theorem State.updLaunch_out (s : State) (k : Nat) (f : Launch → Launch) : (s.updLaunch k f).out = s.out := rfl

/-! ### pend -/

@[simp] theorem State.pend_agenda (s : State) (p : Pending) : (s.pend p).agenda = s.agenda := rfl
@[simp] theorem State.pend_issuing (s : State) (p : Pending) : (s.pend p).issuing = s.issuing := rfl
@[simp] theorem State.pend_cur (s : State) (p : Pending) : (s.pend p).cur = s.cur := rfl
@[simp] theorem State.pend_free (s : State) (p : Pending) : (s.pend p).free = s.free := rfl
@[simp] theorem State.pend_nextId (s : State) (p : Pending) : (s.pend p).nextId = s.nextId := rfl
@[simp] theorem State.pend_now (s : State) (p : Pending) : (s.pend p).now = s.now := rfl
@[simp] theorem State.pend_phase (s : State) (p : Pending) : (s.pend p).phase = s.phase := rfl
@[simp] theorem State.pend_clk (s : State) (p : Pending) : (s.pend p).clk = s.clk := rfl
@[simp] theorem State.pend_mem (s : State) (p : Pending) : (s.pend p).mem = s.mem := rfl
@[simp] theorem State.pend_ecc (s : State) (p : Pending) : (s.pend p).ecc = s.ecc := rfl
@[simp] theorem State.pend_mx (s : State) (p : Pending) : (s.pend p).mx = s.mx := rfl
@[simp] theorem State.pend_tlb (s : State) (p : Pending) : (s.pend p).tlb = s.tlb := rfl
@[simp] theorem State.pend_walks (s : State) (p : Pending) : (s.pend p).walks = s.walks := rfl
@[simp] theorem State.pend_xrecs (s : State) (p : Pending) : (s.pend p).xrecs = s.xrecs := rfl
@[simp] theorem State.pend_rewalks (s : State) (p : Pending) : (s.pend p).rewalks = s.rewalks := rfl
@[simp] theorem State.pend_lines (s : State) (p : Pending) : (s.pend p).lines = s.lines := rfl
@[simp] theorem State.pend_slices (s : State) (p : Pending) : (s.pend p).slices = s.slices := rfl
@[simp] theorem State.pend_l2 (s : State) (p : Pending) : (s.pend p).l2 = s.l2 := rfl
@[simp] theorem State.pend_reqs (s : State) (p : Pending) : (s.pend p).reqs = s.reqs := rfl
@[simp] theorem State.pend_pending (s : State) (p : Pending) : (s.pend p).pending = s.pending ++ [p] := rfl
@[simp] theorem State.pend_nextIns (s : State) (p : Pending) : (s.pend p).nextIns = s.nextIns := rfl
@[simp] theorem State.pend_monitors (s : State) (p : Pending) : (s.pend p).monitors = s.monitors := rfl
@[simp] theorem State.pend_cores (s : State) (p : Pending) : (s.pend p).cores = s.cores := rfl
@[simp] theorem State.pend_groups (s : State) (p : Pending) : (s.pend p).groups = s.groups := rfl
@[simp] theorem State.pend_saves (s : State) (p : Pending) : (s.pend p).saves = s.saves := rfl
@[simp] theorem State.pend_runList (s : State) (p : Pending) : (s.pend p).runList = s.runList := rfl
@[simp] theorem State.pend_launches (s : State) (p : Pending) : (s.pend p).launches = s.launches := rfl
@[simp] theorem State.pend_nextLaunch (s : State) (p : Pending) : (s.pend p).nextLaunch = s.nextLaunch := rfl
@[simp] theorem State.pend_pools (s : State) (p : Pending) : (s.pend p).pools = s.pools := rfl
@[simp] theorem State.pend_modules (s : State) (p : Pending) : (s.pend p).modules = s.modules := rfl
@[simp] theorem State.pend_funcs (s : State) (p : Pending) : (s.pend p).funcs = s.funcs := rfl
@[simp] theorem State.pend_trust (s : State) (p : Pending) : (s.pend p).trust = s.trust := rfl
@[simp] theorem State.pend_dies (s : State) (p : Pending) : (s.pend p).dies = s.dies := rfl
@[simp] theorem State.pend_pairs (s : State) (p : Pending) : (s.pend p).pairs = s.pairs := rfl
@[simp] theorem State.pend_powerStretch (s : State) (p : Pending) : (s.pend p).powerStretch = s.powerStretch := rfl
@[simp] theorem State.pend_measured (s : State) (p : Pending) : (s.pend p).measured = s.measured := rfl
@[simp] theorem State.pend_limit (s : State) (p : Pending) : (s.pend p).limit = s.limit := rfl
@[simp] theorem State.pend_sparing (s : State) (p : Pending) : (s.pend p).sparing = s.sparing := rfl
@[simp] theorem State.pend_msgAt (s : State) (p : Pending) : (s.pend p).msgAt = s.msgAt := rfl
@[simp] theorem State.pend_out (s : State) (p : Pending) : (s.pend p).out = s.out := rfl

/-! ### A table entry after it is stored -/

@[simp] theorem State.core_setCore_same (s : State) (k : Nat) (x : Core) : (s.setCore k x).core k = x := by
  simp [State.setCore, State.core]
theorem State.core_setCore_other (s : State) {k j : Nat} (x : Core) (h : j ≠ k) : (s.setCore k x).core j = s.core j := by
  simp [State.setCore, State.core, SMap.find_set_other _ x h]
@[simp] theorem State.fn_setFn_same (s : State) (k : Nat) (x : Func) : (s.setFn k x).fn k = x := by
  simp [State.setFn, State.fn]
theorem State.fn_setFn_other (s : State) {k j : Nat} (x : Func) (h : j ≠ k) : (s.setFn k x).fn j = s.fn j := by
  simp [State.setFn, State.fn, SMap.find_set_other _ x h]
@[simp] theorem State.pair_setPair_same (s : State) (k : Nat) (x : Machine.Pair) : (s.setPair k x).pair k = x := by
  simp [State.setPair, State.pair]
theorem State.pair_setPair_other (s : State) {k j : Nat} (x : Machine.Pair) (h : j ≠ k) : (s.setPair k x).pair j = s.pair j := by
  simp [State.setPair, State.pair, SMap.find_set_other _ x h]
@[simp] theorem State.pool_setPool_same (s : State) (k : Nat) (x : Pool) : (s.setPool k x).pool k = x := by
  simp [State.setPool, State.pool]
theorem State.pool_setPool_other (s : State) {k j : Nat} (x : Pool) (h : j ≠ k) : (s.setPool k x).pool j = s.pool j := by
  simp [State.setPool, State.pool, SMap.find_set_other _ x h]
@[simp] theorem State.slice_setSlice_same (s : State) (k : Nat) (x : Slice) : (s.setSlice k x).slice k = x := by
  simp [State.setSlice, State.slice]
theorem State.slice_setSlice_other (s : State) {k j : Nat} (x : Slice) (h : j ≠ k) : (s.setSlice k x).slice j = s.slice j := by
  simp [State.setSlice, State.slice, SMap.find_set_other _ x h]
@[simp] theorem State.mxe_setMx_same (s : State) (k : Nat) (x : MxEntry) : (s.setMx k x).mxe k = x := by
  simp [State.setMx, State.mxe]
theorem State.mxe_setMx_other (s : State) {k j : Nat} (x : MxEntry) (h : j ≠ k) : (s.setMx k x).mxe j = s.mxe j := by
  simp [State.setMx, State.mxe, SMap.find_set_other _ x h]
@[simp] theorem State.modl_setModl_same (s : State) (k : Nat) (x : Module) : (s.setModl k x).modl k = x := by
  simp [State.setModl, State.modl]
theorem State.modl_setModl_other (s : State) {k j : Nat} (x : Module) (h : j ≠ k) : (s.setModl k x).modl j = s.modl j := by
  simp [State.setModl, State.modl, SMap.find_set_other _ x h]

theorem SMap.find_upd_same {α : Type} (m : SMap α) (k : Nat) (f : α → α) : (m.upd k f).find k = (m.find k).map f := by
  unfold SMap.upd
  split
  · rename_i v h; simp [h]
  · rename_i h; simp [h]

theorem SMap.find_upd_other {α : Type} (m : SMap α) {k j : Nat} (f : α → α) (h : j ≠ k) :
    (m.upd k f).find j = m.find j := by
  unfold SMap.upd
  split
  · exact SMap.find_set_other m _ h
  · rfl

end Sys2Proof.Machine
end

