-- ==== Sys2Proof/Laws/Ctx.lean ====
section
/-!
SUPPORT. What storing a fragment does, and what the shared runs of the lane and uniform instructions do: one rule each.
-/

namespace Sys2Proof.Machine

theorem State.ctx_eq {s : State} {c : Ctx} (h : s.ctx = some c) : s.ctxOf c.who = some c := by
  unfold State.ctx at h
  cases hc : s.cur with
  | none => simp [hc] at h
  | some w =>
    simp only [hc, Option.bind_some] at h
    have hw : c.who = w := by
      unfold State.ctxOf at h
      split at h
      · cases h
      · split at h
        · simp only [Option.map_eq_some_iff] at h
          obtain ⟨f, -, rfl⟩ := h; rfl
        · cases h
    rw [hw]; exact h

/-- What a found fragment is: its group, launch, gang and number. -/
theorem State.ctxOf_parts {s : State} {w : Who} {c : Ctx} (h : s.ctxOf w = some c) :
    c.who = w ∧ s.groups.find w.gid = some c.grp ∧ s.launches.find c.grp.launch = some c.lau ∧
    c.grp.gangs[w.gang]? = some c.gang ∧ c.gang.frag w.frag = some c.frag := by
  unfold State.ctxOf at h
  split at h
  · cases h
  · rename_i grp hg
    split at h
    · rename_i lau gang hl hgang
      simp only [Option.map_eq_some_iff] at h
      obtain ⟨f, hf, rfl⟩ := h
      exact ⟨rfl, hg, hl, hgang, hf⟩
    · cases h

theorem Gang.frag_id {g : Gang} {n : Nat} {f : Frag} (h : g.frag n = some f) : f.id = n := by
  have := List.find?_some h
  simpa using this

theorem find_map_same (f f0 : Frag) (l : List Frag) (h : l.find? (fun x => x.id == f.id) = some f0) :
    (l.map (fun x => if x.id == f.id then f else x)).find? (fun x => x.id == f.id) = some f := by
  induction l with
  | nil => simp at h
  | cons a t ih =>
    rw [List.map_cons]
    cases ha : (a.id == f.id)
    · simp only [List.find?_cons, ha] at h
      simp only [Bool.false_eq_true, if_false, List.find?_cons, ha]
      exact ih h
    · simp

theorem find_map_other (f : Frag) (n : Nat) (l : List Frag) (h : n ≠ f.id) :
    (l.map (fun x => if x.id == f.id then f else x)).find? (fun x => x.id == n) = l.find? (fun x => x.id == n) := by
  induction l with
  | nil => rfl
  | cons a t ih =>
    rw [List.map_cons, List.find?_cons, List.find?_cons, ih]
    cases ha : (a.id == f.id)
    · simp
    · have hb : a.id = f.id := by simpa using ha
      have h1 : (f.id == n) = false := by simpa using Ne.symm h
      simp [hb, h1]

theorem Gang.frag_setFrag_same {g : Gang} {f0 f : Frag} (h : g.frag f.id = some f0) : (g.setFrag f).frag f.id = some f :=
  find_map_same f f0 g.frags h

theorem Gang.frag_setFrag_other (g : Gang) (f : Frag) {n : Nat} (h : n ≠ f.id) : (g.setFrag f).frag n = g.frag n :=
  find_map_other f n g.frags h

/-- The stored fragment as it is found again. -/
def Ctx.stored (c : Ctx) : Ctx := { c with gang := c.gang', grp := c.grp' }

/-- Storing the fragment of c in a changed form: it is found so, and nothing else differs. -/
theorem State.effect_put {s : State} {c c' : Ctx} (h : s.ctx = some c) (hw : c'.who = c.who) (hid : c'.frag.id = c.frag.id)
    (hl : c'.lau = c.lau) (hg : c'.grp = c.grp) (hf : c'.gang.frags = c.gang.frags) :
    Effect s (s.put c') c c'.stored := by
  obtain ⟨-, h1, h2, h3, h4⟩ := State.ctxOf_parts (State.ctx_eq h)
  have hlen : c.who.gang < c.grp.gangs.length := by
    rcases Nat.lt_or_ge c.who.gang c.grp.gangs.length with hn | hn
    · exact hn
    · rw [List.getElem?_eq_none hn] at h3; cases h3
  have hfid := Gang.frag_id h4
  have hff : c'.gang.frag c'.frag.id = some c.frag := by
    unfold Gang.frag; rw [hf, hid, hfid]; exact h4
  refine ⟨rfl, ?_, ?_, hl, ?_, ?_, ?_⟩
  · intro k hk
    simp only [State.put_groups, hw]
    exact SMap.find_set_other _ _ hk
  · unfold State.ctxOf
    simp only [State.put_groups, hw, SMap.find_set_same, State.put_launches]
    have hgl : c'.grp'.launch = c.grp.launch := by simp [Ctx.grp', hg]
    have hgg : c'.grp'.gangs[c.who.gang]? = some c'.gang' := by
      simp only [Ctx.grp', hg, hw, getElem?_listSet]; simp [hlen]
    rw [hgl, h2]
    simp only [hgg]
    have hfr : c'.gang'.frag c.who.frag = some c'.frag := by
      have := Gang.frag_setFrag_same hff
      rw [hid, hfid] at this; exact this
    rw [hfr]
    simp [Ctx.stored, hw, hl]
  · simp [Ctx.stored, Ctx.grp', hg]
  · intro k hk
    simp only [Ctx.stored, Ctx.grp', hg, hw, getElem?_listSet]
    simp [hk]
  · intro n hn
    simp only [Ctx.stored, Ctx.gang']
    rw [Gang.frag_setFrag_other _ _ (by rw [hid]; exact hn)]
    unfold Gang.frag; rw [hf]

/-- A run of a lane-set or uniform-set instruction that completes. -/
theorem State.run_ok {s : State} {c : Ctx} (h : s.ctx = some c) (len : Nat) (f : Ctx → Res) {c1 : Ctx} (hf : f c = .ok c1) :
    s.run len f = .next (s.put (c1.retire len)) := by
  simp [State.run, State.onCtx, h, hf]

/-- Retiring after a change that leaves the fragment, its group and the gang's fragments and quads alone. -/
theorem Ctx.retired {c c1 : Ctx} (hq : c1.gang.quads = c.gang.quads) (hf : c1.frag = c.frag) (len : Nat) :
    Retired c (c1.retire len).stored (c.nextPc len) := by
  constructor
  · simp [Ctx.stored, Ctx.retire, Ctx.goto, Ctx.tick, Ctx.nextPc, hf]
  · intro i
    simp [Ctx.stored, Ctx.retire, Ctx.goto, Ctx.tick, Ctx.gang', Gang.setFrag, Gang.tick, hf, hq]

/-! The parts of a fragment that has retired. -/
@[simp] theorem Gang.tick_v (g : Gang) (qs : List Nat) : (g.tick qs).v = g.v := by unfold Gang.tick; rfl
@[simp] theorem Gang.tick_p (g : Gang) (qs : List Nat) : (g.tick qs).p = g.p := by unfold Gang.tick; rfl
@[simp] theorem Gang.tick_g (g : Gang) (qs : List Nat) : (g.tick qs).g = g.g := by unfold Gang.tick; rfl
@[simp] theorem Gang.tick_q (g : Gang) (qs : List Nat) : (g.tick qs).q = g.q := by unfold Gang.tick; rfl
@[simp] theorem Gang.tick_fsticky (g : Gang) (qs : List Nat) : (g.tick qs).fsticky = g.fsticky := by unfold Gang.tick; rfl
@[simp] theorem Gang.tick_frags (g : Gang) (qs : List Nat) : (g.tick qs).frags = g.frags := by unfold Gang.tick; rfl
theorem Gang.tick_sameBut {g0 g : Gang} (qs : List Nat) (h : g0.SameBut g) : g0.SameBut (g.tick qs) := by
  unfold Gang.tick; exact h

@[simp] theorem Ctx.retire_who (c : Ctx) (n : Nat) : (c.retire n).who = c.who := by unfold Ctx.retire Ctx.goto Ctx.tick; rfl
@[simp] theorem Ctx.retire_lau (c : Ctx) (n : Nat) : (c.retire n).lau = c.lau := by unfold Ctx.retire Ctx.goto Ctx.tick; rfl
@[simp] theorem Ctx.retire_grp (c : Ctx) (n : Nat) : (c.retire n).grp = c.grp := by unfold Ctx.retire Ctx.goto Ctx.tick; rfl
@[simp] theorem Ctx.retire_gang (c : Ctx) (n : Nat) : (c.retire n).gang = c.gang.tick c.frag.quads := by
  unfold Ctx.retire Ctx.goto Ctx.tick; rfl
@[simp] theorem Ctx.retire_frag_id (c : Ctx) (n : Nat) : (c.retire n).frag.id = c.frag.id := by
  unfold Ctx.retire Ctx.goto Ctx.tick; rfl

@[simp] theorem Ctx.stored_gang_v (c : Ctx) : c.stored.gang.v = c.gang.v := by unfold Ctx.stored Ctx.gang' Gang.setFrag; rfl
@[simp] theorem Ctx.stored_gang_p (c : Ctx) : c.stored.gang.p = c.gang.p := by unfold Ctx.stored Ctx.gang' Gang.setFrag; rfl
@[simp] theorem Ctx.stored_gang_g (c : Ctx) : c.stored.gang.g = c.gang.g := by unfold Ctx.stored Ctx.gang' Gang.setFrag; rfl
@[simp] theorem Ctx.stored_gang_q (c : Ctx) : c.stored.gang.q = c.gang.q := by unfold Ctx.stored Ctx.gang' Gang.setFrag; rfl
@[simp] theorem Ctx.stored_gang_fsticky (c : Ctx) : c.stored.gang.fsticky = c.gang.fsticky := by
  unfold Ctx.stored Ctx.gang' Gang.setFrag; rfl
theorem Ctx.stored_sameBut {g0 : Gang} {c : Ctx} (h : g0.SameBut c.gang) : g0.SameBut c.stored.gang := by
  unfold Ctx.stored Ctx.gang' Gang.setFrag; exact h

/-- A run that changes only the gang's own registers before it retires. -/
theorem State.completes {s : State} {c c1 : Ctx} (h : s.ctx = some c) {i : Instr} {len : Nat} {r : Ctx → Res}
    (he : exec i s = s.run len r) (hr : r c = .ok c1) (hw : c1.who = c.who) (hf : c1.frag = c.frag) (hl : c1.lau = c.lau)
    (hg : c1.grp = c.grp) (hfs : c1.gang.frags = c.gang.frags) (hq : c1.gang.quads = c.gang.quads) :
    exec i s = .next (s.put (c1.retire len)) ∧ Effect s (s.put (c1.retire len)) c (c1.retire len).stored ∧
      Retired c (c1.retire len).stored (c.nextPc len) := by
  refine ⟨he.trans (State.run_ok h len r hr), ?_, Ctx.retired hq hf len⟩
  apply State.effect_put h
  · rw [Ctx.retire_who, hw]
  · rw [Ctx.retire_frag_id, hf]
  · rw [Ctx.retire_lau, hl]
  · rw [Ctx.retire_grp, hg]
  · rw [Ctx.retire_gang, Gang.tick_frags, hfs]

@[simp] theorem Ctx.done_rdV (c : Ctx) (n r l : Nat) : (c.retire n).stored.gang.rdV r l = c.gang.rdV r l := by
  simp [Gang.rdV]
@[simp] theorem Ctx.done_rdG (c : Ctx) (n r : Nat) : (c.retire n).stored.gang.rdG r = c.gang.rdG r := by
  simp [Gang.rdG]
@[simp] theorem Ctx.done_pred (c : Ctx) (n p l : Nat) : (c.retire n).stored.gang.pred p l = c.gang.pred p l := by
  simp [Gang.pred]
@[simp] theorem Ctx.done_qpred (c : Ctx) (n q : Nat) : (c.retire n).stored.gang.qpred q = c.gang.qpred q := by
  simp [Gang.qpred]
theorem Ctx.done_sameBut {g0 : Gang} {c : Ctx} (n : Nat) (h : g0.SameBut c.gang) : g0.SameBut (c.retire n).stored.gang := by
  apply Ctx.stored_sameBut
  rw [Ctx.retire_gang]
  exact Gang.tick_sameBut _ h

end Sys2Proof.Machine
end

