-- ==== Sys2Proof/Laws/Hash.lean ====
section
/-!
SUPPORT. Lengths of hashes, and that every message has a signature that verifies: chains compose, so that the root does
not depend on the message.
-/

namespace Sys2Proof.Machine

theorem length_toLE (n x : Nat) : (toLE n x).length = n := by
  induction n generalizing x with
  | zero => rfl
  | succ k ih => rw [toLE, List.length_cons, ih]

theorem length_toBE (n x : Nat) : (toBE n x).length = n := by rw [toBE, List.length_reverse, length_toLE]

theorem length_keccakRound (st : List Reg) (rc : Nat) : (keccakRound st rc).length = 25 := by
  unfold keccakRound
  dsimp only
  rw [length_listSet, List.length_map, List.length_range]

theorem length_keccakF (st : List Reg) : (keccakF st).length = 25 := by
  have h : ∀ (rs : List Nat) (x : List Reg), x.length = 25 → (rs.foldl keccakRound x).length = 25 := by
    intro rs
    induction rs with
    | nil => exact fun x hx => hx
    | cons r t ih => exact fun x _ => ih _ (length_keccakRound x r)
  unfold keccakF keccakRc
  rw [List.cons_append, List.foldl_cons]
  exact h _ _ (length_keccakRound st _)

theorem length_absorb (n : Nat) (st : List Reg) (m : List Byte) (h : st.length = 25) : (absorb n st m).length = 25 := by
  induction n generalizing st m with
  | zero => exact h
  | succ k ih =>
    unfold absorb
    split
    · exact h
    · exact ih _ _ (length_keccakF _)

theorem length_shake256 (m : List Byte) : (shake256 m).length = 32 := by
  unfold shake256
  dsimp only
  have h := length_absorb ((m ++ shakePad m.length).length / 136) (List.replicate 25 0) (m ++ shakePad m.length) (List.length_replicate ..)
  generalize absorb _ _ _ = st at h
  match st, h with
  | a :: b :: c :: d :: t, _ => simp [List.flatMap_cons, length_toLE]

theorem length_xmssHash (k : Nat) (key m : List Byte) : (xmssHash k key m).length = 32 := length_shake256 _

theorem length_wotsChain (seed : List Byte) (leaf c n i : Nat) (x : List Byte) (h : x.length = 32) :
    (wotsChain seed leaf c n i x).length = 32 := by
  induction n generalizing i x with
  | zero => exact h
  | succ k ih => exact ih _ _ (length_xmssHash ..)

/-- A chain goes on where it stopped. -/
theorem wotsChain_add (seed : List Byte) (leaf c a b i : Nat) (x : List Byte) :
    wotsChain seed leaf c b (i + a) (wotsChain seed leaf c a i x) = wotsChain seed leaf c (a + b) i x := by
  induction a generalizing i x with
  | zero => rw [Nat.zero_add]; rfl
  | succ k ih => rw [Nat.add_right_comm, wotsChain, wotsChain, ← ih, show i + (k + 1) = i + 1 + k from by omega]

theorem length_authRoot (seed : List Byte) (h idx : Nat) (x : List Byte) (as : List (List Byte)) (hx : x.length = 32) :
    (authRoot seed h idx x as).length = 32 := by
  induction as generalizing h idx x with
  | nil => exact hx
  | cons a t ih =>
    unfold authRoot
    apply ih
    split <;> exact length_xmssHash ..

theorem length_authRoot_cons (seed : List Byte) (h idx : Nat) (x a : List Byte) (t : List (List Byte)) :
    (authRoot seed h idx x (a :: t)).length = 32 := by
  unfold authRoot
  apply length_authRoot
  split <;> exact length_xmssHash ..

theorem digits16_le (bs : List Byte) : ∀ d ∈ digits16 bs, d ≤ 15 := by
  intro d hd
  unfold digits16 at hd
  rw [List.mem_flatMap] at hd
  obtain ⟨b, -, hb⟩ := hd
  have := b.isLt
  simp only [List.mem_cons, List.not_mem_nil, or_false] at hb
  omega

theorem length_digits16 (bs : List Byte) : (digits16 bs).length = 2 * bs.length := by
  induction bs with
  | nil => rfl
  | cons b t ih => unfold digits16 at ih ⊢; rw [List.flatMap_cons, List.length_append, ih, List.length_cons]; simp; omega

theorem wotsDigits_le (m : List Byte) : ∀ d ∈ wotsDigits m, d ≤ 15 := by
  intro d hd
  unfold wotsDigits at hd
  dsimp only at hd
  rcases List.mem_append.1 hd with h | h
  · exact digits16_le _ _ h
  · exact digits16_le _ _ (List.mem_of_mem_take h)

theorem length_wotsDigits (m : List Byte) (h : m.length = 32) : (wotsDigits m).length = 67 := by
  unfold wotsDigits
  dsimp only
  rw [List.length_append, List.length_take, length_digits16, length_digits16, length_toBE, h]
  rfl

theorem splitBytes_flatten (n : Nat) (cs : List (List Byte)) (r : List Byte) (h : ∀ c ∈ cs, c.length = n) :
    splitBytes n cs.length (cs.flatten ++ r) = cs := by
  induction cs with
  | nil => rfl
  | cons c t ih =>
    have hc := h c List.mem_cons_self
    rw [List.length_cons, splitBytes, List.flatten_cons, List.append_assoc, List.take_append_of_le_length (by omega), List.take_of_length_le (by omega),
      List.drop_append_of_le_length (by omega), List.drop_of_length_le (by omega), List.nil_append, ih (fun x hx => h x (List.mem_cons_of_mem _ hx))]

theorem length_flatten_const (n : Nat) (cs : List (List Byte)) (h : ∀ c ∈ cs, c.length = n) : cs.flatten.length = n * cs.length := by
  induction cs with
  | nil => rfl
  | cons c t ih =>
    rw [List.flatten_cons, List.length_append, ih (fun x hx => h x (List.mem_cons_of_mem _ hx)), h c List.mem_cons_self, List.length_cons]
    rw [Nat.mul_add]; omega

/-- Every message has a key and a signature that verify. -/
theorem xmss_signs : ∃ pk : List Byte, pk.length = 68 ∧ ∀ msg, ∃ sig : List Byte, sig.length = 2820 ∧ xmssVerify pk msg sig = true := by
  let z : List Byte := List.replicate 32 0
  have hz : z.length = 32 := List.length_replicate ..
  let auth : List (List Byte) := List.replicate 20 z
  have ha : ∀ c ∈ auth, c.length = 32 := fun c hc => by rw [List.eq_of_mem_replicate hc]; exact hz
  let full : List (List Byte) := (List.range 67).map (fun c => wotsChain z 0 c 15 0 z)
  let root := authRoot z 0 0 (ltree z 0 7 0 full) auth
  have hroot : root.length = 32 := length_authRoot_cons z 0 0 _ z (List.replicate 19 z)
  refine ⟨toBE 4 0x12 ++ root ++ z, by rw [List.length_append, List.length_append, hroot, hz]; rfl, fun msg => ?_⟩
  let dg := xmssHash 2 (z ++ root ++ toBE 32 0) msg
  let ds := wotsDigits dg
  have hds : ds.length = 67 := length_wotsDigits _ (length_xmssHash ..)
  let ots : List (List Byte) := ds.zipIdx.map (fun d => wotsChain z 0 d.2 d.1 0 z)
  have ho : ∀ c ∈ ots, c.length = 32 := by
    intro c hc
    obtain ⟨d, -, rfl⟩ := List.mem_map.1 hc
    exact length_wotsChain _ _ _ _ _ _ hz
  have hol : ots.length = 67 := by rw [List.length_map, List.length_zipIdx, hds]
  have hfl : ots.flatten.length = 2144 := by rw [length_flatten_const 32 _ ho, hol]
  have hal : auth.flatten.length = 640 := by rw [length_flatten_const 32 _ ha]; rfl
  let sig := toBE 4 0 ++ (z ++ (ots.flatten ++ auth.flatten))
  have hsig : sig.length = 2820 := by
    simp only [sig, List.length_append, length_toBE, hz, hfl, hal]
  refine ⟨sig, hsig, ?_⟩
  have e1 : (toBE 4 0x12 ++ root ++ z).take 4 = toBE 4 0x12 := by
    rw [List.append_assoc]; exact List.take_left' rfl
  have e2 : ((toBE 4 0x12 ++ root ++ z).drop 4).take 32 = root := by
    rw [List.append_assoc, List.drop_left' (show (toBE 4 0x12).length = 4 from rfl)]; exact List.take_left' hroot
  have e3 : ((toBE 4 0x12 ++ root ++ z).drop 36).take 32 = z := by
    rw [List.drop_left' (show (toBE 4 0x12 ++ root).length = 36 by rw [List.length_append, hroot]; rfl)]; exact List.take_of_length_le (by omega)
  have e4 : sig.take 4 = toBE 4 0 := List.take_left' rfl
  have e5 : (sig.drop 4).take 32 = z := by
    rw [List.drop_left' (show (toBE 4 0).length = 4 from rfl)]; exact List.take_left' hz
  have e6 : sig.drop 36 = ots.flatten ++ auth.flatten := by
    have : sig = (toBE 4 0 ++ z) ++ (ots.flatten ++ auth.flatten) := by simp only [sig, List.append_assoc]
    rw [this]; exact List.drop_left' (by rw [List.length_append, hz]; rfl)
  have e7 : sig.drop (36 + 67 * 32) = auth.flatten := by
    rw [← List.drop_drop, e6]; exact List.drop_left' hfl
  have e8 : splitBytes 32 67 (ots.flatten ++ auth.flatten) = ots := by
    have := splitBytes_flatten 32 ots auth.flatten ho; rwa [hol] at this
  have e9 : splitBytes 32 20 auth.flatten = auth := by
    have := splitBytes_flatten 32 auth [] ha; rwa [List.append_nil] at this
  have e10 : ((ds.zip ots).zipIdx).map (fun x => wotsChain z 0 x.2 (15 - x.1.1) x.1.1 x.1.2) = full := by
    apply List.ext_getElem
    · rw [List.length_map, List.length_zipIdx, List.length_zip, hds, hol, List.length_map, List.length_range]; rfl
    · intro i h1 h2
      have hi : i < 67 := by rw [List.length_map, List.length_range] at h2; exact h2
      simp only [List.getElem_map, List.getElem_zipIdx, List.getElem_zip, Nat.zero_add, full, List.getElem_range, ots]
      have hd : ds[i] ≤ 15 := wotsDigits_le dg _ (List.getElem_mem _)
      have := wotsChain_add z 0 i ds[i] (15 - ds[i]) 0 z
      rw [Nat.zero_add, show ds[i] + (15 - ds[i]) = 15 from by omega] at this
      exact this
  unfold xmssVerify
  dsimp only
  rw [e2, e3, e4, e5, e6, e7]
  have e0 : beNat (toBE 4 0) = 0 := by decide
  rw [e0, e8, e9]
  change (_ && _ && _ && _ && _ ) = true
  rw [show (((wotsDigits (xmssHash 2 (z ++ root ++ toBE 32 0) msg)).zip ots).zipIdx).map (fun x => wotsChain z 0 x.2 (15 - x.1.1) x.1.1 x.1.2) = full from e10]
  have e11 : (toBE 4 0x12 ++ root ++ z).length = xmssKeyLen := by rw [List.length_append, List.length_append, hroot, hz]; rfl
  have e12 : sig.length = xmssSigLen := hsig
  rw [e11, e12, e1]
  simp only [Bool.and_eq_true, beq_iff_eq, decide_eq_true_eq]
  exact ⟨⟨⟨⟨trivial, trivial⟩, by decide⟩, by decide⟩, rfl⟩

end Sys2Proof.Machine
end

