-- ==== Sys2Proof/Laws/Lane.lean ====
section
/-!
SUPPORT. What the writes of lane registers, pairs, predicates and flags over a list of lanes do.
-/

namespace Sys2Proof.Machine

theorem Gang.masked_lt {g : Gang} {l : Nat} (h : g.masked l = true) : l < 64 := by
  unfold Gang.masked at h
  rcases Nat.lt_or_ge l 64 with hl | hl
  · exact hl
  · have : g.quads[l / 4]? = none := by
      simp only [Vector.getElem?_eq_none_iff]; omega
    simp [this] at h

theorem Ctx.active_lt {c : Ctx} {g : BitVec 3} {l : Nat} (h : l ∈ c.active g) : l < 64 := by
  unfold Ctx.active at h
  simp only [List.mem_filter, Bool.and_eq_true] at h
  exact Gang.masked_lt h.2.1

/-- One lane register after a write. -/
theorem Gang.rdV_wrV (g : Gang) (d a : Nat) (x : Word) (r l : Nat) (ha : a < 64) (hl : l < 64) :
    (g.wrV d a x).rdV r l = if r = d ∧ l = a then x else g.rdV r l := by
  unfold Gang.wrV Gang.rdV
  simp only [SMap.get_put]
  by_cases h : r = d ∧ l = a
  · obtain ⟨rfl, rfl⟩ := h; simp
  · rw [if_neg h, if_neg (by intro hk; apply h; constructor <;> omega)]

/-- The lane registers after writes over a list of lanes. -/
theorem Gang.rdV_fold (f : Nat → Word) (d : Nat) (ls : List Nat) (g : Gang) (r l : Nat) (hls : ∀ x ∈ ls, x < 64) (hl : l < 64) :
    ((ls.map (fun l => (l, f l))).foldl (fun g x => g.wrV d x.1 x.2) g).rdV r l =
      if r = d ∧ l ∈ ls then f l else g.rdV r l := by
  induction ls generalizing g with
  | nil => simp
  | cons a t ih =>
    simp only [List.map_cons, List.foldl_cons]
    rw [ih _ (fun x hx => hls x (List.mem_cons_of_mem _ hx)), Gang.rdV_wrV g d a (f a) r l (hls a (List.mem_cons_self ..)) hl]
    by_cases h1 : r = d <;> by_cases h2 : l ∈ t <;> by_cases h3 : l = a <;> simp [h1, h2, h3]

/-- Writing lane registers leaves everything else of a gang. -/
theorem Gang.rest_fold (d : Nat) (xs : List (Nat × Word)) (g : Gang) :
    xs.foldl (fun g x => g.wrV d x.1 x.2) g = { g with v := (xs.foldl (fun g x => g.wrV d x.1 x.2) g).v } := by
  induction xs generalizing g with
  | nil => rfl
  | cons a t ih => rw [List.foldl_cons, ih]; simp [Gang.wrV]

theorem Gang.rest_fold2 (d : Nat) (xs : List (Nat × Reg)) (g : Gang) :
    xs.foldl (fun g x => g.wrV2 d x.1 x.2) g = { g with v := (xs.foldl (fun g x => g.wrV2 d x.1 x.2) g).v } := by
  induction xs generalizing g with
  | nil => rfl
  | cons a t ih => rw [List.foldl_cons, ih]; simp [Gang.wrV, Gang.wrV2]

theorem Gang.setPred_rest (g : Gang) (d l : Nat) (b : Bool) : g.setPred d l b = { g with p := (g.setPred d l b).p } := by
  unfold Gang.setPred; split <;> rfl

theorem Gang.rest_foldP (d : Nat) (xs : List (Nat × Bool)) (g : Gang) :
    xs.foldl (fun g x => g.setPred d x.1 x.2) g = { g with p := (xs.foldl (fun g x => g.setPred d x.1 x.2) g).p } := by
  induction xs generalizing g with
  | nil => rfl
  | cons a t ih => rw [List.foldl_cons, ih, Gang.setPred_rest]

theorem Ctx.each_eq (c : Ctx) (ls : List Nat) (d : Nat) (f : Nat → Word) :
    c.each ls d f = { c with gang := { c.gang with v := (c.each ls d f).gang.v } } := by
  unfold Ctx.each
  rw [← Gang.rest_fold]

theorem Ctx.each2_eq (c : Ctx) (ls : List Nat) (d : Nat) (f : Nat → Reg) :
    c.each2 ls d f = { c with gang := { c.gang with v := (c.each2 ls d f).gang.v } } := by
  unfold Ctx.each2
  rw [← Gang.rest_fold2]

theorem Ctx.eachP_eq (c : Ctx) (ls : List Nat) (d : Nat) (f : Nat → Bool) :
    c.eachP ls d f = { c with gang := { c.gang with p := (c.eachP ls d f).gang.p } } := by
  unfold Ctx.eachP
  rw [← Gang.rest_foldP]

theorem Ctx.rdV_each (c : Ctx) (g : BitVec 3) (d : Nat) (f : Nat → Word) (r l : Nat) (hl : l < 64) :
    (c.each (c.active g) d f).gang.rdV r l = if r = d ∧ l ∈ c.active g then f l else c.gang.rdV r l :=
  Gang.rdV_fold f d _ c.gang r l (fun _ h => Ctx.active_lt h) hl

/-- One lane register after a write of a pair. -/
theorem Gang.rdV_wrV2 (g : Gang) (d a : Nat) (x : Reg) (r l : Nat) (ha : a < 64) (hl : l < 64) :
    (g.wrV2 d a x).rdV r l =
      if l = a ∧ r = d then x.setWidth 32 else if l = a ∧ r = d + 1 then BitVec.ofNat 32 (x.toNat / 2 ^ 32) else g.rdV r l := by
  unfold Gang.wrV2
  rw [Gang.rdV_wrV _ _ _ _ _ _ ha hl, Gang.rdV_wrV _ _ _ _ _ _ ha hl]
  by_cases h1 : l = a <;> by_cases h2 : r = d <;> simp [h1, h2]

theorem Ctx.rdV_each2 (c : Ctx) (g : BitVec 3) (d : Nat) (f : Nat → Reg) (r l : Nat) (hl : l < 64) :
    (c.each2 (c.active g) d f).gang.rdV r l =
      if l ∈ c.active g ∧ r = d then (f l).setWidth 32
      else if l ∈ c.active g ∧ r = d + 1 then BitVec.ofNat 32 ((f l).toNat / 2 ^ 32)
      else c.gang.rdV r l := by
  have key : ∀ (ls : List Nat) (g : Gang), (∀ x ∈ ls, x < 64) →
      ((ls.map (fun l => (l, f l))).foldl (fun g x => g.wrV2 d x.1 x.2) g).rdV r l =
        if l ∈ ls ∧ r = d then (f l).setWidth 32
        else if l ∈ ls ∧ r = d + 1 then BitVec.ofNat 32 ((f l).toNat / 2 ^ 32) else g.rdV r l := by
    intro ls
    induction ls with
    | nil => intro g _; simp
    | cons a t ih =>
      intro g hls
      simp only [List.map_cons, List.foldl_cons]
      rw [ih _ (fun x hx => hls x (List.mem_cons_of_mem _ hx)), Gang.rdV_wrV2 g d a (f a) r l (hls a (List.mem_cons_self ..)) hl]
      by_cases h1 : r = d <;> by_cases h2 : l ∈ t <;> by_cases h3 : l = a <;> by_cases h4 : r = d + 1 <;> simp [h1, h2, h3, h4]
  exact key _ _ (fun _ h => Ctx.active_lt h)

theorem laneBit_getLsbD {a l : Nat} (ha : a < 64) : (BitVec.ofNat 64 (2 ^ a)).getLsbD l = decide (l = a) := by
  rw [BitVec.getLsbD_ofNat, Nat.testBit_two_pow]
  by_cases h : a = l
  · subst h; simp [ha]
  · simp [h, Ne.symm h]

/-- One lane predicate after a write. -/
theorem Gang.pred_setPred (g : Gang) (d a : Nat) (b : Bool) (p l : Nat) (hp : p < 8) (ha : a < 64) (hl : l < 64) :
    (g.setPred d a b).pred p l = if p = d ∧ d ≠ 7 ∧ l = a then b else g.pred p l := by
  unfold Gang.setPred
  by_cases h7 : d = 7
  · simp [h7]
  · simp only [h7, if_false]
    unfold Gang.pred
    by_cases hp7 : p = 7
    · subst hp7; simp [Ne.symm h7]
    · simp only [hp7, if_false]
      by_cases hpd : p = d
      · subst hpd
        have hb := laneBit_getLsbD (l := l) ha
        simp only [Vector.getElem?_setIfInBounds_self, hp, if_true, Option.getD_some, ne_eq, h7, not_false_eq_true, true_and]
        cases b
        · simp only [Bool.false_eq_true, if_false, BitVec.getLsbD_and, BitVec.getLsbD_not, hb, hl, decide_true, Bool.true_and]
          by_cases hla : l = a <;> simp [hla]
        · simp only [if_true, BitVec.getLsbD_or, hb]
          by_cases hla : l = a <;> simp [hla]
      · simp [hpd, Ne.symm hpd]

theorem Ctx.pred_eachP (c : Ctx) (g : BitVec 3) (d : Nat) (f : Nat → Bool) (p l : Nat) (hp : p < 8) (hl : l < 64) :
    (c.eachP (c.active g) d f).gang.pred p l = if p = d ∧ d ≠ 7 ∧ l ∈ c.active g then f l else c.gang.pred p l := by
  have key : ∀ (ls : List Nat) (g : Gang), (∀ x ∈ ls, x < 64) →
      ((ls.map (fun l => (l, f l))).foldl (fun g x => g.setPred d x.1 x.2) g).pred p l =
        if p = d ∧ d ≠ 7 ∧ l ∈ ls then f l else g.pred p l := by
    intro ls
    induction ls with
    | nil => intro g _; simp
    | cons a t ih =>
      intro g hls
      simp only [List.map_cons, List.foldl_cons]
      rw [ih _ (fun x hx => hls x (List.mem_cons_of_mem _ hx)),
        Gang.pred_setPred g d a (f a) p l hp (hls a (List.mem_cons_self ..)) hl]
      by_cases h1 : p = d <;> by_cases h4 : d = 7 <;> by_cases h2 : l ∈ t <;> by_cases h3 : l = a <;> simp_all
  exact key _ _ (fun _ h => Ctx.active_lt h)

theorem Ctx.eachFlags_bit (c : Ctx) (ls : List Nat) (f : Nat → BitVec 4) (k : Nat) :
    (c.eachFlags ls f).getLsbD k = ls.any (fun l => !c.helper l && (f l).getLsbD k) := by
  have key : ∀ (ls : List Nat) (a : BitVec 4),
      (ls.foldl (fun a l => if c.helper l then a else a ||| f l) a).getLsbD k =
        (a.getLsbD k || ls.any (fun l => !c.helper l && (f l).getLsbD k)) := by
    intro ls
    induction ls with
    | nil => intro a; simp
    | cons x t ih =>
      intro a
      simp only [List.foldl_cons, ih, List.any_cons]
      cases c.helper x <;> simp [Bool.or_assoc]
  have := key ls 0
  simpa [Ctx.eachFlags] using this

theorem Ctx.flags_gang (c : Ctx) (f : BitVec 4) : (c.flags f).gang = { c.gang with fsticky := c.gang.fsticky ||| f } := rfl

/-- All that a run does which writes one register in each active lane. -/
theorem State.run_eachF {s : State} {c : Ctx} (h : s.ctx = some c) (i : Instr) (len : Nat) (g : BitVec 3) (d : Nat)
    (r : Ctx → Res) (f : Nat → Word × Flags) (he : exec i s = s.run len r) (hr : r c = .ok (c.eachF (c.active g) d f)) :
    LaneResult i s c len (c.active g) d (fun l => (f l).1) (fun l => (f l).2) := by
  have e : c.eachF (c.active g) d f = { c with gang := { c.gang with
      v := (c.each (c.active g) d (fun l => (f l).1)).gang.v
      fsticky := c.gang.fsticky ||| c.eachFlags (c.active g) (fun l => (f l).2) } } := by
    unfold Ctx.eachF; rw [Ctx.each_eq]; rfl
  rw [e] at hr
  obtain ⟨h1, h2, h3⟩ := State.completes h he hr rfl rfl rfl rfl rfl rfl
  refine ⟨_, _, h1, h2, h3, fun r l hl => by rw [Ctx.done_rdV]; exact Ctx.rdV_each c g d _ r l hl, fun k _ => ?_, Ctx.done_sameBut len rfl, by simp, by simp [Gang.UniformSame]⟩
  simp only [Ctx.stored_gang_fsticky, Ctx.retire_gang, Gang.tick_fsticky, BitVec.getLsbD_or, Ctx.eachFlags_bit]

/-- The same for a pair. -/
theorem State.run_each2F {s : State} {c : Ctx} (h : s.ctx = some c) (i : Instr) (len : Nat) (g : BitVec 3) (d : Nat)
    (r : Ctx → Res) (f : Nat → Reg × Flags) (he : exec i s = s.run len r) (hr : r c = .ok (c.each2F (c.active g) d f)) :
    PairResult i s c len (c.active g) d (fun l => (f l).1) (fun l => (f l).2) := by
  have e : c.each2F (c.active g) d f = { c with gang := { c.gang with
      v := (c.each2 (c.active g) d (fun l => (f l).1)).gang.v
      fsticky := c.gang.fsticky ||| c.eachFlags (c.active g) (fun l => (f l).2) } } := by
    unfold Ctx.each2F; rw [Ctx.each2_eq]; rfl
  rw [e] at hr
  obtain ⟨h1, h2, h3⟩ := State.completes h he hr rfl rfl rfl rfl rfl rfl
  refine ⟨_, _, h1, h2, h3, fun r l hl => by rw [Ctx.done_rdV]; exact Ctx.rdV_each2 c g d _ r l hl, fun k _ => ?_, Ctx.done_sameBut len rfl, by simp, by simp [Gang.UniformSame]⟩
  simp only [Ctx.stored_gang_fsticky, Ctx.retire_gang, Gang.tick_fsticky, BitVec.getLsbD_or, Ctx.eachFlags_bit]

/-- The same for a predicate. -/
theorem State.run_eachPF {s : State} {c : Ctx} (h : s.ctx = some c) (i : Instr) (len : Nat) (g : BitVec 3) (d : Nat)
    (r : Ctx → Res) (f : Nat → Bool × Flags) (he : exec i s = s.run len r) (hr : r c = .ok (c.eachPF (c.active g) d f)) :
    PredResult i s c len (c.active g) d (fun l => (f l).1) (fun l => (f l).2) := by
  have e : c.eachPF (c.active g) d f = { c with gang := { c.gang with
      p := (c.eachP (c.active g) d (fun l => (f l).1)).gang.p
      fsticky := c.gang.fsticky ||| c.eachFlags (c.active g) (fun l => (f l).2) } } := by
    unfold Ctx.eachPF; rw [Ctx.eachP_eq]; rfl
  rw [e] at hr
  obtain ⟨h1, h2, h3⟩ := State.completes h he hr rfl rfl rfl rfl rfl rfl
  refine ⟨_, _, h1, h2, h3, fun p l hp hl => by rw [Ctx.done_pred]; exact Ctx.pred_eachP c g d _ p l hp hl, fun k _ => ?_, Ctx.done_sameBut len rfl, by simp, by simp [Gang.UniformSame]⟩
  simp only [Ctx.stored_gang_fsticky, Ctx.retire_gang, Gang.tick_fsticky, BitVec.getLsbD_or, Ctx.eachFlags_bit]

theorem Ctx.eachFlags_zero (c : Ctx) (ls : List Nat) : c.eachFlags ls (fun _ => 0) = 0 := by
  apply BitVec.eq_of_getLsbD_eq
  intro k hk
  rw [Ctx.eachFlags_bit]; simp

theorem Ctx.flags_zero (c : Ctx) : c.flags 0 = c := by simp [Ctx.flags]

theorem Ctx.each_eq_F (c : Ctx) (ls : List Nat) (d : Nat) (f : Nat → Word) : c.each ls d f = c.eachF ls d (fun l => (f l, 0)) := by
  simp only [Ctx.eachF, Ctx.eachFlags_zero, Ctx.flags_zero]
theorem Ctx.each2_eq_F (c : Ctx) (ls : List Nat) (d : Nat) (f : Nat → Reg) : c.each2 ls d f = c.each2F ls d (fun l => (f l, 0)) := by
  simp only [Ctx.each2F, Ctx.eachFlags_zero, Ctx.flags_zero]
theorem Ctx.eachP_eq_F (c : Ctx) (ls : List Nat) (d : Nat) (f : Nat → Bool) : c.eachP ls d f = c.eachPF ls d (fun l => (f l, 0)) := by
  simp only [Ctx.eachPF, Ctx.eachFlags_zero, Ctx.flags_zero]

/-- All that a run does which writes a uniform register. -/
theorem State.run_wrG {s : State} {c : Ctx} (h : s.ctx = some c) (i : Instr) (len d : Nat) (hd : 96 ≤ d) (r : Ctx → Res) (x : Reg)
    (he : exec i s = s.run len r) (hr : r c = .ok { c with gang := c.gang.wrG d x }) : UniformResult i s c len d x := by
  obtain ⟨h1, h2, h3⟩ := State.completes h he hr rfl rfl rfl rfl rfl rfl
  refine ⟨_, _, h1, h2, h3, ?_, Ctx.done_sameBut len rfl, by simp [Gang.LanesSame, Gang.wrG], by simp [Gang.wrG], by simp [Gang.wrG]⟩
  intro k h1 h2
  rw [Ctx.done_rdG]
  show (c.gang.wrG d x).rdG k = _
  simp only [Gang.rdG, Gang.wrG]
  by_cases hk : k = d
  · subst hk
    have : k - 96 < 32 := by omega
    simp only [if_true, Vector.getElem?_setIfInBounds_self, this, Option.getD_some]
  · rw [if_neg hk, Vector.getElem?_setIfInBounds, if_neg (by omega)]

theorem Gang.setQ_eq (g : Gang) (d : Nat) (b : Bool) : g.setQ d b = { g with q := (g.setQ d b).q } := by
  unfold Gang.setQ; split <;> rfl

theorem Gang.qpred_setQ (g : Gang) (d : Nat) (b : Bool) (k : Nat) (hk : k < 8) :
    (g.setQ d b).qpred k = if k = d ∧ d ≠ 7 then b else g.qpred k := by
  unfold Gang.qpred Gang.setQ
  by_cases h7 : d = 7
  · simp [h7]
  · by_cases hk7 : k = 7
    · subst hk7; simp [Ne.symm h7]
    · simp only [h7, hk7, if_false, Vector.getElem?_setIfInBounds]
      by_cases hkd : k = d
      · subst hkd; simp [hk, hk7]
      · simp [hkd, Ne.symm hkd]

/-- All that a run does which writes a uniform predicate. -/
theorem State.run_setQ {s : State} {c : Ctx} (h : s.ctx = some c) (i : Instr) (len d : Nat) (r : Ctx → Res) (b : Bool)
    (he : exec i s = s.run len r) (hr : r c = .ok { c with gang := c.gang.setQ d b }) : UPredResult i s c len d b := by
  rw [Gang.setQ_eq] at hr
  obtain ⟨h1, h2, h3⟩ := State.completes h he hr rfl rfl rfl rfl rfl rfl
  refine ⟨_, _, h1, h2, h3, fun k hk => ?_, Ctx.done_sameBut len rfl, by simp [Gang.LanesSame], by simp, by simp⟩
  rw [Ctx.done_qpred, ← Gang.qpred_setQ c.gang d b k hk]; rw [← Gang.setQ_eq]

/-- All that a run does which changes nothing. -/
theorem State.run_same {s : State} {c : Ctx} (h : s.ctx = some c) (i : Instr) (len : Nat) (r : Ctx → Res)
    (he : exec i s = s.run len r) (hr : r c = .ok c) : OnlyRetires i s c len := by
  obtain ⟨h1, h2, h3⟩ := State.completes h he hr rfl rfl rfl rfl rfl rfl
  exact ⟨_, _, h1, h2, h3, Ctx.done_sameBut len rfl, by simp [Gang.LanesSame], by simp [Gang.UniformSame], by simp⟩

end Sys2Proof.Machine
end

