-- ==== Sys2Proof/Laws/LaneInt.lean ====
section
/-!
SUPPORT. What the integer runs do for 32-bit elements.
-/

namespace Sys2Proof.Machine

theorem elem_word (x : Word) : elem 32 0 x.toNat = x.toNat := by
  have := x.isLt
  simp only [elem, bits, Nat.mul_zero, Nat.pow_zero, Nat.div_one]
  exact Nat.mod_eq_of_lt this

/-- One element is the whole register. -/
theorem packEls_one (w : Nat) (f : Nat → Nat × Flags) : packEls w f 1 = ((f 0).1 % 2 ^ w, (f 0).2) := by
  simp [packEls]

/-- Two elements. -/
theorem packEls_two (w : Nat) (f : Nat → Nat × Flags) :
    packEls w f 2 = ((f 0).1 % 2 ^ w + (f 1).1 % 2 ^ w * 2 ^ w, (f 0).2 ||| (f 1).2) := by
  simp [packEls]

theorem ofNat_mod_word (x : Nat) : BitVec.ofNat 32 (x % 2 ^ 32) = BitVec.ofNat 32 x := by
  apply BitVec.eq_of_toNat_eq; simp

/-- A one-word integer instruction: its cell on a, b and the old d of each active lane. -/
theorem State.intRun_result {s : State} {c : Ctx} (h : s.ctx = some c) (i : Instr) (o : LR) (sg : Bool) (fn : Cell)
    (he : exec i s = s.intRun o sg fn) :
    let r : Nat → Nat × Flags := fun l =>
      fn { w := 32, signed := sg, a := (c.gang.src32 o.a.toNat l).toNat, b := (c.gang.src32 o.b.toNat l).toNat,
           d := (c.gang.rdV o.d.toNat l).toNat, ball := (c.gang.src32 o.b.toNat l).toNat }
    LaneResult i s c 1 (c.active o.g) o.d.toNat (fun l => BitVec.ofNat 32 (r l).1) (fun l => (r l).2) := by
  intro r
  have e : c.intOp o 32 sg fn = c.eachF (c.active o.g) o.d.toNat (fun l => (BitVec.ofNat 32 (r l).1, (r l).2)) := by
    unfold Ctx.intOp
    simp only [show (32 : Nat) ≠ 64 by decide, if_false, Nat.div_self (show 0 < 32 by decide), packEls_one, elem_word,
      ofNat_mod_word]
    rfl
  exact State.run_eachF h i 1 o.g o.d.toNat _ (fun l => (BitVec.ofNat 32 (r l).1, (r l).2)) he (by simp only [e])

end Sys2Proof.Machine
end

