-- ==== Sys2Proof/Laws/PerInstr.lean ====
section
/-!
SUPPORT. The round trip of every instruction: from the words of its encoding the decoder reads it back, with its length.
One lemma per constructor; a step of a unit has no words.
-/

namespace Sys2Proof.Laws.RoundTrip
open Sys2Proof

set_option Elab.async false

/-- From the words of a well-formed instruction, whatever words follow, the decoder reads the instruction and its length. -/
def Statement (i : Instr) : Prop :=
  i.wf = true → ∀ x y : Word,
    match encode i ++ [x, y] with
    | a :: b :: c :: _ => decodeWords a b c = .ok (i, (encode i).length)
    | _ => encode i = []

/-! ### The fields of each format come back -/

theorem lr_key (k : Nat) (o : LR) (h : k < 256) : (encLR k o).toNat / 2 ^ 24 = k := by
  have := o.g.isLt; have := o.d.isLt; have := o.a.isLt; have := o.b.isLt
  simp only [encLR, BitVec.toNat_ofNat]
  omega

theorem lr_fields (k : Nat) (o : LR) : lrFields (encLR k o) = o := by
  rcases o with ⟨g, d, a, b⟩
  have := g.isLt; have := d.isLt; have := a.isLt; have := b.isLt
  simp only [lrFields, encLR, BitVec.toNat_ofNat, LR.mk.injEq]
  refine ⟨?_, ?_, ?_, ?_⟩ <;> apply BitVec.eq_of_toNat_eq <;> simp only [BitVec.toNat_ofNat] <;> omega

theorem li_key (k : Nat) (o : LI) (h : k < 256) : (encLI k o).toNat / 2 ^ 24 = k := by
  have := o.d.isLt; have := o.a.isLt; have := o.imm.isLt
  simp only [encLI, BitVec.toNat_ofNat]
  omega

theorem li_fields (k : Nat) (o : LI) : liFields (encLI k o) = o := by
  rcases o with ⟨d, a, imm⟩
  have := d.isLt; have := a.isLt; have := imm.isLt
  simp only [liFields, encLI, BitVec.toNat_ofNat, LI.mk.injEq]
  refine ⟨?_, ?_, ?_⟩ <;> apply BitVec.eq_of_toNat_eq <;> simp only [BitVec.toNat_ofNat] <;> omega

theorem ui_key (k : Nat) (o : UI) (h : k < 256) : (encUI k o).toNat / 2 ^ 24 = k := by
  have := o.d.isLt; have := o.imm.isLt
  simp only [encUI, BitVec.toNat_ofNat]
  omega

theorem ui_fields (k : Nat) (o : UI) : uiFields (encUI k o) = o := by
  rcases o with ⟨d, imm⟩
  have := d.isLt; have := imm.isLt
  simp only [uiFields, encUI, BitVec.toNat_ofNat, UI.mk.injEq]
  refine ⟨?_, ?_⟩ <;> apply BitVec.eq_of_toNat_eq <;> simp only [BitVec.toNat_ofNat] <;> omega

theorem ub_key (k : Nat) (o : UB) (h : k < 256) : (encUB k o).toNat / 2 ^ 24 = k := by
  have := o.g.isLt; have := o.disp.isLt
  simp only [encUB, BitVec.toNat_ofNat]
  omega

theorem ub_fields (k : Nat) (o : UB) : ubFields (encUB k o) = o := by
  rcases o with ⟨g, disp⟩
  have := g.isLt; have := disp.isLt
  simp only [ubFields, encUB, BitVec.toNat_ofNat, UB.mk.injEq]
  refine ⟨?_, ?_⟩ <;> apply BitVec.eq_of_toNat_eq <;> simp only [BitVec.toNat_ofNat] <;> omega

/-- The first word of U-L. -/
def ulWord (k : Nat) (o : UL) : Word := BitVec.ofNat 32 (k * 2 ^ 24 + o.g.toNat * 2 ^ 21 + o.rsvd.toNat)

theorem ul_key (k : Nat) (o : UL) (h : k < 256) : (ulWord k o).toNat / 2 ^ 24 = k := by
  have := o.g.isLt; have := o.rsvd.isLt
  simp only [ulWord, BitVec.toNat_ofNat]
  omega

theorem ul_fields (k : Nat) (o : UL) :
    ulFields (ulWord k o) (BitVec.ofNat 32 o.d64.toNat) (BitVec.ofNat 32 (o.d64.toNat / 2 ^ 32)) = o := by
  rcases o with ⟨g, rsvd, d64⟩
  have := g.isLt; have := rsvd.isLt; have := d64.isLt
  simp only [ulFields, ulWord, BitVec.toNat_ofNat, UL.mk.injEq]
  refine ⟨?_, ?_, ?_⟩ <;> apply BitVec.eq_of_toNat_eq <;> simp only [BitVec.toNat_ofNat] <;> omega

theorem xa_fields (o : XA) : xaFields (encXA o) = o := by
  rcases o with ⟨c, slot, rnd, sat, sub, ty, imm⟩
  have := c.isLt; have := slot.isLt; have := rnd.isLt; have := sat.isLt; have := sub.isLt; have := ty.isLt; have := imm.isLt
  simp only [xaFields, encXA, BitVec.toNat_ofNat, XA.mk.injEq]
  refine ⟨?_, ?_, ?_, ?_, ?_, ?_, ?_⟩ <;> apply BitVec.eq_of_toNat_eq <;> simp only [BitVec.toNat_ofNat] <;> omega

theorem xm_fields (o : XM) : xmFields (encXM o) = o := by
  rcases o with ⟨c, subf, ord, ty, mode, addr⟩
  have := c.isLt; have := subf.isLt; have := ord.isLt; have := ty.isLt; have := mode.isLt; have := addr.isLt
  simp only [xmFields, encXM, BitVec.toNat_ofNat, XM.mk.injEq]
  refine ⟨?_, ?_, ?_, ?_, ?_, ?_⟩ <;> apply BitVec.eq_of_toNat_eq <;> simp only [BitVec.toNat_ofNat] <;> omega

theorem pair_key (o : Pair) : fmtOf ((encPair o).toNat / 2 ^ 24) = some .pair := by
  have h1 := o.hi.isLt; have h2 := o.lo.isLt
  have h : ∃ k, k < 4 ∧ (encPair o).toNat / 2 ^ 24 = 252 + k := by
    refine ⟨o.hi.toNat / 256, by omega, ?_⟩
    simp only [encPair, BitVec.toNat_ofNat]
    omega
  obtain ⟨k, hk, h⟩ := h
  rw [h]
  match k, hk with
  | 0, _ | 1, _ | 2, _ | 3, _ => rfl

theorem pair_fields (o : Pair) : pairFields (encPair o) = o := by
  rcases o with ⟨hi, lo⟩
  have := hi.isLt; have := lo.isLt
  simp only [pairFields, encPair, BitVec.toNat_ofNat, Pair.mk.injEq]
  refine ⟨?_, ?_⟩ <;> apply BitVec.eq_of_toNat_eq <;> simp only [BitVec.toNat_ofNat] <;> omega

/-! ### One lemma per format -/

theorem and_left {a b : Bool} (h : (a && b) = true) : a = true := (Bool.and_eq_true_iff.mp h).1

/-- A well-formed instruction meets its own conditions. -/
theorem extra_of {i : Instr} (h : i.wf = true) : i.extra = true := (Bool.and_eq_true_iff.mp h).2

/-- A step of a unit has no words. -/
theorem unit {i : Instr} (h : encode i = []) : Statement i := fun _ x y => by rw [h]; rfl

theorem raw_lr {w x y : Word} {k : Nat} {o : LR} {i : Instr} (hk : w.toNat / 2 ^ 24 = k) (hf : fmtOf k = some .lr)
    (ho : lrFields w = o) (hi : lrInstr k o = some i) (hw : i.wf = true) : decodeWords w x y = .ok (i, 1) := by
  unfold decodeWords rawInstr
  rw [hk]
  dsimp only
  rw [hf]
  dsimp only [Fmt.words]
  rw [ho, hi]
  exact if_pos hw

theorem raw_li {w x y : Word} {k : Nat} {o : LI} {i : Instr} (hk : w.toNat / 2 ^ 24 = k) (hf : fmtOf k = some .li)
    (ho : liFields w = o) (hi : liInstr k o = some i) (hw : i.wf = true) : decodeWords w x y = .ok (i, 1) := by
  unfold decodeWords rawInstr
  rw [hk]
  dsimp only
  rw [hf]
  dsimp only [Fmt.words]
  rw [ho, hi]
  exact if_pos hw

theorem raw_ui {w x y : Word} {k : Nat} {o : UI} {i : Instr} (hk : w.toNat / 2 ^ 24 = k) (hf : fmtOf k = some .ui)
    (ho : uiFields w = o) (hi : uiInstr k o = some i) (hw : i.wf = true) : decodeWords w x y = .ok (i, 1) := by
  unfold decodeWords rawInstr
  rw [hk]
  dsimp only
  rw [hf]
  dsimp only [Fmt.words]
  rw [ho, hi]
  exact if_pos hw

theorem raw_ub {w x y : Word} {k : Nat} {o : UB} {i : Instr} (hk : w.toNat / 2 ^ 24 = k) (hf : fmtOf k = some .ub)
    (ho : ubFields w = o) (hi : ubInstr k o = some i) (hw : i.wf = true) : decodeWords w x y = .ok (i, 1) := by
  unfold decodeWords rawInstr
  rw [hk]
  dsimp only
  rw [hf]
  dsimp only [Fmt.words]
  rw [ho, hi]
  exact if_pos hw

theorem raw_ul {w x y : Word} {k : Nat} {o : UL} {i : Instr} (hk : w.toNat / 2 ^ 24 = k) (hf : fmtOf k = some .ul)
    (ho : ulFields w x y = o) (hi : ulInstr k o = some i) (hw : i.wf = true) : decodeWords w x y = .ok (i, 3) := by
  unfold decodeWords rawInstr
  rw [hk]
  dsimp only
  rw [hf]
  dsimp only [Fmt.words]
  rw [ho, hi]
  exact if_pos hw

theorem raw_lx {w x y : Word} {k : Nat} {o : LX} {i : Instr} (hk : w.toNat / 2 ^ 24 = k) (hf : fmtOf k = some .lx)
    (ho : ({ w := lrFields w, x := xaFields x } : LX) = o) (hi : lxInstr k o = some i) (hw : i.wf = true) : decodeWords w x y = .ok (i, 2) := by
  unfold decodeWords rawInstr
  rw [hk]
  dsimp only
  rw [hf]
  dsimp only [Fmt.words]
  rw [ho, hi]
  exact if_pos hw

theorem raw_lxi {w x y : Word} {k : Nat} {o : LXI} {i : Instr} (hk : w.toNat / 2 ^ 24 = k) (hf : fmtOf k = some .lxi)
    (ho : ({ w := lrFields w, xi := x } : LXI) = o) (hi : lxiInstr k o = some i) (hw : i.wf = true) : decodeWords w x y = .ok (i, 2) := by
  unfold decodeWords rawInstr
  rw [hk]
  dsimp only
  rw [hf]
  dsimp only [Fmt.words]
  rw [ho, hi]
  exact if_pos hw

theorem raw_lm {w x y : Word} {k : Nat} {o : LM} {i : Instr} (hk : w.toNat / 2 ^ 24 = k) (hf : fmtOf k = some .lm)
    (ho : ({ w := lrFields w, x := xmFields x } : LM) = o) (hi : lmInstr k o = some i) (hw : i.wf = true) : decodeWords w x y = .ok (i, 2) := by
  unfold decodeWords rawInstr
  rw [hk]
  dsimp only
  rw [hf]
  dsimp only [Fmt.words]
  rw [ho, hi]
  exact if_pos hw

theorem lr {k : Nat} {o : LR} {i : Instr} (hk : k < 256) (hf : fmtOf k = some .lr) (he : encode i = [encLR k o])
    (hi : i.wf = true → lrInstr k o = some i) : Statement i := fun hw x y => by
  rw [he]
  exact raw_lr (lr_key k o hk) hf (lr_fields k o) (hi hw) hw

theorem li {k : Nat} {o : LI} {i : Instr} (hk : k < 256) (hf : fmtOf k = some .li) (he : encode i = [encLI k o])
    (hi : liInstr k o = some i) : Statement i := fun hw x y => by
  rw [he]
  exact raw_li (li_key k o hk) hf (li_fields k o) hi hw

theorem ui {k : Nat} {o : UI} {i : Instr} (hk : k < 256) (hf : fmtOf k = some .ui) (he : encode i = [encUI k o])
    (hi : uiInstr k o = some i) : Statement i := fun hw x y => by
  rw [he]
  exact raw_ui (ui_key k o hk) hf (ui_fields k o) hi hw

theorem ub {k : Nat} {o : UB} {i : Instr} (hk : k < 256) (hf : fmtOf k = some .ub) (he : encode i = [encUB k o])
    (hi : ubInstr k o = some i) : Statement i := fun hw x y => by
  rw [he]
  exact raw_ub (ub_key k o hk) hf (ub_fields k o) hi hw

theorem ul {k : Nat} {o : UL} {i : Instr} (hk : k < 256) (hf : fmtOf k = some .ul) (he : encode i = encUL k o)
    (hi : ulInstr k o = some i) : Statement i := fun hw x y => by
  rw [he]
  exact raw_ul (ul_key k o hk) hf (ul_fields k o) hi hw

theorem lx {k : Nat} {o : LX} {i : Instr} (hk : k < 256) (hf : fmtOf k = some .lx) (he : encode i = encLX k o)
    (hi : i.wf = true → lxInstr k o = some i) : Statement i := fun hw x y => by
  rw [he]
  exact raw_lx (lr_key k o.w hk) hf (by rw [lr_fields, xa_fields]) (hi hw) hw

theorem lxi {k : Nat} {o : LXI} {i : Instr} (hk : k < 256) (hf : fmtOf k = some .lxi) (he : encode i = encLXI k o)
    (hi : lxiInstr k o = some i) : Statement i := fun hw x y => by
  rw [he]
  exact raw_lxi (lr_key k o.w hk) hf (by rw [lr_fields]) hi hw

theorem lm {k : Nat} {o : LM} {i : Instr} (hk : k < 256) (hf : fmtOf k = some .lm) (he : encode i = encLM k o)
    (hi : i.wf = true → lmInstr k o = some i) : Statement i := fun hw x y => by
  rw [he]
  exact raw_lm (lr_key k o.w hk) hf (by rw [lr_fields, xm_fields]) (hi hw) hw

/-! ### Every constructor -/

theorem dictionaryPair (o : Pair) : Statement (.dictionaryPair o) := fun hw x y => by
  show decodeWords (encPair o) x y = .ok (.dictionaryPair o, 1)
  unfold decodeWords rawInstr
  dsimp only
  rw [pair_key]
  dsimp only [Fmt.words]
  rw [pair_fields]
  exact if_pos hw
theorem iadd (o : LR) : Statement (.iadd o) := lr (by decide) rfl rfl (fun _ => rfl)
theorem isub (o : LR) : Statement (.isub o) := lr (by decide) rfl rfl (fun _ => rfl)
theorem iaddSatI32 (o : LR) : Statement (.iaddSatI32 o) := lr (by decide) rfl rfl (fun _ => rfl)
theorem iaddSatN32 (o : LR) : Statement (.iaddSatN32 o) := lr (by decide) rfl rfl (fun _ => rfl)
theorem isubSatI32 (o : LR) : Statement (.isubSatI32 o) := lr (by decide) rfl rfl (fun _ => rfl)
theorem isubSatN32 (o : LR) : Statement (.isubSatN32 o) := lr (by decide) rfl rfl (fun _ => rfl)
theorem imul (o : LR) : Statement (.imul o) := lr (by decide) rfl rfl (fun _ => rfl)
theorem imulhI32 (o : LR) : Statement (.imulhI32 o) := lr (by decide) rfl rfl (fun _ => rfl)
theorem imulhN32 (o : LR) : Statement (.imulhN32 o) := lr (by decide) rfl rfl (fun _ => rfl)
theorem imac (o : LR) : Statement (.imac o) := lr (by decide) rfl rfl (fun _ => rfl)
theorem iminI32 (o : LR) : Statement (.iminI32 o) := lr (by decide) rfl rfl (fun _ => rfl)
theorem iminN32 (o : LR) : Statement (.iminN32 o) := lr (by decide) rfl rfl (fun _ => rfl)
theorem imaxI32 (o : LR) : Statement (.imaxI32 o) := lr (by decide) rfl rfl (fun _ => rfl)
theorem imaxN32 (o : LR) : Statement (.imaxN32 o) := lr (by decide) rfl rfl (fun _ => rfl)
theorem iabs (o : LR) : Statement (.iabs o) := lr (by decide) rfl rfl (fun _ => rfl)
theorem ineg (o : LR) : Statement (.ineg o) := lr (by decide) rfl rfl (fun _ => rfl)
theorem and (o : LR) : Statement (.and o) := lr (by decide) rfl rfl (fun _ => rfl)
theorem or (o : LR) : Statement (.or o) := lr (by decide) rfl rfl (fun _ => rfl)
theorem xor (o : LR) : Statement (.xor o) := lr (by decide) rfl rfl (fun _ => rfl)
theorem not (o : LR) : Statement (.not o) := lr (by decide) rfl rfl (fun _ => rfl)
theorem shl (o : LR) : Statement (.shl o) := lr (by decide) rfl rfl (fun _ => rfl)
theorem shr (o : LR) : Statement (.shr o) := lr (by decide) rfl rfl (fun _ => rfl)
theorem sar (o : LR) : Statement (.sar o) := lr (by decide) rfl rfl (fun _ => rfl)
theorem rot (o : LR) : Statement (.rot o) := lr (by decide) rfl rfl (fun _ => rfl)
theorem bfeN32 (o : LR) : Statement (.bfeN32 o) := lr (by decide) rfl rfl (fun _ => rfl)
theorem bfeI32 (o : LR) : Statement (.bfeI32 o) := lr (by decide) rfl rfl (fun _ => rfl)
theorem bfi (o : LR) : Statement (.bfi o) := lr (by decide) rfl rfl (fun _ => rfl)
theorem brev (o : LR) : Statement (.brev o) := lr (by decide) rfl rfl (fun _ => rfl)
theorem clz (o : LR) : Statement (.clz o) := lr (by decide) rfl rfl (fun _ => rfl)
theorem ffs (o : LR) : Statement (.ffs o) := lr (by decide) rfl rfl (fun _ => rfl)
theorem popc (o : LR) : Statement (.popc o) := lr (by decide) rfl rfl (fun _ => rfl)
theorem icmp (o : LR) : Statement (.icmp o) := lr (by decide) rfl rfl (fun _ => rfl)
theorem fadd (o : LR) : Statement (.fadd o) := lr (by decide) rfl rfl (fun _ => rfl)
theorem fsub (o : LR) : Statement (.fsub o) := lr (by decide) rfl rfl (fun _ => rfl)
theorem fmul (o : LR) : Statement (.fmul o) := lr (by decide) rfl rfl (fun _ => rfl)
theorem fmac (o : LR) : Statement (.fmac o) := lr (by decide) rfl rfl (fun _ => rfl)
theorem fmin (o : LR) : Statement (.fmin o) := lr (by decide) rfl rfl (fun _ => rfl)
theorem fmax (o : LR) : Statement (.fmax o) := lr (by decide) rfl rfl (fun _ => rfl)
theorem frcp (o : LR) : Statement (.frcp o) := lr (by decide) rfl rfl (fun _ => rfl)
theorem frsq (o : LR) : Statement (.frsq o) := lr (by decide) rfl rfl (fun _ => rfl)
theorem fsqrt (o : LR) : Statement (.fsqrt o) := lr (by decide) rfl rfl (fun _ => rfl)
theorem fexp2 (o : LR) : Statement (.fexp2 o) := lr (by decide) rfl rfl (fun _ => rfl)
theorem flog2 (o : LR) : Statement (.flog2 o) := lr (by decide) rfl rfl (fun _ => rfl)
theorem fcmp (o : LR) : Statement (.fcmp o) := lr (by decide) rfl rfl (fun _ => rfl)
theorem fabs (o : LR) : Statement (.fabs o) := lr (by decide) rfl rfl (fun _ => rfl)
theorem fneg (o : LR) : Statement (.fneg o) := lr (by decide) rfl rfl (fun _ => rfl)
theorem fminNum (o : LR) : Statement (.fminNum o) := lr (by decide) rfl rfl (fun _ => rfl)
theorem fmaxNum (o : LR) : Statement (.fmaxNum o) := lr (by decide) rfl rfl (fun _ => rfl)
theorem faddBf16 (o : LR) : Statement (.faddBf16 o) := lr (by decide) rfl rfl (fun _ => rfl)
theorem fsubBf16 (o : LR) : Statement (.fsubBf16 o) := lr (by decide) rfl rfl (fun _ => rfl)
theorem fmulBf16 (o : LR) : Statement (.fmulBf16 o) := lr (by decide) rfl rfl (fun _ => rfl)
theorem fmacBf16 (o : LR) : Statement (.fmacBf16 o) := lr (by decide) rfl rfl (fun _ => rfl)
theorem fminBf16 (o : LR) : Statement (.fminBf16 o) := lr (by decide) rfl rfl (fun _ => rfl)
theorem fmaxBf16 (o : LR) : Statement (.fmaxBf16 o) := lr (by decide) rfl rfl (fun _ => rfl)
theorem fabsBf16 (o : LR) : Statement (.fabsBf16 o) := lr (by decide) rfl rfl (fun _ => rfl)
theorem fnegBf16 (o : LR) : Statement (.fnegBf16 o) := lr (by decide) rfl rfl (fun _ => rfl)
theorem faddF16 (o : LR) : Statement (.faddF16 o) := lr (by decide) rfl rfl (fun _ => rfl)
theorem fsubF16 (o : LR) : Statement (.fsubF16 o) := lr (by decide) rfl rfl (fun _ => rfl)
theorem fmulF16 (o : LR) : Statement (.fmulF16 o) := lr (by decide) rfl rfl (fun _ => rfl)
theorem fmacF16 (o : LR) : Statement (.fmacF16 o) := lr (by decide) rfl rfl (fun _ => rfl)
theorem fminF16 (o : LR) : Statement (.fminF16 o) := lr (by decide) rfl rfl (fun _ => rfl)
theorem fmaxF16 (o : LR) : Statement (.fmaxF16 o) := lr (by decide) rfl rfl (fun _ => rfl)
theorem fabsF16 (o : LR) : Statement (.fabsF16 o) := lr (by decide) rfl rfl (fun _ => rfl)
theorem fnegF16 (o : LR) : Statement (.fnegF16 o) := lr (by decide) rfl rfl (fun _ => rfl)

theorem cvtF32Fs (o : LX) : Statement (.cvtF32Fs o) := lx (by decide) rfl rfl (fun h => by
    have : o.x.sub = 0 := eq_of_beq (and_left (and_left ((extra_of h))))
    unfold lxInstr
    rw [this]
    rfl)

theorem cvtFsF32 (o : LX) : Statement (.cvtFsF32 o) := lx (by decide) rfl rfl (fun h => by
    have : o.x.sub = 1 := eq_of_beq (and_left (and_left ((extra_of h))))
    unfold lxInstr
    rw [this]
    rfl)

theorem cvtBf16Fs (o : LX) : Statement (.cvtBf16Fs o) := lx (by decide) rfl rfl (fun h => by
    have : o.x.sub = 2 := eq_of_beq (and_left (and_left ((extra_of h))))
    unfold lxInstr
    rw [this]
    rfl)

theorem cvtFsBf16 (o : LX) : Statement (.cvtFsBf16 o) := lx (by decide) rfl rfl (fun h => by
    have : o.x.sub = 3 := eq_of_beq (and_left (and_left ((extra_of h))))
    unfold lxInstr
    rw [this]
    rfl)

theorem cvtF16Fs (o : LX) : Statement (.cvtF16Fs o) := lx (by decide) rfl rfl (fun h => by
    have : o.x.sub = 4 := eq_of_beq (and_left (and_left ((extra_of h))))
    unfold lxInstr
    rw [this]
    rfl)

theorem cvtFsF16 (o : LX) : Statement (.cvtFsF16 o) := lx (by decide) rfl rfl (fun h => by
    have : o.x.sub = 5 := eq_of_beq (and_left (and_left ((extra_of h))))
    unfold lxInstr
    rw [this]
    rfl)

theorem cvtI32Fs (o : LX) : Statement (.cvtI32Fs o) := lx (by decide) rfl rfl (fun h => by
    have : o.x.sub = 6 := eq_of_beq (and_left (and_left ((extra_of h))))
    unfold lxInstr
    rw [this]
    rfl)

theorem cvtFsI32 (o : LX) : Statement (.cvtFsI32 o) := lx (by decide) rfl rfl (fun h => by
    have : o.x.sub = 7 := eq_of_beq (and_left (and_left ((extra_of h))))
    unfold lxInstr
    rw [this]
    rfl)

theorem cvtF32Bf16 (o : LX) : Statement (.cvtF32Bf16 o) := lx (by decide) rfl rfl (fun h => by
    have : o.x.sub = 8 := eq_of_beq (and_left (and_left (and_left (and_left ((extra_of h))))))
    unfold lxInstr
    rw [this]
    rfl)

theorem cvtBf16F32 (o : LX) : Statement (.cvtBf16F32 o) := lx (by decide) rfl rfl (fun h => by
    have : o.x.sub = 9 := eq_of_beq (and_left (and_left (and_left (and_left ((extra_of h))))))
    unfold lxInstr
    rw [this]
    rfl)

theorem cvtF32F16 (o : LX) : Statement (.cvtF32F16 o) := lx (by decide) rfl rfl (fun h => by
    have : o.x.sub = 10 := eq_of_beq (and_left (and_left (and_left (and_left ((extra_of h))))))
    unfold lxInstr
    rw [this]
    rfl)

theorem cvtF16F32 (o : LX) : Statement (.cvtF16F32 o) := lx (by decide) rfl rfl (fun h => by
    have : o.x.sub = 11 := eq_of_beq (and_left (and_left (and_left (and_left ((extra_of h))))))
    unfold lxInstr
    rw [this]
    rfl)

theorem cvtF32I32 (o : LX) : Statement (.cvtF32I32 o) := lx (by decide) rfl rfl (fun h => by
    have : o.x.sub = 12 := eq_of_beq (and_left (and_left (and_left (and_left ((extra_of h))))))
    unfold lxInstr
    rw [this]
    rfl)

theorem cvtI32F32 (o : LX) : Statement (.cvtI32F32 o) := lx (by decide) rfl rfl (fun h => by
    have : o.x.sub = 13 := eq_of_beq (and_left (and_left (and_left (and_left ((extra_of h))))))
    unfold lxInstr
    rw [this]
    rfl)

theorem cvtF32N32 (o : LX) : Statement (.cvtF32N32 o) := lx (by decide) rfl rfl (fun h => by
    have : o.x.sub = 14 := eq_of_beq (and_left (and_left (and_left (and_left ((extra_of h))))))
    unfold lxInstr
    rw [this]
    rfl)

theorem cvtN32F32 (o : LX) : Statement (.cvtN32F32 o) := lx (by decide) rfl rfl (fun h => by
    have : o.x.sub = 15 := eq_of_beq (and_left (and_left (and_left (and_left ((extra_of h))))))
    unfold lxInstr
    rw [this]
    rfl)
theorem qsplit (o : LX) : Statement (.qsplit o) := lx (by decide) rfl rfl (fun _ => rfl)
theorem vcomp (o : LR) : Statement (.vcomp o) := lr (by decide) rfl rfl (fun _ => rfl)
theorem spc48 (o : LR) : Statement (.spc48 o) := lr (by decide) rfl rfl (fun _ => rfl)
theorem bpick (o : LR) : Statement (.bpick o) := lr (by decide) rfl rfl (fun _ => rfl)
theorem frnd (o : LR) : Statement (.frnd o) := lr (by decide) rfl rfl (fun _ => rfl)
theorem packBf16 (o : LR) : Statement (.packBf16 o) := lr (by decide) rfl rfl (fun _ => rfl)
theorem packF16 (o : LR) : Statement (.packF16 o) := lr (by decide) rfl rfl (fun _ => rfl)
theorem unpackBf16 (o : LR) : Statement (.unpackBf16 o) := lr (by decide) rfl rfl (fun _ => rfl)
theorem unpackF16 (o : LR) : Statement (.unpackF16 o) := lr (by decide) rfl rfl (fun _ => rfl)
theorem i2fI32 (o : LR) : Statement (.i2fI32 o) := lr (by decide) rfl rfl (fun _ => rfl)
theorem i2fN32 (o : LR) : Statement (.i2fN32 o) := lr (by decide) rfl rfl (fun _ => rfl)
theorem f2iI32 (o : LR) : Statement (.f2iI32 o) := lr (by decide) rfl rfl (fun _ => rfl)
theorem f2iN32 (o : LR) : Statement (.f2iN32 o) := lr (by decide) rfl rfl (fun _ => rfl)
theorem vexpand (o : LR) : Statement (.vexpand o) := lr (by decide) rfl rfl (fun _ => rfl)

theorem qxchH (o : LX) : Statement (.qxchH o) := lx (by decide) rfl rfl (fun h => by
    have : o.x.sub = 0 := eq_of_beq (and_left (and_left (and_left (and_left (and_left ((extra_of h)))))))
    unfold lxInstr
    rw [this]
    rfl)

theorem qxchV (o : LX) : Statement (.qxchV o) := lx (by decide) rfl rfl (fun h => by
    have : o.x.sub = 1 := eq_of_beq (and_left (and_left (and_left (and_left (and_left ((extra_of h)))))))
    unfold lxInstr
    rw [this]
    rfl)

theorem qxchD (o : LX) : Statement (.qxchD o) := lx (by decide) rfl rfl (fun h => by
    have : o.x.sub = 2 := eq_of_beq (and_left (and_left (and_left (and_left (and_left ((extra_of h)))))))
    unfold lxInstr
    rw [this]
    rfl)

theorem qxchBc (o : LX) : Statement (.qxchBc o) := lx (by decide) rfl rfl (fun h => by
    have : o.x.sub = 3 := eq_of_beq (and_left (and_left (and_left (and_left (and_left ((extra_of h)))))))
    unfold lxInstr
    rw [this]
    rfl)

theorem shflAt (o : LX) : Statement (.shflAt o) := lx (by decide) rfl rfl (fun h => by
    have : o.x.sub = 0 := eq_of_beq (and_left (and_left (and_left (and_left (and_left ((extra_of h)))))))
    unfold lxInstr
    rw [this]
    rfl)

theorem shflRot (o : LX) : Statement (.shflRot o) := lx (by decide) rfl rfl (fun h => by
    have : o.x.sub = 1 := eq_of_beq (and_left (and_left (and_left (and_left (and_left ((extra_of h)))))))
    unfold lxInstr
    rw [this]
    rfl)

theorem shflSpan (o : LX) : Statement (.shflSpan o) := lx (by decide) rfl rfl (fun h => by
    have : o.x.sub = 2 := eq_of_beq (and_left (and_left (and_left (and_left (and_left ((extra_of h)))))))
    unfold lxInstr
    rw [this]
    rfl)

theorem shflFlip (o : LX) : Statement (.shflFlip o) := lx (by decide) rfl rfl (fun h => by
    have : o.x.sub = 3 := eq_of_beq (and_left (and_left (and_left (and_left (and_left ((extra_of h)))))))
    unfold lxInstr
    rw [this]
    rfl)

theorem vreduceAdd (o : LX) : Statement (.vreduceAdd o) := lx (by decide) rfl rfl (fun h => by
    have : o.x.sub = 0 := eq_of_beq (and_left (and_left (and_left (and_left (and_left ((extra_of h)))))))
    unfold lxInstr
    rw [this]
    rfl)

theorem vreduceMin (o : LX) : Statement (.vreduceMin o) := lx (by decide) rfl rfl (fun h => by
    have : o.x.sub = 1 := eq_of_beq (and_left (and_left (and_left (and_left (and_left ((extra_of h)))))))
    unfold lxInstr
    rw [this]
    rfl)

theorem vreduceMax (o : LX) : Statement (.vreduceMax o) := lx (by decide) rfl rfl (fun h => by
    have : o.x.sub = 2 := eq_of_beq (and_left (and_left (and_left (and_left (and_left ((extra_of h)))))))
    unfold lxInstr
    rw [this]
    rfl)

theorem vreduceAnd (o : LX) : Statement (.vreduceAnd o) := lx (by decide) rfl rfl (fun h => by
    have : o.x.sub = 3 := eq_of_beq (and_left (and_left (and_left (and_left (and_left ((extra_of h)))))))
    unfold lxInstr
    rw [this]
    rfl)

theorem vreduceOr (o : LX) : Statement (.vreduceOr o) := lx (by decide) rfl rfl (fun h => by
    have : o.x.sub = 4 := eq_of_beq (and_left (and_left (and_left (and_left (and_left ((extra_of h)))))))
    unfold lxInstr
    rw [this]
    rfl)

theorem vreduceXor (o : LX) : Statement (.vreduceXor o) := lx (by decide) rfl rfl (fun h => by
    have : o.x.sub = 5 := eq_of_beq (and_left (and_left (and_left (and_left (and_left ((extra_of h)))))))
    unfold lxInstr
    rw [this]
    rfl)

theorem vreduceFadd (o : LX) : Statement (.vreduceFadd o) := lx (by decide) rfl rfl (fun h => by
    have : o.x.sub = 6 := eq_of_beq (and_left (and_left (and_left (and_left (and_left ((extra_of h)))))))
    unfold lxInstr
    rw [this]
    rfl)

theorem vreduceFmin (o : LX) : Statement (.vreduceFmin o) := lx (by decide) rfl rfl (fun h => by
    have : o.x.sub = 7 := eq_of_beq (and_left (and_left (and_left (and_left (and_left ((extra_of h)))))))
    unfold lxInstr
    rw [this]
    rfl)

theorem vreduceFmax (o : LX) : Statement (.vreduceFmax o) := lx (by decide) rfl rfl (fun h => by
    have : o.x.sub = 8 := eq_of_beq (and_left (and_left (and_left (and_left (and_left ((extra_of h)))))))
    unfold lxInstr
    rw [this]
    rfl)

theorem vscanAdd (o : LX) : Statement (.vscanAdd o) := lx (by decide) rfl rfl (fun h => by
    have : o.x.sub = 0 := eq_of_beq (and_left (and_left (and_left (and_left (and_left ((extra_of h)))))))
    unfold lxInstr
    rw [this]
    rfl)

theorem vscanMin (o : LX) : Statement (.vscanMin o) := lx (by decide) rfl rfl (fun h => by
    have : o.x.sub = 1 := eq_of_beq (and_left (and_left (and_left (and_left (and_left ((extra_of h)))))))
    unfold lxInstr
    rw [this]
    rfl)

theorem vscanMax (o : LX) : Statement (.vscanMax o) := lx (by decide) rfl rfl (fun h => by
    have : o.x.sub = 2 := eq_of_beq (and_left (and_left (and_left (and_left (and_left ((extra_of h)))))))
    unfold lxInstr
    rw [this]
    rfl)

theorem vscanAnd (o : LX) : Statement (.vscanAnd o) := lx (by decide) rfl rfl (fun h => by
    have : o.x.sub = 3 := eq_of_beq (and_left (and_left (and_left (and_left (and_left ((extra_of h)))))))
    unfold lxInstr
    rw [this]
    rfl)

theorem vscanOr (o : LX) : Statement (.vscanOr o) := lx (by decide) rfl rfl (fun h => by
    have : o.x.sub = 4 := eq_of_beq (and_left (and_left (and_left (and_left (and_left ((extra_of h)))))))
    unfold lxInstr
    rw [this]
    rfl)

theorem vscanXor (o : LX) : Statement (.vscanXor o) := lx (by decide) rfl rfl (fun h => by
    have : o.x.sub = 5 := eq_of_beq (and_left (and_left (and_left (and_left (and_left ((extra_of h)))))))
    unfold lxInstr
    rw [this]
    rfl)

theorem vscanFadd (o : LX) : Statement (.vscanFadd o) := lx (by decide) rfl rfl (fun h => by
    have : o.x.sub = 6 := eq_of_beq (and_left (and_left (and_left (and_left (and_left ((extra_of h)))))))
    unfold lxInstr
    rw [this]
    rfl)

theorem vscanFmin (o : LX) : Statement (.vscanFmin o) := lx (by decide) rfl rfl (fun h => by
    have : o.x.sub = 7 := eq_of_beq (and_left (and_left (and_left (and_left (and_left ((extra_of h)))))))
    unfold lxInstr
    rw [this]
    rfl)

theorem vscanFmax (o : LX) : Statement (.vscanFmax o) := lx (by decide) rfl rfl (fun h => by
    have : o.x.sub = 8 := eq_of_beq (and_left (and_left (and_left (and_left (and_left ((extra_of h)))))))
    unfold lxInstr
    rw [this]
    rfl)

theorem voteSome (o : LX) : Statement (.voteSome o) := lx (by decide) rfl rfl (fun h => by
    have : o.x.sub = 0 := eq_of_beq (and_left (and_left (and_left (and_left ((extra_of h))))))
    unfold lxInstr
    rw [this]
    rfl)

theorem voteEvery (o : LX) : Statement (.voteEvery o) := lx (by decide) rfl rfl (fun h => by
    have : o.x.sub = 1 := eq_of_beq (and_left (and_left (and_left (and_left (and_left ((extra_of h)))))))
    unfold lxInstr
    rw [this]
    rfl)

theorem voteSame (o : LX) : Statement (.voteSame o) := lx (by decide) rfl rfl (fun h => by
    have : o.x.sub = 2 := eq_of_beq (and_left (and_left (and_left (and_left (and_left ((extra_of h)))))))
    unfold lxInstr
    rw [this]
    rfl)
theorem ballot (o : LR) : Statement (.ballot o) := lr (by decide) rfl rfl (fun _ => rfl)
theorem eqmask (o : LR) : Statement (.eqmask o) := lr (by decide) rfl rfl (fun _ => rfl)
theorem sel (o : LX) : Statement (.sel o) := lx (by decide) rfl rfl (fun _ => rfl)
theorem plop (o : LX) : Statement (.plop o) := lx (by decide) rfl rfl (fun _ => rfl)
theorem mov (o : LR) : Statement (.mov o) := lr (by decide) rfl rfl (fun _ => rfl)
theorem movi (o : LI) : Statement (.movi o) := li (by decide) rfl rfl rfl
theorem pget (o : LR) : Statement (.pget o) := lr (by decide) rfl rfl (fun _ => rfl)
theorem pset (o : LR) : Statement (.pset o) := lr (by decide) rfl rfl (fun _ => rfl)
theorem ldN8Lane (o : LM) : Statement (.ldN8Lane o) := lm (by decide) rfl rfl (fun _ => rfl)
theorem ldI8Lane (o : LM) : Statement (.ldI8Lane o) := lm (by decide) rfl rfl (fun _ => rfl)
theorem ldN16Lane (o : LM) : Statement (.ldN16Lane o) := lm (by decide) rfl rfl (fun _ => rfl)
theorem ldI16Lane (o : LM) : Statement (.ldI16Lane o) := lm (by decide) rfl rfl (fun _ => rfl)
theorem ldN32Lane (o : LM) : Statement (.ldN32Lane o) := lm (by decide) rfl rfl (fun _ => rfl)
theorem ldN64Lane (o : LM) : Statement (.ldN64Lane o) := lm (by decide) rfl rfl (fun _ => rfl)
theorem ldN128Lane (o : LM) : Statement (.ldN128Lane o) := lm (by decide) rfl rfl (fun _ => rfl)
theorem stN8Lane (o : LM) : Statement (.stN8Lane o) := lm (by decide) rfl rfl (fun _ => rfl)
theorem stN16Lane (o : LM) : Statement (.stN16Lane o) := lm (by decide) rfl rfl (fun _ => rfl)
theorem stN32Lane (o : LM) : Statement (.stN32Lane o) := lm (by decide) rfl rfl (fun _ => rfl)
theorem stN64Lane (o : LM) : Statement (.stN64Lane o) := lm (by decide) rfl rfl (fun _ => rfl)
theorem stN128Lane (o : LM) : Statement (.stN128Lane o) := lm (by decide) rfl rfl (fun _ => rfl)

theorem atomAddLane (o : LM) : Statement (.atomAddLane o) := lm (by decide) rfl rfl (fun h => by
    have : o.x.subf = 0 := eq_of_beq (and_left (and_left ((extra_of h))))
    unfold lmInstr
    rw [this]
    rfl)

theorem atomFaddLane (o : LM) : Statement (.atomFaddLane o) := lm (by decide) rfl rfl (fun h => by
    have : o.x.subf = 1 := eq_of_beq (and_left (and_left ((extra_of h))))
    unfold lmInstr
    rw [this]
    rfl)

theorem atomMinLane (o : LM) : Statement (.atomMinLane o) := lm (by decide) rfl rfl (fun h => by
    have : o.x.subf = 2 := eq_of_beq (and_left (and_left ((extra_of h))))
    unfold lmInstr
    rw [this]
    rfl)

theorem atomMaxLane (o : LM) : Statement (.atomMaxLane o) := lm (by decide) rfl rfl (fun h => by
    have : o.x.subf = 3 := eq_of_beq (and_left (and_left ((extra_of h))))
    unfold lmInstr
    rw [this]
    rfl)

theorem atomAndLane (o : LM) : Statement (.atomAndLane o) := lm (by decide) rfl rfl (fun h => by
    have : o.x.subf = 4 := eq_of_beq (and_left (and_left ((extra_of h))))
    unfold lmInstr
    rw [this]
    rfl)

theorem atomOrLane (o : LM) : Statement (.atomOrLane o) := lm (by decide) rfl rfl (fun h => by
    have : o.x.subf = 5 := eq_of_beq (and_left (and_left ((extra_of h))))
    unfold lmInstr
    rw [this]
    rfl)

theorem atomXorLane (o : LM) : Statement (.atomXorLane o) := lm (by decide) rfl rfl (fun h => by
    have : o.x.subf = 6 := eq_of_beq (and_left (and_left ((extra_of h))))
    unfold lmInstr
    rw [this]
    rfl)

theorem atomXchgLane (o : LM) : Statement (.atomXchgLane o) := lm (by decide) rfl rfl (fun h => by
    have : o.x.subf = 7 := eq_of_beq (and_left (and_left ((extra_of h))))
    unfold lmInstr
    rw [this]
    rfl)

theorem atomCasLane (o : LM) : Statement (.atomCasLane o) := lm (by decide) rfl rfl (fun h => by
    have : o.x.subf = 8 := eq_of_beq (and_left (and_left ((extra_of h))))
    unfold lmInstr
    rw [this]
    rfl)
theorem pref (o : LM) : Statement (.pref o) := lm (by decide) rfl rfl (fun _ => rfl)
theorem wide (o : LX) : Statement (.wide o) := lx (by decide) rfl rfl (fun _ => rfl)
theorem movw (o : LXI) : Statement (.movw o) := lxi (by decide) rfl rfl rfl
theorem ffma (o : LX) : Statement (.ffma o) := lx (by decide) rfl rfl (fun _ => rfl)
theorem imad (o : LX) : Statement (.imad o) := lx (by decide) rfl rfl (fun _ => rfl)
theorem isum3 (o : LX) : Statement (.isum3 o) := lx (by decide) rfl rfl (fun _ => rfl)
theorem bitfn (o : LX) : Statement (.bitfn o) := lx (by decide) rfl rfl (fun _ => rfl)
theorem winxN32 (o : LX) : Statement (.winxN32 o) := lx (by decide) rfl rfl (fun _ => rfl)
theorem winxI32 (o : LX) : Statement (.winxI32 o) := lx (by decide) rfl rfl (fun _ => rfl)
theorem idot4 (o : LX) : Statement (.idot4 o) := lx (by decide) rfl rfl (fun _ => rfl)
theorem fdot2 (o : LX) : Statement (.fdot2 o) := lx (by decide) rfl rfl (fun _ => rfl)
theorem iclamp (o : LX) : Statement (.iclamp o) := lx (by decide) rfl rfl (fun _ => rfl)
theorem fclamp (o : LX) : Statement (.fclamp o) := lx (by decide) rfl rfl (fun _ => rfl)
theorem sad (o : LX) : Statement (.sad o) := lx (by decide) rfl rfl (fun _ => rfl)
theorem fscale (o : LX) : Statement (.fscale o) := lx (by decide) rfl rfl (fun _ => rfl)
theorem imadw (o : LX) : Statement (.imadw o) := lx (by decide) rfl rfl (fun _ => rfl)
theorem uadd (o : LR) : Statement (.uadd o) := lr (by decide) rfl rfl (fun _ => rfl)
theorem usub (o : LR) : Statement (.usub o) := lr (by decide) rfl rfl (fun _ => rfl)
theorem umul (o : LR) : Statement (.umul o) := lr (by decide) rfl rfl (fun _ => rfl)
theorem umulhI64 (o : LR) : Statement (.umulhI64 o) := lr (by decide) rfl rfl (fun _ => rfl)
theorem umulhN64 (o : LR) : Statement (.umulhN64 o) := lr (by decide) rfl rfl (fun _ => rfl)
theorem umac (o : LR) : Statement (.umac o) := lr (by decide) rfl rfl (fun _ => rfl)
theorem uminI64 (o : LR) : Statement (.uminI64 o) := lr (by decide) rfl rfl (fun _ => rfl)
theorem uminN64 (o : LR) : Statement (.uminN64 o) := lr (by decide) rfl rfl (fun _ => rfl)
theorem umaxI64 (o : LR) : Statement (.umaxI64 o) := lr (by decide) rfl rfl (fun _ => rfl)
theorem umaxN64 (o : LR) : Statement (.umaxN64 o) := lr (by decide) rfl rfl (fun _ => rfl)
theorem uand (o : LR) : Statement (.uand o) := lr (by decide) rfl rfl (fun _ => rfl)
theorem uor (o : LR) : Statement (.uor o) := lr (by decide) rfl rfl (fun _ => rfl)
theorem uxor (o : LR) : Statement (.uxor o) := lr (by decide) rfl rfl (fun _ => rfl)
theorem unot (o : LR) : Statement (.unot o) := lr (by decide) rfl rfl (fun _ => rfl)
theorem ushl (o : LR) : Statement (.ushl o) := lr (by decide) rfl rfl (fun _ => rfl)
theorem ushr (o : LR) : Statement (.ushr o) := lr (by decide) rfl rfl (fun _ => rfl)
theorem usar (o : LR) : Statement (.usar o) := lr (by decide) rfl rfl (fun _ => rfl)
theorem uext (o : LR) : Statement (.uext o) := lr (by decide) rfl rfl (fun _ => rfl)
theorem uclz (o : LR) : Statement (.uclz o) := lr (by decide) rfl rfl (fun _ => rfl)
theorem uffs (o : LR) : Statement (.uffs o) := lr (by decide) rfl rfl (fun _ => rfl)
theorem upopc (o : LR) : Statement (.upopc o) := lr (by decide) rfl rfl (fun _ => rfl)
theorem ucmp (o : LR) : Statement (.ucmp o) := lr (by decide) rfl rfl (fun _ => rfl)
theorem usel (o : LR) : Statement (.usel o) := lr (by decide) rfl rfl (fun _ => rfl)
theorem uplop (o : LR) : Statement (.uplop o) := lr (by decide) rfl rfl (fun _ => rfl)
theorem umov (o : LR) : Statement (.umov o) := lr (by decide) rfl rfl (fun _ => rfl)
theorem umovi (o : UI) : Statement (.umovi o) := ui (by decide) rfl rfl rfl
theorem uaddi (o : UI) : Statement (.uaddi o) := ui (by decide) rfl rfl rfl
theorem ucat (o : UI) : Statement (.ucat o) := ui (by decide) rfl rfl rfl
theorem udivN64 (o : LR) : Statement (.udivN64 o) := lr (by decide) rfl rfl (fun _ => rfl)
theorem uremN64 (o : LR) : Statement (.uremN64 o) := lr (by decide) rfl rfl (fun _ => rfl)
theorem ldN8Uniform (o : LM) : Statement (.ldN8Uniform o) := lm (by decide) rfl rfl (fun _ => rfl)
theorem ldN16Uniform (o : LM) : Statement (.ldN16Uniform o) := lm (by decide) rfl rfl (fun _ => rfl)
theorem ldN32Uniform (o : LM) : Statement (.ldN32Uniform o) := lm (by decide) rfl rfl (fun _ => rfl)
theorem ldI32Uniform (o : LM) : Statement (.ldI32Uniform o) := lm (by decide) rfl rfl (fun _ => rfl)
theorem ldN64Uniform (o : LM) : Statement (.ldN64Uniform o) := lm (by decide) rfl rfl (fun _ => rfl)
theorem stN8Uniform (o : LM) : Statement (.stN8Uniform o) := lm (by decide) rfl rfl (fun _ => rfl)
theorem stN16Uniform (o : LM) : Statement (.stN16Uniform o) := lm (by decide) rfl rfl (fun _ => rfl)
theorem stN32Uniform (o : LM) : Statement (.stN32Uniform o) := lm (by decide) rfl rfl (fun _ => rfl)
theorem stN64Uniform (o : LM) : Statement (.stN64Uniform o) := lm (by decide) rfl rfl (fun _ => rfl)
theorem ldc (o : LM) : Statement (.ldc o) := lm (by decide) rfl rfl (fun _ => rfl)

theorem atomAddUniform (o : LM) : Statement (.atomAddUniform o) := lm (by decide) rfl rfl (fun h => by
    have : o.x.subf = 0 := eq_of_beq (and_left (and_left ((extra_of h))))
    unfold lmInstr
    rw [this]
    rfl)

theorem atomFaddUniform (o : LM) : Statement (.atomFaddUniform o) := lm (by decide) rfl rfl (fun h => by
    have : o.x.subf = 1 := eq_of_beq (and_left (and_left ((extra_of h))))
    unfold lmInstr
    rw [this]
    rfl)

theorem atomMinUniform (o : LM) : Statement (.atomMinUniform o) := lm (by decide) rfl rfl (fun h => by
    have : o.x.subf = 2 := eq_of_beq (and_left (and_left ((extra_of h))))
    unfold lmInstr
    rw [this]
    rfl)

theorem atomMaxUniform (o : LM) : Statement (.atomMaxUniform o) := lm (by decide) rfl rfl (fun h => by
    have : o.x.subf = 3 := eq_of_beq (and_left (and_left ((extra_of h))))
    unfold lmInstr
    rw [this]
    rfl)

theorem atomAndUniform (o : LM) : Statement (.atomAndUniform o) := lm (by decide) rfl rfl (fun h => by
    have : o.x.subf = 4 := eq_of_beq (and_left (and_left ((extra_of h))))
    unfold lmInstr
    rw [this]
    rfl)

theorem atomOrUniform (o : LM) : Statement (.atomOrUniform o) := lm (by decide) rfl rfl (fun h => by
    have : o.x.subf = 5 := eq_of_beq (and_left (and_left ((extra_of h))))
    unfold lmInstr
    rw [this]
    rfl)

theorem atomXorUniform (o : LM) : Statement (.atomXorUniform o) := lm (by decide) rfl rfl (fun h => by
    have : o.x.subf = 6 := eq_of_beq (and_left (and_left ((extra_of h))))
    unfold lmInstr
    rw [this]
    rfl)

theorem atomXchgUniform (o : LM) : Statement (.atomXchgUniform o) := lm (by decide) rfl rfl (fun h => by
    have : o.x.subf = 7 := eq_of_beq (and_left (and_left ((extra_of h))))
    unfold lmInstr
    rw [this]
    rfl)

theorem atomCasUniform (o : LM) : Statement (.atomCasUniform o) := lm (by decide) rfl rfl (fun h => by
    have : o.x.subf = 8 := eq_of_beq (and_left (and_left ((extra_of h))))
    unfold lmInstr
    rw [this]
    rfl)
theorem waitcmp (o : LM) : Statement (.waitcmp o) := lm (by decide) rfl rfl (fun _ => rfl)
theorem fenceW (o : LR) : Statement (.fenceW o) := lr (by decide) rfl rfl (fun _ => rfl)
theorem fenceL (o : LR) : Statement (.fenceL o) := lr (by decide) rfl rfl (fun _ => rfl)
theorem fenceS (o : LR) : Statement (.fenceS o) := lr (by decide) rfl rfl (fun _ => rfl)
theorem cinv (o : LR) : Statement (.cinv o) := lr (by decide) rfl rfl (fun _ => rfl)
theorem br (o : UB) : Statement (.br o) := ub (by decide) rfl rfl rfl
theorem bra (o : UB) : Statement (.bra o) := ub (by decide) rfl rfl rfl
theorem brl (o : UL) : Statement (.brl o) := ul (by decide) rfl rfl rfl
theorem call (o : UB) : Statement (.call o) := ub (by decide) rfl rfl rfl
theorem calll (o : UL) : Statement (.calll o) := ul (by decide) rfl rfl rfl
theorem callo (o : LR) : Statement (.callo o) := lr (by decide) rfl rfl (fun _ => rfl)
theorem bri (o : LR) : Statement (.bri o) := lr (by decide) rfl rfl (fun _ => rfl)
theorem calli (o : LR) : Statement (.calli o) := lr (by decide) rfl rfl (fun _ => rfl)
theorem ret (o : LR) : Statement (.ret o) := lr (by decide) rfl rfl (fun _ => rfl)
theorem regang (o : LR) : Statement (.regang o) := lr (by decide) rfl rfl (fun _ => rfl)
theorem exit (o : LR) : Statement (.exit o) := lr (by decide) rfl rfl (fun _ => rfl)
theorem hoist (o : LX) : Statement (.hoist o) := lx (by decide) rfl rfl (fun _ => rfl)
theorem hwait (o : LR) : Statement (.hwait o) := lr (by decide) rfl rfl (fun _ => rfl)
theorem evict (o : LR) : Statement (.evict o) := lr (by decide) rfl rfl (fun _ => rfl)
theorem pin (o : LR) : Statement (.pin o) := lr (by decide) rfl rfl (fun _ => rfl)
theorem unpin (o : LR) : Statement (.unpin o) := lr (by decide) rfl rfl (fun _ => rfl)
theorem hset (o : LX) : Statement (.hset o) := lx (by decide) rfl rfl (fun _ => rfl)
theorem hget (o : LR) : Statement (.hget o) := lr (by decide) rfl rfl (fun _ => rfl)
theorem mmLoadb (o : LX) : Statement (.mmLoadb o) := lx (by decide) rfl rfl (fun _ => rfl)
theorem mmPass (o : LX) : Statement (.mmPass o) := lx (by decide) rfl rfl (fun _ => rfl)
theorem mmSpass (o : LX) : Statement (.mmSpass o) := lx (by decide) rfl rfl (fun _ => rfl)
theorem mmStore (o : LX) : Statement (.mmStore o) := lx (by decide) rfl rfl (fun _ => rfl)
theorem mmZero (o : LX) : Statement (.mmZero o) := lx (by decide) rfl rfl (fun _ => rfl)
theorem twLoad (o : LX) : Statement (.twLoad o) := lx (by decide) rfl rfl (fun _ => rfl)
theorem twStore (o : LX) : Statement (.twStore o) := lx (by decide) rfl rfl (fun _ => rfl)
theorem twMcast (o : LX) : Statement (.twMcast o) := lx (by decide) rfl rfl (fun _ => rfl)
theorem twGather (o : LX) : Statement (.twGather o) := lx (by decide) rfl rfl (fun _ => rfl)
theorem twRed (o : LX) : Statement (.twRed o) := lx (by decide) rfl rfl (fun _ => rfl)
theorem twPermit (o : UI) : Statement (.twPermit o) := ui (by decide) rfl rfl rfl
theorem cbatch (o : LR) : Statement (.cbatch o) := lr (by decide) rfl rfl (fun _ => rfl)
theorem cwait (o : LR) : Statement (.cwait o) := lr (by decide) rfl rfl (fun _ => rfl)
theorem barInit (o : LR) : Statement (.barInit o) := lr (by decide) rfl rfl (fun _ => rfl)
theorem barArrive (o : LR) : Statement (.barArrive o) := lr (by decide) rfl rfl (fun _ => rfl)
theorem barWait (o : LR) : Statement (.barWait o) := lr (by decide) rfl rfl (fun _ => rfl)
theorem twait (o : LR) : Statement (.twait o) := lr (by decide) rfl rfl (fun _ => rfl)
theorem tread (o : LR) : Statement (.tread o) := lr (by decide) rfl rfl (fun _ => rfl)
theorem tapEnc (o : LX) : Statement (.tapEnc o) := lx (by decide) rfl rfl (fun _ => rfl)
theorem tapAdapt (o : LX) : Statement (.tapAdapt o) := lx (by decide) rfl rfl (fun _ => rfl)
theorem tapNext (o : LR) : Statement (.tapNext o) := lr (by decide) rfl rfl (fun _ => rfl)
theorem tapRead (o : LR) : Statement (.tapRead o) := lr (by decide) rfl rfl (fun _ => rfl)

theorem tapResumeApply (o : LX) : Statement (.tapResumeApply o) := lx (by decide) rfl rfl (fun h => by
    have : o.x.sub = 0 := eq_of_beq (and_left (and_left (and_left (and_left (and_left ((extra_of h)))))))
    unfold lxInstr
    rw [this]
    rfl)

theorem tapResumeSkip (o : LX) : Statement (.tapResumeSkip o) := lx (by decide) rfl rfl (fun h => by
    have : o.x.sub = 1 := eq_of_beq (and_left (and_left (and_left (and_left (and_left ((extra_of h)))))))
    unfold lxInstr
    rw [this]
    rfl)

theorem tapResumeRewritten (o : LX) : Statement (.tapResumeRewritten o) := lx (by decide) rfl rfl (fun h => by
    have : o.x.sub = 2 := eq_of_beq (and_left (and_left (and_left (and_left (and_left ((extra_of h)))))))
    unfold lxInstr
    rw [this]
    rfl)
theorem gqIns (o : LX) : Statement (.gqIns o) := lx (by decide) rfl rfl (fun _ => rfl)
theorem gqPop (o : LX) : Statement (.gqPop o) := lx (by decide) rfl rfl (fun _ => rfl)
theorem gqAdd (o : LX) : Statement (.gqAdd o) := lx (by decide) rfl rfl (fun _ => rfl)
theorem gqMax (o : LX) : Statement (.gqMax o) := lx (by decide) rfl rfl (fun _ => rfl)
theorem gqDone (o : LX) : Statement (.gqDone o) := lx (by decide) rfl rfl (fun _ => rfl)
theorem kvFork (o : LX) : Statement (.kvFork o) := lx (by decide) rfl rfl (fun _ => rfl)
theorem kvApp (o : LX) : Statement (.kvApp o) := lx (by decide) rfl rfl (fun _ => rfl)

theorem kvDrop (o : LX) : Statement (.kvDrop o) := lx (by decide) rfl rfl (fun h => by
    have : o.x.sub = 0 := eq_of_beq (and_left (and_left (and_left (and_left (and_left ((extra_of h)))))))
    unfold lxInstr
    rw [this]
    rfl)

theorem kvDropFrame (o : LX) : Statement (.kvDropFrame o) := lx (by decide) rfl rfl (fun h => by
    have : o.x.sub = 1 := eq_of_beq (and_left (and_left (and_left (and_left (and_left ((extra_of h)))))))
    unfold lxInstr
    rw [this]
    rfl)
theorem sread (o : LR) : Statement (.sread o) := lr (by decide) rfl rfl (fun _ => rfl)
theorem swrite (o : LR) : Statement (.swrite o) := lr (by decide) rfl rfl (fun _ => rfl)
theorem trap (o : UI) : Statement (.trap o) := ui (by decide) rfl rfl rfl
theorem tret (o : LR) : Statement (.tret o) := lr (by decide) rfl rfl (fun _ => rfl)
theorem elect (o : LR) : Statement (.elect o) := lr (by decide) rfl rfl (fun _ => rfl)
theorem lsel (o : LR) : Statement (.lsel o) := lr (by decide) rfl rfl (fun _ => rfl)
theorem lwr (o : LR) : Statement (.lwr o) := lr (by decide) rfl rfl (fun _ => rfl)
theorem launchTrig (o : LR) : Statement (.launchTrig o) := lr (by decide) rfl rfl (fun _ => rfl)
theorem gridwait (o : LR) : Statement (.gridwait o) := lr (by decide) rfl rfl (fun _ => rfl)

theorem nop (o : LR) : Statement (.nop o) := lr (by decide) rfl rfl (fun h => by
    have : o.b = 0 := eq_of_beq ((extra_of h))
    unfold lrInstr
    rw [this]
    rfl)

theorem sleep (o : LR) : Statement (.sleep o) := lr (by decide) rfl rfl (fun h => by
    have : o.b = 1 := eq_of_beq ((extra_of h))
    unfold lrInstr
    rw [this]
    rfl)

theorem gqRead (o : LR) : Statement (.gqRead o) := lr (by decide) rfl rfl (fun h => by
    have : o.b = 2 := eq_of_beq ((extra_of h))
    unfold lrInstr
    rw [this]
    rfl)

theorem gqResid (o : LR) : Statement (.gqResid o) := lr (by decide) rfl rfl (fun h => by
    have : o.b = 3 := eq_of_beq ((extra_of h))
    unfold lrInstr
    rw [this]
    rfl)

theorem yield (o : LR) : Statement (.yield o) := lr (by decide) rfl rfl (fun h => by
    have : o.b = 4 := eq_of_beq ((extra_of h))
    unfold lrInstr
    rw [this]
    rfl)

theorem bkpt (o : LR) : Statement (.bkpt o) := lr (by decide) rfl rfl (fun h => by
    have : o.b = 5 := eq_of_beq ((extra_of h))
    unfold lrInstr
    rw [this]
    rfl)

theorem mark (o : LR) : Statement (.mark o) := lr (by decide) rfl rfl (fun h => by
    have : o.b = 6 := eq_of_beq ((extra_of h))
    unfold lrInstr
    rw [this]
    rfl)

theorem time (o : LR) : Statement (.time o) := lr (by decide) rfl rfl (fun h => by
    have : o.b = 7 := eq_of_beq ((extra_of h))
    unfold lrInstr
    rw [this]
    rfl)
theorem issueSelect : Statement .issueSelect := unit rfl
theorem fragmentPromotion (f : Who) : Statement (.fragmentPromotion f) := unit rfl
theorem fragmentRefill (core : Nat) : Statement (.fragmentRefill core) := unit rfl
theorem spillWaitExpiry (core : Nat) : Statement (.spillWaitExpiry core) := unit rfl
theorem yieldExpiry (f : Who) : Statement (.yieldExpiry f) := unit rfl
theorem sleepExpiry (f : Who) : Statement (.sleepExpiry f) := unit rfl
theorem wctWaitEnd (f : Who) : Statement (.wctWaitEnd f) := unit rfl
theorem detTurn (f : Who) : Statement (.detTurn f) := unit rfl
theorem detStall (launch : Nat) : Statement (.detStall launch) := unit rfl
theorem pageWalk (i : Nat) : Statement (.pageWalk i) := unit rfl
theorem faultqOverflowRewalk (i : Nat) : Statement (.faultqOverflowRewalk i) := unit rfl
theorem homeSliceWrite (id : Nat) : Statement (.homeSliceWrite id) := unit rfl
theorem writeVisible (id : Nat) : Statement (.writeVisible id) := unit rfl
theorem homeSliceRead (id : Nat) : Statement (.homeSliceRead id) := unit rfl
theorem mxAliasWrite (id : Nat) : Statement (.mxAliasWrite id) := unit rfl
theorem ownershipGrant (id : Nat) : Statement (.ownershipGrant id) := unit rfl
theorem stashWriteback (gid : Nat) (line : Nat) : Statement (.stashWriteback gid line) := unit rfl
theorem leaseRecordDrop (line : Nat) : Statement (.leaseRecordDrop line) := unit rfl
theorem atomicPerform (id : Nat) : Statement (.atomicPerform id) := unit rfl
theorem relAtomicRelease (id : Nat) : Statement (.relAtomicRelease id) := unit rfl
theorem routerMerge (i : Nat) (j : Nat) : Statement (.routerMerge i j) := unit rfl
theorem mergeHoldExpiry (id : Nat) : Statement (.mergeHoldExpiry id) := unit rfl
theorem atomicReturn (id : Nat) : Statement (.atomicReturn id) := unit rfl
theorem monitorFallback (f : Who) : Statement (.monitorFallback f) := unit rfl
theorem hostWriteAck (id : Nat) : Statement (.hostWriteAck id) := unit rfl
theorem hostBar2Access (func : Nat) (va : Nat) (a : HostAccess) (data : List Byte) : Statement (.hostBar2Access func va a data) := unit rfl
theorem engineSlotStart (core : Nat) : Statement (.engineSlotStart core) := unit rfl
theorem engineWalkStart (core : Nat) (i : Nat) : Statement (.engineWalkStart core i) := unit rfl
theorem permitEffect (gid : Nat) : Statement (.permitEffect gid) := unit rfl
theorem ringTileStart (core : Nat) (i : Nat) : Statement (.ringTileStart core i) := unit rfl
theorem engineCommandComplete (core : Nat) (i : Nat) : Statement (.engineCommandComplete core i) := unit rfl
theorem mcastCopyLand (core : Nat) (i : Nat) (target : Nat) : Statement (.mcastCopyLand core i target) := unit rfl
theorem operandFetch (core : Nat) : Statement (.operandFetch core) := unit rfl
theorem matrixGrant (core : Nat) : Statement (.matrixGrant core) := unit rfl
theorem arbiterPromotion (core : Nat) (i : Nat) : Statement (.arbiterPromotion core i) := unit rfl
theorem bankLoad (core : Nat) (i : Nat) : Statement (.bankLoad core i) := unit rfl
theorem bankLoadComplete (core : Nat) (bank : Nat) : Statement (.bankLoadComplete core bank) := unit rfl
theorem passComplete (core : Nat) : Statement (.passComplete core) := unit rfl
theorem mmStoreComplete (id : Nat) : Statement (.mmStoreComplete id) := unit rfl
theorem tapEncodeRow (core : Nat) : Statement (.tapEncodeRow core) := unit rfl
theorem tapCommit (gid : Nat) (i : Nat) : Statement (.tapCommit gid i) := unit rfl
theorem tapAdaptRow (core : Nat) : Statement (.tapAdaptRow core) := unit rfl
theorem hoistLoadComplete (core : Nat) (slot : Nat) : Statement (.hoistLoadComplete core slot) := unit rfl
theorem hoistLoadFault (core : Nat) (slot : Nat) : Statement (.hoistLoadFault core slot) := unit rfl
theorem overlayFree (core : Nat) (slot : Nat) : Statement (.overlayFree core slot) := unit rfl
theorem codeAbsentService (f : Who) : Statement (.codeAbsentService f) := unit rfl
theorem forcedEviction (core : Nat) (slot : Nat) : Statement (.forcedEviction core slot) := unit rfl
theorem dictLoad (core : Nat) (k : Nat) : Statement (.dictLoad core k) := unit rfl
theorem groupClaim (core : Nat) : Statement (.groupClaim core) := unit rfl
theorem groupDrainComplete (gid : Nat) : Statement (.groupDrainComplete gid) := unit rfl
theorem launchComplete (launch : Nat) : Statement (.launchComplete launch) := unit rfl
theorem gqUpdateApply (pool : Nat) (i : Nat) : Statement (.gqUpdateApply pool i) := unit rfl
theorem faultDelivery (f : Who) : Statement (.faultDelivery f) := unit rfl
theorem delegatedFault (f : Who) : Statement (.delegatedFault f) := unit rfl
theorem imageSlotClaim (gid : Nat) : Statement (.imageSlotClaim gid) := unit rfl
theorem groupHalt (gid : Nat) : Statement (.groupHalt gid) := unit rfl
theorem saveComplete (gid : Nat) : Statement (.saveComplete gid) := unit rfl
theorem resumePlace (core : Nat) : Statement (.resumePlace core) := unit rfl
theorem focusEnd (gid : Nat) : Statement (.focusEnd gid) := unit rfl
theorem uncorrectableWriteback (pa : Nat) : Statement (.uncorrectableWriteback pa) := unit rfl
theorem errorRetry (die : Nat) (kind : Nat) (pa : Nat) : Statement (.errorRetry die kind pa) := unit rfl
theorem coreRetire (core : Nat) : Statement (.coreRetire core) := unit rfl
theorem sliceRetire (slice : Nat) : Statement (.sliceRetire slice) := unit rfl
theorem deviceSpare (dev : Nat) : Statement (.deviceSpare dev) := unit rfl
theorem droopStretch (pair : Nat) : Statement (.droopStretch pair) := unit rfl
theorem droopRelease (pair : Nat) : Statement (.droopRelease pair) := unit rfl
theorem powerLimitStretch (watts : Nat) : Statement (.powerLimitStretch watts) := unit rfl
theorem firmwareVerify : Statement .firmwareVerify := unit rfl
theorem dieRestart (die : Nat) : Statement (.dieRestart die) := unit rfl
theorem taggedMessageArrive (func : Nat) (m : MsgHead) (payload : List Byte) (mp : Nat) (mc : Nat) : Statement (.taggedMessageArrive func m payload mp mc) := unit rfl
theorem flitReplay (port : Nat) (seq : Nat) : Statement (.flitReplay port seq) := unit rfl
theorem frontEndFetch (func : Nat) (q : Nat) : Statement (.frontEndFetch func q) := unit rfl
theorem nopPacket (func : Nat) (q : Nat) : Statement (.nopPacket func q) := unit rfl
theorem launchPacket (func : Nat) (q : Nat) : Statement (.launchPacket func q) := unit rfl
theorem resumePacket (func : Nat) (q : Nat) : Statement (.resumePacket func q) := unit rfl
theorem ibPacket (func : Nat) (q : Nat) : Statement (.ibPacket func q) := unit rfl
theorem predPacket (func : Nat) (q : Nat) : Statement (.predPacket func q) := unit rfl
theorem fencePacket (func : Nat) (q : Nat) : Statement (.fencePacket func q) := unit rfl
theorem signalPacket (func : Nat) (q : Nat) : Statement (.signalPacket func q) := unit rfl
theorem waitPacket (func : Nat) (q : Nat) : Statement (.waitPacket func q) := unit rfl
theorem armPacket (func : Nat) (q : Nat) : Statement (.armPacket func q) := unit rfl
theorem cqDoorbell (func : Nat) (q : Nat) (v : Nat) : Statement (.cqDoorbell func q v) := unit rfl
theorem cqEnable (func : Nat) (q : Nat) (v : Nat) : Statement (.cqEnable func q v) := unit rfl
theorem cqRestart (func : Nat) (q : Nat) (skip : Bool) : Statement (.cqRestart func q skip) := unit rfl
theorem evqCtlWrite (func : Nat) (v : Nat) : Statement (.evqCtlWrite func v) := unit rfl
theorem evqHeadWrite (func : Nat) (v : Nat) : Statement (.evqHeadWrite func v) := unit rfl
theorem mxModeChange (e : Nat) (mode : Nat) : Statement (.mxModeChange e mode) := unit rfl
theorem mxModeChangeDone (e : Nat) : Statement (.mxModeChangeDone e) := unit rfl
theorem l2WaysWrite (func : Nat) (v : Nat) : Statement (.l2WaysWrite func v) := unit rfl
theorem l2LeaseWrite (func : Nat) (v : Nat) : Statement (.l2LeaseWrite func v) := unit rfl
theorem codeCantonWrite (func : Nat) (v : Nat) : Statement (.codeCantonWrite func v) := unit rfl
theorem gqPoolOpen (func : Nat) (k : Nat) : Statement (.gqPoolOpen func k) := unit rfl
theorem gqPoolClose (func : Nat) (k : Nat) : Statement (.gqPoolClose func k) := unit rfl
theorem traceEnable (func : Nat) (v : Nat) : Statement (.traceEnable func v) := unit rfl
theorem profClear (core : Nat) : Statement (.profClear core) := unit rfl
theorem profFreeze (core : Nat) (on : Bool) : Statement (.profFreeze core on) := unit rfl
theorem powerLimitWrite (v : Nat) : Statement (.powerLimitWrite v) := unit rfl
theorem registerWrite (func : Nat) (off : Nat) (size : Nat) (v : Option Nat) : Statement (.registerWrite func off size v) := unit rfl
theorem hcCmdUnknown (func : Nat) (code : Nat) : Statement (.hcCmdUnknown func code) := unit rfl
theorem preempt (func : Nat) : Statement (.preempt func) := unit rfl
theorem retry (func : Nat) : Statement (.retry func) := unit rfl
theorem terminate (func : Nat) : Statement (.terminate func) := unit rfl
theorem replay (func : Nat) : Statement (.replay func) := unit rfl
theorem cancel (func : Nat) : Statement (.cancel func) := unit rfl
theorem invalidate (func : Nat) : Statement (.invalidate func) := unit rfl
theorem invalidateComplete (func : Nat) : Statement (.invalidateComplete func) := unit rfl
theorem peerSet (func : Nat) : Statement (.peerSet func) := unit rfl
theorem collSetup (func : Nat) : Statement (.collSetup func) := unit rfl
theorem attest (func : Nat) : Statement (.attest func) := unit rfl
theorem functionReset (func : Nat) : Statement (.functionReset func) := unit rfl
theorem moduleLoad (func : Nat) : Statement (.moduleLoad func) := unit rfl
theorem moduleBind (func : Nat) : Statement (.moduleBind func) := unit rfl
theorem moduleUnload (func : Nat) : Statement (.moduleUnload func) := unit rfl
theorem moduleUnloadComplete (func : Nat) : Statement (.moduleUnloadComplete func) := unit rfl
theorem keyEnroll (func : Nat) : Statement (.keyEnroll func) := unit rfl
theorem fwLoad (func : Nat) : Statement (.fwLoad func) := unit rfl
theorem hostReadCompletion (id : Nat) (data : List Byte) : Statement (.hostReadCompletion id data) := unit rfl
theorem twRedContribution (func : Nat) (k : Nat) (rank : Nat) (data : List Byte) (mp : Nat) (mc : Nat) : Statement (.twRedContribution func k rank data mp mc) := unit rfl
theorem powerLimitRelease (watts : Nat) : Statement (.powerLimitRelease watts) := unit rfl
theorem dieRepairReset (die : Nat) : Statement (.dieRepairReset die) := unit rfl
theorem spareDeviceCopy (dev : Nat) (line : Nat) : Statement (.spareDeviceCopy dev line) := unit rfl

end Sys2Proof.Laws.RoundTrip
end

