-- ==== Sys2Proof/Laws/Unit.lean ====
section
/-!
SUPPORT. What a unit's read within one page does: it gives the visible bytes, and changes only the lines' leases and
what L2 holds.
-/

namespace Sys2Proof.Machine

theorem State.recOf_setLine (s : State) (k line : Nat) (r : LineRec) :
    (s.setLine k r).recOf line = if line = k then r else s.recOf line := by
  unfold State.recOf State.lineRec State.setLine
  by_cases h : line = k
  · subst h; simp
  · simp only [h, if_false, SMap.find_set_other s.lines r h]; rfl

/-- A unit's access that nothing stands in the way of changes nothing as it arrives. -/
theorem State.arrive_quiet (s : State) (line : Nat) (h : s.Quiet) : s.arrive line = s := by
  obtain ⟨ho, hq, hm⟩ := h
  have h1 : s.mx.filter (fun e => e.2.busy && e.2.onLine line) = [] := by
    rw [List.filter_eq_nil_iff]
    intro e he
    simp [hm e he]
  unfold State.arrive State.mxSettle State.recall
  simp only [hq, List.filter_nil, List.foldl_nil, h1, ho line]

/-- A read of a line that no group holds leaves only a lease. -/
theorem State.lease_quiet (s : State) (line func : Nat) (h : s.Quiet) :
    ∃ ls, ((s.arrive line).lease line func).1 = { s with lines := ls } ∧ State.Quiet { s with lines := ls } := by
  rw [s.arrive_quiet line h]
  obtain ⟨ho, hq, hm⟩ := h
  unfold State.lease
  split
  · exact ⟨s.lines, rfl, ho, hq, hm⟩
  · dsimp only
    split
    · exact ⟨s.lines, rfl, ho, hq, hm⟩
    · refine ⟨_, rfl, fun x => ?_, hq, hm⟩
      change ((State.setLine s line _).recOf x).owner = none
      rw [State.recOf_setLine s line x]
      split
      · exact ho line
      · exact ho x

theorem State.leases_quiet (ls : List Nat) (func : Nat) (s : State) (h : s.Quiet) :
    ∃ x, ls.foldl (fun s l => ((s.arrive l).lease l func).1) s = { s with lines := x } ∧ State.Quiet { s with lines := x } := by
  induction ls generalizing s with
  | nil => exact ⟨s.lines, rfl, h⟩
  | cons l t ih =>
    obtain ⟨a, ha, hn⟩ := s.lease_quiet l func h
    rw [List.foldl_cons, ha]
    obtain ⟨b, hb, hm⟩ := ih _ hn
    exact ⟨b, hb, hm⟩

theorem State.fills_l2 (ls : List Nat) (func cls : Nat) (s : State) :
    ∃ x, ls.foldl (fun s i => State.fillL2 s i func cls) s = { s with l2 := x } := by
  induction ls generalizing s with
  | nil => exact ⟨s.l2, rfl⟩
  | cons l t ih =>
    have : ∃ a, s.fillL2 l func cls = { s with l2 := a } := by
      unfold State.fillL2
      split
      · exact ⟨s.l2, rfl⟩
      · exact ⟨_, rfl⟩
    obtain ⟨a, ha⟩ := this
    rw [List.foldl_cons, ha]
    exact ih _

theorem State.bytesIn_mx (s t : State) (m : Memory) (h : t.mx = s.mx) (pa n : Nat) : t.bytesIn m pa n = s.bytesIn m pa n := by
  have hb : ∀ a, t.byteIn m a = s.byteIn m a := fun a => by unfold State.byteIn State.mxAt; rw [h]
  induction n generalizing pa with
  | zero => rfl
  | succ k ih => rw [State.bytesIn, State.bytesIn, hb, ih]

/-- A unit's read of bytes of one page whose translation its caches hold, with nothing in its way and no uncorrectable
line: the visible bytes, and a state that differs in its leases and in what L2 holds. -/
theorem State.unitLoad_page (s : State) (func aspace va n cls tr pa : Nat) (acc : Access) (hn : 0 < n) (hp : va % 65536 + n ≤ 65536)
    (hx : s.xl tr func aspace va acc = .ok pa) (he : s.ecc = []) (hr : regionOf pa ≠ 4) (ho : s.Quiet) :
    ∃ ls l2, s.unitLoad func aspace va n acc cls tr = .ok ({ s with lines := ls, l2 := l2 }, s.bytesIn s.vis pa n) ∧
      State.Quiet { s with lines := ls, l2 := l2 } := by
  have hm : min n (65536 - va % 65536) = n := by omega
  have h0 : s.unitWalks tr func aspace acc (n / 65536 + 2) va n = s := by
    rw [State.unitWalks, if_neg (by omega)]
    dsimp only
    rw [hm, Nat.sub_self, State.unitWalks, if_pos rfl]
    unfold State.unitWalk
    rw [hx]
  have hx' : s.xlNow tr func aspace va acc = .ok pa := by unfold State.xlNow; rw [hx]
  have h1 : s.xlRange tr func aspace acc (n / 65536 + 2) va n = .ok [(pa, n)] := by
    rw [State.xlRange, if_neg (by omega), hx']
    dsimp only
    rw [hm, Nat.sub_self, State.xlRange, if_pos rfl]
  have h2 : s.eccIn [(pa, n)] = none := by simp [State.eccIn, he]
  obtain ⟨ls, hl, hno⟩ := State.leases_quiet (linesOf pa n) func s ho
  obtain ⟨l2, hf⟩ := State.fills_l2 (linesOf pa n) func cls { s with lines := ls }
  have h3 : s.unitRead func pa n = ({ s with lines := ls }, s.bytesIn s.vis pa n) := by
    unfold State.unitRead
    rw [if_neg hr]
    dsimp only
    rw [hl, State.bytesIn_mx s { s with lines := ls } _ rfl]
    rfl
  refine ⟨ls, l2, ?_, hno⟩
  unfold State.unitLoad
  rw [h0]
  dsimp only
  rw [h1]
  dsimp only
  rw [h2]
  simp only [Option.isSome_none, Bool.false_eq_true, if_false, List.foldl_cons, List.foldl_nil, h3, List.nil_append]
  rw [hf]

/-- Bytes of memory where no MX region stands. -/
theorem State.bytesIn_plain (s : State) (m : Memory) (pa n : Nat) (h : ∀ i, i < n → regionOf (pa + i) ≠ 1) :
    s.bytesIn m pa n = m.bytes pa n := by
  induction n generalizing pa with
  | zero => rfl
  | succ k ih =>
    have h0 : s.byteIn m pa = SMap.get 0 m pa := by
      have h1 := h 0 (by omega)
      rw [Nat.add_zero] at h1
      unfold State.byteIn
      rw [if_neg h1]
    rw [State.bytesIn, Memory.bytes, h0, ih _ (fun i hi => by have := h (i + 1) (by omega); rwa [show pa + (i + 1) = pa + 1 + i from by omega] at this)]

theorem Memory.length_bytes (m : Memory) (pa n : Nat) : (m.bytes pa n).length = n := by
  induction n generalizing pa with
  | zero => rfl
  | succ k ih => rw [Memory.bytes, List.length_cons, ih]

theorem Memory.getElem?_bytes (m : Memory) (pa n i : Nat) (h : i < n) : (m.bytes pa n)[i]? = some (SMap.get 0 m (pa + i)) := by
  induction n generalizing pa i with
  | zero => omega
  | succ k ih =>
    cases i with
    | zero => rfl
    | succ j => rw [Memory.bytes, List.getElem?_cons_succ, ih _ _ (by omega), show pa + 1 + j = pa + (j + 1) from by omega]

/-- Written bytes read back. -/
theorem Memory.bytes_write (m : Memory) (a : Nat) (bs : List Byte) : (m.write a bs).bytes a bs.length = bs := by
  apply List.ext_getElem?
  intro i
  by_cases h : i < bs.length
  · rw [Memory.getElem?_bytes _ _ _ _ h, Memory.get_write, if_pos (by omega), show a + i - a = i from by omega, List.getElem?_eq_getElem h]
    rfl
  · rw [List.getElem?_eq_none (by rw [Memory.length_bytes]; omega), List.getElem?_eq_none (by omega)]

/-- Bytes outside a write read as before. -/
theorem Memory.bytes_write_other (m : Memory) (a : Nat) (bs : List Byte) (x n : Nat) (h : x + n ≤ a ∨ a + bs.length ≤ x) :
    (m.write a bs).bytes x n = m.bytes x n := by
  apply List.ext_getElem?
  intro i
  by_cases hi : i < n
  · rw [Memory.getElem?_bytes _ _ _ _ hi, Memory.getElem?_bytes _ _ _ _ hi, Memory.get_write, if_neg (by omega)]
  · rw [List.getElem?_eq_none (by rw [Memory.length_bytes]; omega), List.getElem?_eq_none (by rw [Memory.length_bytes]; omega)]

end Sys2Proof.Machine
end

