-- ==== Sys2Proof/Tests/Slice0.lean ====
section
/-!
SUPPORT. The author's own tests: ill-formed terms that the checks refuse; a word for every instruction, written from the
encoding tables of spec/14 (opcodes from R254 and R255, fields from R243 to R251, subfunctions from R256 to R259); the
spec's worked examples; and for each statement with hypotheses a concrete state and operands that meet them.
-/

namespace Sys2Proof.Tests
open Sys2Proof Sys2Proof.Machine Sys2Proof.Claims

set_option Elab.async false

/-! ### Small states -/

/-- The fragment of the small states. -/
def tW : Who := { gid := 0, gang := 0, frag := 0 }

/-- A fragment of sixteen quads on core 0, issuing. -/
def tS : State := { State.reset.loadWords [] with issuing := [], cur := some tW }

/-- The state with the issuing fragment's context changed. -/
def onC (f : Ctx → Ctx) (s : State) : State :=
  match s.ctxOf tW with
  | some c => s.put (f c)
  | none => s
def onGang (f : Gang → Gang) : State → State := onC (fun c => { c with gang := f c.gang })
def onGrp (f : Group → Group) : State → State := onC (fun c => { c with grp := f c.grp })
def onFrag (f : Frag → Frag) : State → State := onC (fun c => { c with frag := f c.frag })
def onLau (f : Launch → Launch) (s : State) : State := { s with launches := s.launches.map (fun x => (x.1, f x.2)) }
def onCore (f : Core → Core) (s : State) : State := s.updCore 0 f
def setG (r v : Nat) : State → State := onGang (fun g => g.wrG r (BitVec.ofNat 64 v))

/-- The state has an issuing fragment, and its context is as said. -/
def Has (s : State) (P : Ctx → Prop) : Prop := ∃ c, s.ctx = some c ∧ P c

theorem has {s : State} {P : Ctx → Prop} [DecidablePred P] (h : s.ctx.any (fun c => decide (P c)) = true) : Has s P := by
  cases hc : s.ctx with
  | none => rw [hc] at h; cases h
  | some c => rw [hc] at h; exact ⟨c, hc, of_decide_eq_true h⟩

/-! ### Ill-formed terms, one for each check; beside them the term that the check lets through -/

def lr (d a b : BitVec 7) : LR := { g := 7, d := d, a := a, b := b }
def lx (d a b c sub : BitVec 7) (ty : BitVec 4) (imm : BitVec 8) : LX :=
  { w := lr d a b, x := { c := c, slot := 0, rnd := 0, sat := 0, sub := sub, ty := ty, imm := imm } }
def lm (d a b c : BitVec 7) (subf ty : BitVec 4) (mode : BitVec 2) (addr : BitVec 13) : LM :=
  { w := lr d a b, x := { c := c, subf := subf, ord := 0, ty := ty, mode := mode, addr := addr } }
/-- The first is well formed, the second not. -/
def only (ok bad : Instr) : Bool := ok.wf && !bad.wf

theorem test_wf_classes : (
    only (.iadd (lr 95 0 127)) (.iadd (lr 96 0 127)) &&                                          -- v
    only (.uadd (lr 96 127 96)) (.uadd (lr 96 95 96)) &&                                         -- g
    only (.unpackBf16 (lr 94 1 0)) (.unpackBf16 (lr 93 1 0)) &&                                  -- v2
    only (.bpick (lr 1 2 3)) (.bpick (lr 1 3 3)) &&                                              -- w
    only (.ldN128Lane (lm 92 96 0 0 0 0 0 0)) (.ldN128Lane (lm 90 96 0 0 0 0 0 0)) &&            -- v4
    only (.hset (lx 15 126 127 0 0 0 0)) (.hset (lx 15 127 127 0 0 0 0)) &&                      -- g2
    only (.vcomp (lr 2 1 7)) (.vcomp (lr 2 1 8)) &&                                              -- p
    only (.barInit (lr 15 96 0)) (.barInit (lr 16 96 0)) &&                                      -- h
    only (.not (lr 1 2 0)) (.not (lr 1 2 1)) &&                                                  -- z
    only (.mmPass (lx 0 96 97 0 0 0 0)) (.mmPass (lx 1 96 97 0 0 0 0)) &&                        -- gz
    only (.icmp (lr 0x28 1 2)) (.icmp (lr 0x30 1 2)) && only (.fcmp (lr 63 1 2)) (.fcmp (lr 64 1 2)) &&   -- comparison codes
    only (.hget (lr 96 15 3)) (.hget (lr 96 15 4)) &&                                            -- a literal
    only (.atomCasLane (lm 1 96 0 94 8 2 0 0)) (.atomCasLane (lm 1 96 0 95 8 2 0 0)) &&          -- the pair of CAS
    only (.atomCasLane (lm 2 96 0 92 8 3 0 0)) (.atomCasLane (lm 2 96 0 93 8 3 0 0)) &&
    only (.atomCasUniform (lm 96 96 0 126 8 2 2 0)) (.atomCasUniform (lm 96 96 0 127 8 2 2 0)) &&
    only (.atomCasUniform (lm 96 96 0 125 8 3 2 0)) (.atomCasUniform (lm 96 96 0 126 8 3 2 0))) = true := by decide

theorem test_wf_memory : (
    -- the index register of MODE 1, 32 and 64 bits, and none in MODE 0
    only (.ldN8Lane (lm 1 96 3 0 0 0 1 0)) (.ldN8Lane (lm 1 96 96 0 0 0 1 0)) && only (.ldN8Lane (lm 1 96 2 0 0 0 1 6144)) (.ldN8Lane (lm 1 96 3 0 0 0 1 6144)) &&
    only (.ldN8Lane (lm 1 96 0 0 0 0 0 0)) (.ldN8Lane (lm 1 96 3 0 0 0 0 0)) &&
    -- MODE 0: [8:0], MREG without WRAP; MODE 1: [6:0], the scale; MODE 2 of lanes; MODE 1 and 3 of the uniform set
    !(Instr.ldN8Lane (lm 1 96 0 0 0 0 0 1)).wf && only (.ldN8Lane (lm 1 96 0 0 0 0 0 4608)) (.ldN8Lane (lm 1 96 0 0 0 0 0 512)) &&
    !(Instr.ldN8Lane (lm 1 96 3 0 0 0 1 64)).wf && only (.ldN8Lane (lm 1 96 3 0 0 0 1 512)) (.ldN8Lane (lm 1 96 3 0 0 0 1 640)) &&
    !(Instr.ldN8Lane (lm 1 96 0 0 0 0 2 0)).wf && only (.ldN8Uniform (lm 96 96 0 0 0 0 2 8191)) (.ldN8Uniform (lm 96 96 0 0 0 0 1 0)) &&
    !(Instr.ldN8Uniform (lm 96 96 0 0 0 0 3 0)).wf &&
    -- SUBF, ORD and TYPE where they are not used, and the types of ATOM and WAITCMP
    !(Instr.ldN8Lane (lm 1 96 0 0 1 0 0 0)).wf && !(Instr.ldN8Lane (lm 1 96 0 0 0 1 0 0)).wf &&
    !(Instr.ldN8Lane { lm 1 96 0 0 0 0 0 0 with x := { (lm 1 96 0 0 0 0 0 0).x with ord := 1 } }).wf &&
    only (.atomAddLane (lm 1 96 0 2 0 6 0 0)) (.atomAddLane (lm 1 96 0 2 0 8 0 0)) && only (.atomFaddLane (lm 1 96 0 2 1 8 0 0)) (.atomFaddLane (lm 1 96 0 2 1 2 0 0)) &&
    only (.atomAndLane (lm 1 96 0 2 4 2 0 0)) (.atomAndLane (lm 1 96 0 2 4 6 0 0)) && !(Instr.atomAndLane (lm 1 96 0 2 5 2 0 0)).wf &&
    only (.waitcmp (lm 7 96 0 96 5 2 2 0)) (.waitcmp (lm 7 96 0 96 6 2 2 0)) && !(Instr.waitcmp (lm 7 96 0 96 5 2 0 0)).wf) = true := by decide

theorem test_wf_extension : (
    -- XA where a field is not used: SLOT, RND, SAT, SUB, TYPE, IMM8
    only (.imad (lx 1 2 3 4 0 2 0)) (.imad { lx 1 2 3 4 0 2 0 with x := { (lx 1 2 3 4 0 2 0).x with slot := 1 } }) &&
    !(Instr.imad { lx 1 2 3 4 0 2 0 with x := { (lx 1 2 3 4 0 2 0).x with rnd := 1 } }).wf &&
    !(Instr.imad { lx 1 2 3 4 0 2 0 with x := { (lx 1 2 3 4 0 2 0).x with sat := 1 } }).wf &&
    !(Instr.imad (lx 1 2 3 4 1 2 0)).wf && !(Instr.imad (lx 1 2 3 4 0 8 0)).wf && !(Instr.imad (lx 1 2 3 4 0 2 1)).wf &&
    -- RND 3; 64-bit types take pairs; the IMM8 of VSCAN, QXCH.BC and QSPLIT; QSPLIT without a slot
    only (.ffma (lx 1 2 3 4 0 8 0)) (.ffma { lx 1 2 3 4 0 8 0 with x := { (lx 1 2 3 4 0 8 0).x with rnd := 3 } }) &&
    only (.sel (lx 2 4 6 7 0 3 0)) (.sel (lx 3 4 6 7 0 3 0)) && only (.vscanAdd (lx 1 2 0 0 0 2 1)) (.vscanAdd (lx 1 2 0 0 0 2 2)) &&
    only (.qxchBc (lx 1 2 0 0 3 2 3)) (.qxchBc (lx 1 2 0 0 3 2 4)) && only (.qsplit (lx 2 2 0 0 0 8 1)) (.qsplit (lx 2 2 0 0 0 8 2)) &&
    !(Instr.qsplit { lx 2 2 0 0 0 8 0 with x := { (lx 2 2 0 0 0 8 0).x with slot := 1 } }).wf &&
    -- WIDE: a type of its cell, RND or SAT of a float cell, no cell without a wide form, ICMP's type as its code
    only (.wide (lx 2 4 6 0 0 7 0)) (.wide (lx 2 4 6 0 0 2 0)) &&
    only (.wide { lx 1 2 3 0 32 8 0 with x := { (lx 1 2 3 0 32 8 0).x with rnd := 1 } }) (.wide (lx 1 2 3 0 32 8 0)) &&
    !(Instr.wide (lx 1 2 3 0 36 8 0)).wf && only (.wide (lx 64 2 4 0 31 3 0)) (.wide (lx 0 2 4 0 31 3 0)) &&
    !(Instr.wide (lx 3 4 6 0 0 7 0)).wf && !(Instr.wide (lx 2 4 6 1 0 7 0)).wf) = true := by decide

theorem test_wf_units : (
    -- the matrix engine's and the walk engine's SUB and IMM8; taps, pools and page lists
    only (.mmLoadb (lx 0 15 0 0 64 0 3)) (.mmLoadb (lx 0 15 0 0 32 0 3)) && !(Instr.mmLoadb (lx 0 15 0 0 0 0 4)).wf &&
    only (.mmPass (lx 0 96 97 0 96 0 0)) (.mmPass (lx 0 96 97 0 4 0 0)) && only (.mmZero (lx 0 96 97 0 16 0 0)) (.mmZero (lx 0 96 97 0 1 0 0)) &&
    only (.twLoad (lx 0 96 97 0 125 0 7)) (.twLoad (lx 0 96 97 0 4 0 7)) && !(Instr.twLoad (lx 0 96 97 0 2 0 7)).wf && !(Instr.twLoad (lx 0 96 97 0 0 0 8)).wf &&
    only (.twStore (lx 0 96 97 0 1 8 0)) (.twStore (lx 0 96 97 0 0 8 0)) && only (.twRed (lx 0 96 97 0 2 9 0)) (.twRed (lx 0 96 97 0 3 9 0)) &&
    only (.gqIns (lx 0 96 97 0 0 0 15)) (.gqIns (lx 0 96 97 0 0 0 16)) && only (.tapEnc (lx 0 96 0 0 0 0 7)) (.tapEnc (lx 0 96 0 0 0 0 8)) &&
    only (.kvDropFrame (lx 0 96 97 0 1 0 0)) (.kvDropFrame (lx 0 96 97 0 0 0 0)) &&
    -- special registers: a number that is listed, a lane-scope one into v, a pair for 64 bits; UEXT; UCAT; the selector of SYS
    only (.sread (lr 1 0 0)) (.sread (lr 96 0 0)) && only (.sread (lr 2 0 16)) (.sread (lr 1 0 16)) && !(Instr.sread (lr 96 0 5)).wf &&
    only (.swrite (lr 96 1 7)) (.swrite (lr 96 1 8)) && only (.uext (lr 96 97 6)) (.uext (lr 96 97 7)) &&
    only (.ucat { d := 96, imm := 65535 }) (.ucat { d := 96, imm := 65536 }) && only (.time (lr 96 0 7)) (.time (lr 96 0 6)) &&
    -- REGANG's guard; an address of BRL that is odd, and its reserved bits
    only (.regang (lr 0 0 0)) (.regang { lr 0 0 0 with g := 6 }) &&
    only (.brl { g := 7, rsvd := 0, d64 := 2 }) (.brl { g := 7, rsvd := 0, d64 := 1 }) && !(Instr.calll { g := 7, rsvd := 1, d64 := 2 }).wf) = true := by decide

/-! ### Words -/

/-- The decoder reads an instruction from a word. -/
noncomputable def readsAs (nbits w : Nat) (i : Instr) : Bool := decodeTableWord nbits w == some i

/-- A dictionary pair: entry 513 and the low half 0x2AA (R195); a reserved opcode; ill-formed fields, which decoding refuses. -/
theorem test_words_pairs_and_refusals : (readsAs 32 (0xFC000000 + 513 * 2 ^ 16 + 0x2AA) (.dictionaryPair { hi := 513, lo := 0x2AA }) &&
    (decodeTableWord 32 0xFBFFFFFF).isNone && (decodeTableWord 32 0x0FE14262).isNone && (decodeTableWord 32 0x00F84262).isNone) = true := by decide

theorem test_words_lane_integer : (
    readsAs 32 0x00614b7f (.iadd { g := 3, d := 5, a := 22, b := 127 }) &&
    readsAs 32 0x01614b7f (.isub { g := 3, d := 5, a := 22, b := 127 }) &&
    readsAs 32 0x02614b7f (.iaddSatI32 { g := 3, d := 5, a := 22, b := 127 }) &&
    readsAs 32 0x03614b7f (.iaddSatN32 { g := 3, d := 5, a := 22, b := 127 }) &&
    readsAs 32 0x04614b7f (.isubSatI32 { g := 3, d := 5, a := 22, b := 127 }) &&
    readsAs 32 0x05614b7f (.isubSatN32 { g := 3, d := 5, a := 22, b := 127 }) &&
    readsAs 32 0x06614b7f (.imul { g := 3, d := 5, a := 22, b := 127 }) &&
    readsAs 32 0x07614b7f (.imulhI32 { g := 3, d := 5, a := 22, b := 127 }) &&
    readsAs 32 0x08614b7f (.imulhN32 { g := 3, d := 5, a := 22, b := 127 }) &&
    readsAs 32 0x09614b7f (.imac { g := 3, d := 5, a := 22, b := 127 }) &&
    readsAs 32 0x0a614b7f (.iminI32 { g := 3, d := 5, a := 22, b := 127 }) &&
    readsAs 32 0x0b614b7f (.iminN32 { g := 3, d := 5, a := 22, b := 127 }) &&
    readsAs 32 0x0c614b7f (.imaxI32 { g := 3, d := 5, a := 22, b := 127 }) &&
    readsAs 32 0x0d614b7f (.imaxN32 { g := 3, d := 5, a := 22, b := 127 }) &&
    readsAs 32 0x0e614b00 (.iabs { g := 3, d := 5, a := 22, b := 0 }) &&
    readsAs 32 0x0f614b00 (.ineg { g := 3, d := 5, a := 22, b := 0 }) &&
    readsAs 32 0x10614b7f (.and { g := 3, d := 5, a := 22, b := 127 }) &&
    readsAs 32 0x11614b7f (.or { g := 3, d := 5, a := 22, b := 127 }) &&
    readsAs 32 0x12614b7f (.xor { g := 3, d := 5, a := 22, b := 127 }) &&
    readsAs 32 0x13614b00 (.not { g := 3, d := 5, a := 22, b := 0 }) &&
    readsAs 32 0x14614b7f (.shl { g := 3, d := 5, a := 22, b := 127 }) &&
    readsAs 32 0x15614b7f (.shr { g := 3, d := 5, a := 22, b := 127 }) &&
    readsAs 32 0x16614b7f (.sar { g := 3, d := 5, a := 22, b := 127 }) &&
    readsAs 32 0x17614b7f (.rot { g := 3, d := 5, a := 22, b := 127 }) &&
    readsAs 32 0x18614b7f (.bfeN32 { g := 3, d := 5, a := 22, b := 127 }) &&
    readsAs 32 0x19614b7f (.bfeI32 { g := 3, d := 5, a := 22, b := 127 }) &&
    readsAs 32 0x1a614b7f (.bfi { g := 3, d := 5, a := 22, b := 127 }) &&
    readsAs 32 0x1b614b00 (.brev { g := 3, d := 5, a := 22, b := 0 }) &&
    readsAs 32 0x1c614b00 (.clz { g := 3, d := 5, a := 22, b := 0 }) &&
    readsAs 32 0x1d614b00 (.ffs { g := 3, d := 5, a := 22, b := 0 }) &&
    readsAs 32 0x1e614b00 (.popc { g := 3, d := 5, a := 22, b := 0 }) &&
    readsAs 32 0x1f6a4b7f (.icmp { g := 3, d := 41, a := 22, b := 127 })) = true := by decide

theorem test_words_lane_float : (
    readsAs 32 0x20614b7f (.fadd { g := 3, d := 5, a := 22, b := 127 }) &&
    readsAs 32 0x21614b7f (.fsub { g := 3, d := 5, a := 22, b := 127 }) &&
    readsAs 32 0x22614b7f (.fmul { g := 3, d := 5, a := 22, b := 127 }) &&
    readsAs 32 0x23614b7f (.fmac { g := 3, d := 5, a := 22, b := 127 }) &&
    readsAs 32 0x24614b7f (.fmin { g := 3, d := 5, a := 22, b := 127 }) &&
    readsAs 32 0x25614b7f (.fmax { g := 3, d := 5, a := 22, b := 127 }) &&
    readsAs 32 0x26614b00 (.frcp { g := 3, d := 5, a := 22, b := 0 }) &&
    readsAs 32 0x27614b00 (.frsq { g := 3, d := 5, a := 22, b := 0 }) &&
    readsAs 32 0x28614b00 (.fsqrt { g := 3, d := 5, a := 22, b := 0 }) &&
    readsAs 32 0x29614b00 (.fexp2 { g := 3, d := 5, a := 22, b := 0 }) &&
    readsAs 32 0x2a614b00 (.flog2 { g := 3, d := 5, a := 22, b := 0 }) &&
    readsAs 32 0x2b6e8b7f (.fcmp { g := 3, d := 58, a := 22, b := 127 }) &&
    readsAs 32 0x2c614b00 (.fabs { g := 3, d := 5, a := 22, b := 0 }) &&
    readsAs 32 0x2d614b00 (.fneg { g := 3, d := 5, a := 22, b := 0 }) &&
    readsAs 32 0x2e614b7f (.fminNum { g := 3, d := 5, a := 22, b := 127 }) &&
    readsAs 32 0x2f614b7f (.fmaxNum { g := 3, d := 5, a := 22, b := 127 }) &&
    readsAs 32 0x30614b7f (.faddBf16 { g := 3, d := 5, a := 22, b := 127 }) &&
    readsAs 32 0x31614b7f (.fsubBf16 { g := 3, d := 5, a := 22, b := 127 }) &&
    readsAs 32 0x32614b7f (.fmulBf16 { g := 3, d := 5, a := 22, b := 127 }) &&
    readsAs 32 0x33614b7f (.fmacBf16 { g := 3, d := 5, a := 22, b := 127 }) &&
    readsAs 32 0x34614b7f (.fminBf16 { g := 3, d := 5, a := 22, b := 127 }) &&
    readsAs 32 0x35614b7f (.fmaxBf16 { g := 3, d := 5, a := 22, b := 127 }) &&
    readsAs 32 0x36614b00 (.fabsBf16 { g := 3, d := 5, a := 22, b := 0 }) &&
    readsAs 32 0x37614b00 (.fnegBf16 { g := 3, d := 5, a := 22, b := 0 }) &&
    readsAs 32 0x38614b7f (.faddF16 { g := 3, d := 5, a := 22, b := 127 }) &&
    readsAs 32 0x39614b7f (.fsubF16 { g := 3, d := 5, a := 22, b := 127 }) &&
    readsAs 32 0x3a614b7f (.fmulF16 { g := 3, d := 5, a := 22, b := 127 }) &&
    readsAs 32 0x3b614b7f (.fmacF16 { g := 3, d := 5, a := 22, b := 127 }) &&
    readsAs 32 0x3c614b7f (.fminF16 { g := 3, d := 5, a := 22, b := 127 }) &&
    readsAs 32 0x3d614b7f (.fmaxF16 { g := 3, d := 5, a := 22, b := 127 }) &&
    readsAs 32 0x3e614b00 (.fabsF16 { g := 3, d := 5, a := 22, b := 0 }) &&
    readsAs 32 0x3f614b00 (.fnegF16 { g := 3, d := 5, a := 22, b := 0 })) = true := by decide

theorem test_words_conversion : (
    readsAs 64 0x01b8000040614b7f (.cvtF32Fs { w := { g := 3, d := 5, a := 22, b := 127 }, x := { c := 0, slot := 6, rnd := 3, sat := 1, sub := 0, ty := 0, imm := 0 } }) &&
    readsAs 64 0x01b8100040614b7f (.cvtFsF32 { w := { g := 3, d := 5, a := 22, b := 127 }, x := { c := 0, slot := 6, rnd := 3, sat := 1, sub := 1, ty := 0, imm := 0 } }) &&
    readsAs 64 0x01b8200040614b7f (.cvtBf16Fs { w := { g := 3, d := 5, a := 22, b := 127 }, x := { c := 0, slot := 6, rnd := 3, sat := 1, sub := 2, ty := 0, imm := 0 } }) &&
    readsAs 64 0x01b8300040614b7f (.cvtFsBf16 { w := { g := 3, d := 5, a := 22, b := 127 }, x := { c := 0, slot := 6, rnd := 3, sat := 1, sub := 3, ty := 0, imm := 0 } }) &&
    readsAs 64 0x01b8400040614b7f (.cvtF16Fs { w := { g := 3, d := 5, a := 22, b := 127 }, x := { c := 0, slot := 6, rnd := 3, sat := 1, sub := 4, ty := 0, imm := 0 } }) &&
    readsAs 64 0x01b8500040614b7f (.cvtFsF16 { w := { g := 3, d := 5, a := 22, b := 127 }, x := { c := 0, slot := 6, rnd := 3, sat := 1, sub := 5, ty := 0, imm := 0 } }) &&
    readsAs 64 0x01b8600040614b7f (.cvtI32Fs { w := { g := 3, d := 5, a := 22, b := 127 }, x := { c := 0, slot := 6, rnd := 3, sat := 1, sub := 6, ty := 0, imm := 0 } }) &&
    readsAs 64 0x01b8700040614b7f (.cvtFsI32 { w := { g := 3, d := 5, a := 22, b := 127 }, x := { c := 0, slot := 6, rnd := 3, sat := 1, sub := 7, ty := 0, imm := 0 } }) &&
    readsAs 64 0x0018800040614b00 (.cvtF32Bf16 { w := { g := 3, d := 5, a := 22, b := 0 }, x := { c := 0, slot := 0, rnd := 1, sat := 1, sub := 8, ty := 0, imm := 0 } }) &&
    readsAs 64 0x0018900040614b00 (.cvtBf16F32 { w := { g := 3, d := 5, a := 22, b := 0 }, x := { c := 0, slot := 0, rnd := 1, sat := 1, sub := 9, ty := 0, imm := 0 } }) &&
    readsAs 64 0x0018a00040614b00 (.cvtF32F16 { w := { g := 3, d := 5, a := 22, b := 0 }, x := { c := 0, slot := 0, rnd := 1, sat := 1, sub := 10, ty := 0, imm := 0 } }) &&
    readsAs 64 0x0018b00040614b00 (.cvtF16F32 { w := { g := 3, d := 5, a := 22, b := 0 }, x := { c := 0, slot := 0, rnd := 1, sat := 1, sub := 11, ty := 0, imm := 0 } }) &&
    readsAs 64 0x0018c00040614b00 (.cvtF32I32 { w := { g := 3, d := 5, a := 22, b := 0 }, x := { c := 0, slot := 0, rnd := 1, sat := 1, sub := 12, ty := 0, imm := 0 } }) &&
    readsAs 64 0x0018d00040614b00 (.cvtI32F32 { w := { g := 3, d := 5, a := 22, b := 0 }, x := { c := 0, slot := 0, rnd := 1, sat := 1, sub := 13, ty := 0, imm := 0 } }) &&
    readsAs 64 0x0018e00040614b00 (.cvtF32N32 { w := { g := 3, d := 5, a := 22, b := 0 }, x := { c := 0, slot := 0, rnd := 1, sat := 1, sub := 14, ty := 0, imm := 0 } }) &&
    readsAs 64 0x0018f00040614b00 (.cvtN32F32 { w := { g := 3, d := 5, a := 22, b := 0 }, x := { c := 0, slot := 0, rnd := 1, sat := 1, sub := 15, ty := 0, imm := 0 } }) &&
    readsAs 64 0x00b00a0141618b00 (.qsplit { w := { g := 3, d := 6, a := 22, b := 0 }, x := { c := 0, slot := 2, rnd := 3, sat := 0, sub := 0, ty := 10, imm := 1 } }) &&
    readsAs 32 0x42618b03 (.vcomp { g := 3, d := 6, a := 22, b := 3 }) &&
    readsAs 32 0x43618c00 (.spc48 { g := 3, d := 6, a := 24, b := 0 }) &&
    readsAs 32 0x44614c7f (.bpick { g := 3, d := 5, a := 24, b := 127 }) &&
    readsAs 32 0x45614b00 (.frnd { g := 3, d := 5, a := 22, b := 0 }) &&
    readsAs 32 0x46614b7f (.packBf16 { g := 3, d := 5, a := 22, b := 127 }) &&
    readsAs 32 0x47614b7f (.packF16 { g := 3, d := 5, a := 22, b := 127 }) &&
    readsAs 32 0x48618b00 (.unpackBf16 { g := 3, d := 6, a := 22, b := 0 }) &&
    readsAs 32 0x49618b00 (.unpackF16 { g := 3, d := 6, a := 22, b := 0 }) &&
    readsAs 32 0x4a614b00 (.i2fI32 { g := 3, d := 5, a := 22, b := 0 }) &&
    readsAs 32 0x4b614b00 (.i2fN32 { g := 3, d := 5, a := 22, b := 0 }) &&
    readsAs 32 0x4c614b00 (.f2iI32 { g := 3, d := 5, a := 22, b := 0 }) &&
    readsAs 32 0x4d614b00 (.f2iN32 { g := 3, d := 5, a := 22, b := 0 }) &&
    readsAs 32 0x4e614b03 (.vexpand { g := 3, d := 5, a := 22, b := 3 })) = true := by decide

theorem test_words_cross_lane : (
    readsAs 64 0x0000020050614b00 (.qxchH { w := { g := 3, d := 5, a := 22, b := 0 }, x := { c := 0, slot := 0, rnd := 0, sat := 0, sub := 0, ty := 2, imm := 0 } }) &&
    readsAs 64 0x0000120050614b00 (.qxchV { w := { g := 3, d := 5, a := 22, b := 0 }, x := { c := 0, slot := 0, rnd := 0, sat := 0, sub := 1, ty := 2, imm := 0 } }) &&
    readsAs 64 0x0000220050614b00 (.qxchD { w := { g := 3, d := 5, a := 22, b := 0 }, x := { c := 0, slot := 0, rnd := 0, sat := 0, sub := 2, ty := 2, imm := 0 } }) &&
    readsAs 64 0x0000320250614b00 (.qxchBc { w := { g := 3, d := 5, a := 22, b := 0 }, x := { c := 0, slot := 0, rnd := 0, sat := 0, sub := 3, ty := 2, imm := 2 } }) &&
    readsAs 64 0x0000020051614b7f (.shflAt { w := { g := 3, d := 5, a := 22, b := 127 }, x := { c := 0, slot := 0, rnd := 0, sat := 0, sub := 0, ty := 2, imm := 0 } }) &&
    readsAs 64 0x0000120051614b7f (.shflRot { w := { g := 3, d := 5, a := 22, b := 127 }, x := { c := 0, slot := 0, rnd := 0, sat := 0, sub := 1, ty := 2, imm := 0 } }) &&
    readsAs 64 0x0000220051614b7f (.shflSpan { w := { g := 3, d := 5, a := 22, b := 127 }, x := { c := 0, slot := 0, rnd := 0, sat := 0, sub := 2, ty := 2, imm := 0 } }) &&
    readsAs 64 0x0000320051614b7f (.shflFlip { w := { g := 3, d := 5, a := 22, b := 127 }, x := { c := 0, slot := 0, rnd := 0, sat := 0, sub := 3, ty := 2, imm := 0 } }) &&
    readsAs 64 0x0000020052614b00 (.vreduceAdd { w := { g := 3, d := 5, a := 22, b := 0 }, x := { c := 0, slot := 0, rnd := 0, sat := 0, sub := 0, ty := 2, imm := 0 } }) &&
    readsAs 64 0x0000120052614b00 (.vreduceMin { w := { g := 3, d := 5, a := 22, b := 0 }, x := { c := 0, slot := 0, rnd := 0, sat := 0, sub := 1, ty := 2, imm := 0 } }) &&
    readsAs 64 0x0000220052614b00 (.vreduceMax { w := { g := 3, d := 5, a := 22, b := 0 }, x := { c := 0, slot := 0, rnd := 0, sat := 0, sub := 2, ty := 2, imm := 0 } }) &&
    readsAs 64 0x0000320052614b00 (.vreduceAnd { w := { g := 3, d := 5, a := 22, b := 0 }, x := { c := 0, slot := 0, rnd := 0, sat := 0, sub := 3, ty := 2, imm := 0 } }) &&
    readsAs 64 0x0000420052614b00 (.vreduceOr { w := { g := 3, d := 5, a := 22, b := 0 }, x := { c := 0, slot := 0, rnd := 0, sat := 0, sub := 4, ty := 2, imm := 0 } }) &&
    readsAs 64 0x0000520052614b00 (.vreduceXor { w := { g := 3, d := 5, a := 22, b := 0 }, x := { c := 0, slot := 0, rnd := 0, sat := 0, sub := 5, ty := 2, imm := 0 } }) &&
    readsAs 64 0x0000680052614b00 (.vreduceFadd { w := { g := 3, d := 5, a := 22, b := 0 }, x := { c := 0, slot := 0, rnd := 0, sat := 0, sub := 6, ty := 8, imm := 0 } }) &&
    readsAs 64 0x0000780052614b00 (.vreduceFmin { w := { g := 3, d := 5, a := 22, b := 0 }, x := { c := 0, slot := 0, rnd := 0, sat := 0, sub := 7, ty := 8, imm := 0 } }) &&
    readsAs 64 0x0000880052614b00 (.vreduceFmax { w := { g := 3, d := 5, a := 22, b := 0 }, x := { c := 0, slot := 0, rnd := 0, sat := 0, sub := 8, ty := 8, imm := 0 } }) &&
    readsAs 64 0x0000020153614b00 (.vscanAdd { w := { g := 3, d := 5, a := 22, b := 0 }, x := { c := 0, slot := 0, rnd := 0, sat := 0, sub := 0, ty := 2, imm := 1 } }) &&
    readsAs 64 0x0000120153614b00 (.vscanMin { w := { g := 3, d := 5, a := 22, b := 0 }, x := { c := 0, slot := 0, rnd := 0, sat := 0, sub := 1, ty := 2, imm := 1 } }) &&
    readsAs 64 0x0000220153614b00 (.vscanMax { w := { g := 3, d := 5, a := 22, b := 0 }, x := { c := 0, slot := 0, rnd := 0, sat := 0, sub := 2, ty := 2, imm := 1 } }) &&
    readsAs 64 0x0000320153614b00 (.vscanAnd { w := { g := 3, d := 5, a := 22, b := 0 }, x := { c := 0, slot := 0, rnd := 0, sat := 0, sub := 3, ty := 2, imm := 1 } }) &&
    readsAs 64 0x0000420153614b00 (.vscanOr { w := { g := 3, d := 5, a := 22, b := 0 }, x := { c := 0, slot := 0, rnd := 0, sat := 0, sub := 4, ty := 2, imm := 1 } }) &&
    readsAs 64 0x0000520153614b00 (.vscanXor { w := { g := 3, d := 5, a := 22, b := 0 }, x := { c := 0, slot := 0, rnd := 0, sat := 0, sub := 5, ty := 2, imm := 1 } }) &&
    readsAs 64 0x0000680153614b00 (.vscanFadd { w := { g := 3, d := 5, a := 22, b := 0 }, x := { c := 0, slot := 0, rnd := 0, sat := 0, sub := 6, ty := 8, imm := 1 } }) &&
    readsAs 64 0x0000780153614b00 (.vscanFmin { w := { g := 3, d := 5, a := 22, b := 0 }, x := { c := 0, slot := 0, rnd := 0, sat := 0, sub := 7, ty := 8, imm := 1 } }) &&
    readsAs 64 0x0000880153614b00 (.vscanFmax { w := { g := 3, d := 5, a := 22, b := 0 }, x := { c := 0, slot := 0, rnd := 0, sat := 0, sub := 8, ty := 8, imm := 1 } }) &&
    readsAs 64 0x0000003d54604300 (.voteSome { w := { g := 3, d := 1, a := 6, b := 0 }, x := { c := 0, slot := 0, rnd := 0, sat := 0, sub := 0, ty := 0, imm := 61 } }) &&
    readsAs 64 0x0000100054604300 (.voteEvery { w := { g := 3, d := 1, a := 6, b := 0 }, x := { c := 0, slot := 0, rnd := 0, sat := 0, sub := 1, ty := 0, imm := 0 } }) &&
    readsAs 64 0x0000200054604300 (.voteSame { w := { g := 3, d := 1, a := 6, b := 0 }, x := { c := 0, slot := 0, rnd := 0, sat := 0, sub := 2, ty := 0, imm := 0 } })) = true := by decide

theorem test_words_lane_moves : (
    readsAs 32 0x55618300 (.ballot { g := 3, d := 6, a := 6, b := 0 }) &&
    readsAs 32 0x56618b00 (.eqmask { g := 3, d := 6, a := 22, b := 0 }) &&
    readsAs 64 0x0800020057614b7f (.sel { w := { g := 3, d := 5, a := 22, b := 127 }, x := { c := 4, slot := 0, rnd := 0, sat := 0, sub := 0, ty := 2, imm := 0 } }) &&
    readsAs 64 0x080000ca58604303 (.plop { w := { g := 3, d := 1, a := 6, b := 3 }, x := { c := 4, slot := 0, rnd := 0, sat := 0, sub := 0, ty := 0, imm := 202 } }) &&
    readsAs 32 0x59614b00 (.mov { g := 3, d := 5, a := 22, b := 0 }) &&
    readsAs 32 0x5a0a02a7 (.movi { d := 5, a := 0, imm := 679 }) &&
    readsAs 32 0x5b614000 (.pget { g := 3, d := 5, a := 0, b := 0 }) &&
    readsAs 32 0x5c604b00 (.pset { g := 3, d := 1, a := 22, b := 0 })) = true := by decide

theorem test_words_lane_memory : (
    readsAs 64 0x00001a0060617b00 (.ldN8Lane { w := { g := 3, d := 5, a := 118, b := 0 }, x := { c := 0, subf := 0, ord := 0, ty := 0, mode := 0, addr := 0x1a00 } }) &&
    readsAs 64 0x00003e0061617b5a (.ldI8Lane { w := { g := 3, d := 5, a := 118, b := 90 }, x := { c := 0, subf := 0, ord := 0, ty := 0, mode := 1, addr := 0x1e00 } }) &&
    readsAs 64 0x00001a0062617b00 (.ldN16Lane { w := { g := 3, d := 5, a := 118, b := 0 }, x := { c := 0, subf := 0, ord := 0, ty := 0, mode := 0, addr := 0x1a00 } }) &&
    readsAs 64 0x00003e0063617b5a (.ldI16Lane { w := { g := 3, d := 5, a := 118, b := 90 }, x := { c := 0, subf := 0, ord := 0, ty := 0, mode := 1, addr := 0x1e00 } }) &&
    readsAs 64 0x00001a0064617b00 (.ldN32Lane { w := { g := 3, d := 5, a := 118, b := 0 }, x := { c := 0, subf := 0, ord := 0, ty := 0, mode := 0, addr := 0x1a00 } }) &&
    readsAs 64 0x00003e006561bb5a (.ldN64Lane { w := { g := 3, d := 6, a := 118, b := 90 }, x := { c := 0, subf := 0, ord := 0, ty := 0, mode := 1, addr := 0x1e00 } }) &&
    readsAs 64 0x00001a0066613b00 (.ldN128Lane { w := { g := 3, d := 4, a := 118, b := 0 }, x := { c := 0, subf := 0, ord := 0, ty := 0, mode := 0, addr := 0x1a00 } }) &&
    readsAs 64 0x54003e0067603b5a (.stN8Lane { w := { g := 3, d := 0, a := 118, b := 90 }, x := { c := 42, subf := 0, ord := 0, ty := 0, mode := 1, addr := 0x1e00 } }) &&
    readsAs 64 0x54001a0068603b00 (.stN16Lane { w := { g := 3, d := 0, a := 118, b := 0 }, x := { c := 42, subf := 0, ord := 0, ty := 0, mode := 0, addr := 0x1a00 } }) &&
    readsAs 64 0x54003e0069603b5a (.stN32Lane { w := { g := 3, d := 0, a := 118, b := 90 }, x := { c := 42, subf := 0, ord := 0, ty := 0, mode := 1, addr := 0x1e00 } }) &&
    readsAs 64 0x54001a006a603b00 (.stN64Lane { w := { g := 3, d := 0, a := 118, b := 0 }, x := { c := 42, subf := 0, ord := 0, ty := 0, mode := 0, addr := 0x1a00 } }) &&
    readsAs 64 0x58003e006b603b5a (.stN128Lane { w := { g := 3, d := 0, a := 118, b := 90 }, x := { c := 44, subf := 0, ord := 0, ty := 0, mode := 1, addr := 0x1e00 } }) &&
    readsAs 64 0x54131a006c617b00 (.atomAddLane { w := { g := 3, d := 5, a := 118, b := 0 }, x := { c := 42, subf := 0, ord := 2, ty := 6, mode := 0, addr := 0x1a00 } }) &&
    readsAs 64 0x54343e006c617b5a (.atomFaddLane { w := { g := 3, d := 5, a := 118, b := 90 }, x := { c := 42, subf := 1, ord := 2, ty := 8, mode := 1, addr := 0x1e00 } }) &&
    readsAs 64 0x54539a006c61bb00 (.atomMinLane { w := { g := 3, d := 6, a := 118, b := 0 }, x := { c := 42, subf := 2, ord := 2, ty := 7, mode := 0, addr := 0x1a00 } }) &&
    readsAs 64 0x54713e006c617b5a (.atomMaxLane { w := { g := 3, d := 5, a := 118, b := 90 }, x := { c := 42, subf := 3, ord := 2, ty := 2, mode := 1, addr := 0x1e00 } }) &&
    readsAs 64 0x54911a006c617b00 (.atomAndLane { w := { g := 3, d := 5, a := 118, b := 0 }, x := { c := 42, subf := 4, ord := 2, ty := 2, mode := 0, addr := 0x1a00 } }) &&
    readsAs 64 0x54b13e006c617b5a (.atomOrLane { w := { g := 3, d := 5, a := 118, b := 90 }, x := { c := 42, subf := 5, ord := 2, ty := 2, mode := 1, addr := 0x1e00 } }) &&
    readsAs 64 0x54d19a006c61bb00 (.atomXorLane { w := { g := 3, d := 6, a := 118, b := 0 }, x := { c := 42, subf := 6, ord := 2, ty := 3, mode := 0, addr := 0x1a00 } }) &&
    readsAs 64 0x54f13e006c617b5a (.atomXchgLane { w := { g := 3, d := 5, a := 118, b := 90 }, x := { c := 42, subf := 7, ord := 2, ty := 2, mode := 1, addr := 0x1e00 } }) &&
    readsAs 64 0xb5119a006c61bb00 (.atomCasLane { w := { g := 3, d := 6, a := 118, b := 0 }, x := { c := 90, subf := 8, ord := 2, ty := 3, mode := 0, addr := 0x1a00 } }) &&
    readsAs 64 0x00003e006d603b5a (.pref { w := { g := 3, d := 0, a := 118, b := 90 }, x := { c := 0, subf := 0, ord := 0, ty := 0, mode := 1, addr := 0x1e00 } })) = true := by decide

theorem test_words_lane_extended : (
    readsAs 64 0x0012380070614b7f (.wide { w := { g := 3, d := 5, a := 22, b := 127 }, x := { c := 0, slot := 0, rnd := 1, sat := 0, sub := 35, ty := 8, imm := 0 } }) &&
    readsAs 64 0x89abcdef71614000 (.movw { w := { g := 3, d := 5, a := 0, b := 0 }, xi := 0x89abcdef }) &&
    readsAs 64 0x5428080072614b7f (.ffma { w := { g := 3, d := 5, a := 22, b := 127 }, x := { c := 42, slot := 0, rnd := 2, sat := 1, sub := 0, ty := 8, imm := 0 } }) &&
    readsAs 64 0x5400070073618c5a (.imad { w := { g := 3, d := 6, a := 24, b := 90 }, x := { c := 42, slot := 0, rnd := 0, sat := 0, sub := 0, ty := 7, imm := 0 } }) &&
    readsAs 64 0x5408020074614b7f (.isum3 { w := { g := 3, d := 5, a := 22, b := 127 }, x := { c := 42, slot := 0, rnd := 0, sat := 1, sub := 0, ty := 2, imm := 0 } }) &&
    readsAs 64 0x5400039675618c5a (.bitfn { w := { g := 3, d := 6, a := 24, b := 90 }, x := { c := 42, slot := 0, rnd := 0, sat := 0, sub := 0, ty := 3, imm := 150 } }) &&
    readsAs 64 0x5400020076614b7f (.winxN32 { w := { g := 3, d := 5, a := 22, b := 127 }, x := { c := 42, slot := 0, rnd := 0, sat := 0, sub := 0, ty := 2, imm := 0 } }) &&
    readsAs 64 0x5400060077614b7f (.winxI32 { w := { g := 3, d := 5, a := 22, b := 127 }, x := { c := 42, slot := 0, rnd := 0, sat := 0, sub := 0, ty := 6, imm := 0 } }) &&
    readsAs 64 0x5408040078614b7f (.idot4 { w := { g := 3, d := 5, a := 22, b := 127 }, x := { c := 42, slot := 0, rnd := 0, sat := 1, sub := 0, ty := 4, imm := 0 } }) &&
    readsAs 64 0x5428090079614b7f (.fdot2 { w := { g := 3, d := 5, a := 22, b := 127 }, x := { c := 42, slot := 0, rnd := 2, sat := 1, sub := 0, ty := 9, imm := 0 } }) &&
    readsAs 64 0x540005007a614b7f (.iclamp { w := { g := 3, d := 5, a := 22, b := 127 }, x := { c := 42, slot := 0, rnd := 0, sat := 0, sub := 0, ty := 5, imm := 0 } }) &&
    readsAs 64 0x540008007b614b7f (.fclamp { w := { g := 3, d := 5, a := 22, b := 127 }, x := { c := 42, slot := 0, rnd := 0, sat := 0, sub := 0, ty := 8, imm := 0 } }) &&
    readsAs 64 0x540001007c614b7f (.sad { w := { g := 3, d := 5, a := 22, b := 127 }, x := { c := 42, slot := 0, rnd := 0, sat := 0, sub := 0, ty := 1, imm := 0 } }) &&
    readsAs 64 0x002808007d614b7f (.fscale { w := { g := 3, d := 5, a := 22, b := 127 }, x := { c := 0, slot := 0, rnd := 2, sat := 1, sub := 0, ty := 8, imm := 0 } }) &&
    readsAs 64 0x540006007e618b7f (.imadw { w := { g := 3, d := 6, a := 22, b := 127 }, x := { c := 42, slot := 0, rnd := 0, sat := 0, sub := 0, ty := 6, imm := 0 } })) = true := by decide

theorem test_words_uniform_integer : (
    readsAs 32 0x80797b7f (.uadd { g := 3, d := 101, a := 118, b := 127 }) &&
    readsAs 32 0x81797b7f (.usub { g := 3, d := 101, a := 118, b := 127 }) &&
    readsAs 32 0x82797b7f (.umul { g := 3, d := 101, a := 118, b := 127 }) &&
    readsAs 32 0x83797b7f (.umulhI64 { g := 3, d := 101, a := 118, b := 127 }) &&
    readsAs 32 0x84797b7f (.umulhN64 { g := 3, d := 101, a := 118, b := 127 }) &&
    readsAs 32 0x85797b7f (.umac { g := 3, d := 101, a := 118, b := 127 }) &&
    readsAs 32 0x86797b7f (.uminI64 { g := 3, d := 101, a := 118, b := 127 }) &&
    readsAs 32 0x87797b7f (.uminN64 { g := 3, d := 101, a := 118, b := 127 }) &&
    readsAs 32 0x88797b7f (.umaxI64 { g := 3, d := 101, a := 118, b := 127 }) &&
    readsAs 32 0x89797b7f (.umaxN64 { g := 3, d := 101, a := 118, b := 127 }) &&
    readsAs 32 0x8a797b7f (.uand { g := 3, d := 101, a := 118, b := 127 }) &&
    readsAs 32 0x8b797b7f (.uor { g := 3, d := 101, a := 118, b := 127 }) &&
    readsAs 32 0x8c797b7f (.uxor { g := 3, d := 101, a := 118, b := 127 }) &&
    readsAs 32 0x8d797b00 (.unot { g := 3, d := 101, a := 118, b := 0 }) &&
    readsAs 32 0x8e797b7f (.ushl { g := 3, d := 101, a := 118, b := 127 }) &&
    readsAs 32 0x8f797b7f (.ushr { g := 3, d := 101, a := 118, b := 127 }) &&
    readsAs 32 0x90797b7f (.usar { g := 3, d := 101, a := 118, b := 127 }) &&
    readsAs 32 0x91797b06 (.uext { g := 3, d := 101, a := 118, b := 6 }) &&
    readsAs 32 0x92797b00 (.uclz { g := 3, d := 101, a := 118, b := 0 }) &&
    readsAs 32 0x93797b00 (.uffs { g := 3, d := 101, a := 118, b := 0 }) &&
    readsAs 32 0x94797b00 (.upopc { g := 3, d := 101, a := 118, b := 0 }) &&
    readsAs 32 0x956a7b7f (.ucmp { g := 3, d := 41, a := 118, b := 127 }) &&
    readsAs 32 0x96797b7f (.usel { g := 3, d := 101, a := 118, b := 127 }) &&
    readsAs 32 0x977d4303 (.uplop { g := 3, d := 117, a := 6, b := 3 }) &&
    readsAs 32 0x98797b00 (.umov { g := 3, d := 101, a := 118, b := 0 }) &&
    readsAs 32 0x99cb234b (.umovi { d := 101, imm := 74571 }) &&
    readsAs 32 0x9acb234b (.uaddi { d := 101, imm := 74571 }) &&
    readsAs 32 0x9bcabeef (.ucat { d := 101, imm := 48879 }) &&
    readsAs 32 0x9c797b7f (.udivN64 { g := 3, d := 101, a := 118, b := 127 }) &&
    readsAs 32 0x9d797b7f (.uremN64 { g := 3, d := 101, a := 118, b := 127 })) = true := by decide

theorem test_words_uniform_memory : (
    readsAs 64 0x00005abca0797b00 (.ldN8Uniform { w := { g := 3, d := 101, a := 118, b := 0 }, x := { c := 0, subf := 0, ord := 0, ty := 0, mode := 2, addr := 0x1abc } }) &&
    readsAs 64 0x00001a00a1797b00 (.ldN16Uniform { w := { g := 3, d := 101, a := 118, b := 0 }, x := { c := 0, subf := 0, ord := 0, ty := 0, mode := 0, addr := 0x1a00 } }) &&
    readsAs 64 0x00005abca2797b00 (.ldN32Uniform { w := { g := 3, d := 101, a := 118, b := 0 }, x := { c := 0, subf := 0, ord := 0, ty := 0, mode := 2, addr := 0x1abc } }) &&
    readsAs 64 0x00001a00a3797b00 (.ldI32Uniform { w := { g := 3, d := 101, a := 118, b := 0 }, x := { c := 0, subf := 0, ord := 0, ty := 0, mode := 0, addr := 0x1a00 } }) &&
    readsAs 64 0x00005abca4797b00 (.ldN64Uniform { w := { g := 3, d := 101, a := 118, b := 0 }, x := { c := 0, subf := 0, ord := 0, ty := 0, mode := 2, addr := 0x1abc } }) &&
    readsAs 64 0xc2001a00a5603b00 (.stN8Uniform { w := { g := 3, d := 0, a := 118, b := 0 }, x := { c := 97, subf := 0, ord := 0, ty := 0, mode := 0, addr := 0x1a00 } }) &&
    readsAs 64 0xc2005abca6603b00 (.stN16Uniform { w := { g := 3, d := 0, a := 118, b := 0 }, x := { c := 97, subf := 0, ord := 0, ty := 0, mode := 2, addr := 0x1abc } }) &&
    readsAs 64 0xc2001a00a7603b00 (.stN32Uniform { w := { g := 3, d := 0, a := 118, b := 0 }, x := { c := 97, subf := 0, ord := 0, ty := 0, mode := 0, addr := 0x1a00 } }) &&
    readsAs 64 0xc2005abca8603b00 (.stN64Uniform { w := { g := 3, d := 0, a := 118, b := 0 }, x := { c := 97, subf := 0, ord := 0, ty := 0, mode := 2, addr := 0x1abc } }) &&
    readsAs 64 0x0002dabca9797b00 (.ldc { w := { g := 3, d := 101, a := 118, b := 0 }, x := { c := 0, subf := 0, ord := 0, ty := 5, mode := 2, addr := 0x1abc } }) &&
    readsAs 64 0xc2135abcaa797b00 (.atomAddUniform { w := { g := 3, d := 101, a := 118, b := 0 }, x := { c := 97, subf := 0, ord := 2, ty := 6, mode := 2, addr := 0x1abc } }) &&
    readsAs 64 0xc2341a00aa797b00 (.atomFaddUniform { w := { g := 3, d := 101, a := 118, b := 0 }, x := { c := 97, subf := 1, ord := 2, ty := 8, mode := 0, addr := 0x1a00 } }) &&
    readsAs 64 0xc253dabcaa797b00 (.atomMinUniform { w := { g := 3, d := 101, a := 118, b := 0 }, x := { c := 97, subf := 2, ord := 2, ty := 7, mode := 2, addr := 0x1abc } }) &&
    readsAs 64 0xc2711a00aa797b00 (.atomMaxUniform { w := { g := 3, d := 101, a := 118, b := 0 }, x := { c := 97, subf := 3, ord := 2, ty := 2, mode := 0, addr := 0x1a00 } }) &&
    readsAs 64 0xc2915abcaa797b00 (.atomAndUniform { w := { g := 3, d := 101, a := 118, b := 0 }, x := { c := 97, subf := 4, ord := 2, ty := 2, mode := 2, addr := 0x1abc } }) &&
    readsAs 64 0xc2b11a00aa797b00 (.atomOrUniform { w := { g := 3, d := 101, a := 118, b := 0 }, x := { c := 97, subf := 5, ord := 2, ty := 2, mode := 0, addr := 0x1a00 } }) &&
    readsAs 64 0xc2d1dabcaa797b00 (.atomXorUniform { w := { g := 3, d := 101, a := 118, b := 0 }, x := { c := 97, subf := 6, ord := 2, ty := 3, mode := 2, addr := 0x1abc } }) &&
    readsAs 64 0xc2f11a00aa797b00 (.atomXchgUniform { w := { g := 3, d := 101, a := 118, b := 0 }, x := { c := 97, subf := 7, ord := 2, ty := 2, mode := 0, addr := 0x1a00 } }) &&
    readsAs 64 0xdd11dabcaa797b00 (.atomCasUniform { w := { g := 3, d := 101, a := 118, b := 0 }, x := { c := 110, subf := 8, ord := 2, ty := 3, mode := 2, addr := 0x1abc } }) &&
    readsAs 64 0x55a3dabcab607b00 (.waitcmp { w := { g := 3, d := 1, a := 118, b := 0 }, x := { c := 42, subf := 13, ord := 0, ty := 7, mode := 2, addr := 0x1abc } })) = true := by decide

theorem test_words_fences_and_branches : (
    readsAs 32 0xac600000 (.fenceW { g := 3, d := 0, a := 0, b := 0 }) &&
    readsAs 32 0xad600000 (.fenceL { g := 3, d := 0, a := 0, b := 0 }) &&
    readsAs 32 0xae600000 (.fenceS { g := 3, d := 0, a := 0, b := 0 }) &&
    readsAs 32 0xaf600000 (.cinv { g := 3, d := 0, a := 0, b := 0 }) &&
    readsAs 32 0xb0bfedcb (.br { g := 5, disp := 2092491 }) &&
    readsAs 32 0xb1bfedcb (.bra { g := 5, disp := 2092491 }) &&
    readsAs 96 0xfedcba9876543210b2a00000 (.brl { g := 5, rsvd := 0, d64 := 0xfedcba9876543210 }) &&
    readsAs 32 0xb3bfedcb (.call { g := 5, disp := 2092491 }) &&
    readsAs 96 0xfedcba9876543210b4a00000 (.calll { g := 5, rsvd := 0, d64 := 0xfedcba9876543210 }) &&
    readsAs 32 0xb5797b7f (.callo { g := 3, d := 101, a := 118, b := 127 }) &&
    readsAs 32 0xb6603b00 (.bri { g := 3, d := 0, a := 118, b := 0 }) &&
    readsAs 32 0xb7797b00 (.calli { g := 3, d := 101, a := 118, b := 0 }) &&
    readsAs 32 0xb8603b00 (.ret { g := 3, d := 0, a := 118, b := 0 }) &&
    readsAs 32 0xb9e00000 (.regang { g := 7, d := 0, a := 0, b := 0 }) &&
    readsAs 32 0xba600000 (.exit { g := 3, d := 0, a := 0, b := 0 })) = true := by decide

theorem test_words_code : (
    readsAs 64 0x00000029bb797b00 (.hoist { w := { g := 3, d := 101, a := 118, b := 0 }, x := { c := 0, slot := 0, rnd := 0, sat := 0, sub := 0, ty := 0, imm := 41 } }) &&
    readsAs 32 0xbc607b00 (.hwait { g := 3, d := 1, a := 118, b := 0 }) &&
    readsAs 32 0xbd603b00 (.evict { g := 3, d := 0, a := 118, b := 0 }) &&
    readsAs 32 0xbe607b00 (.pin { g := 3, d := 1, a := 118, b := 0 }) &&
    readsAs 32 0xbf607b00 (.unpin { g := 3, d := 1, a := 118, b := 0 }) &&
    readsAs 64 0x01400000c0627b7f (.hset { w := { g := 3, d := 9, a := 118, b := 127 }, x := { c := 0, slot := 5, rnd := 0, sat := 0, sub := 0, ty := 0, imm := 0 } }) &&
    readsAs 32 0xc1794703 (.hget { g := 3, d := 101, a := 14, b := 3 })) = true := by decide

theorem test_words_matrix_and_engines : (
    readsAs 64 0x00060003c279477f (.mmLoadb { w := { g := 3, d := 101, a := 14, b := 127 }, x := { c := 0, slot := 0, rnd := 0, sat := 0, sub := 96, ty := 0, imm := 3 } }) &&
    readsAs 64 0x0004b05ac3797b7f (.mmPass { w := { g := 3, d := 101, a := 118, b := 127 }, x := { c := 0, slot := 0, rnd := 0, sat := 0, sub := 75, ty := 0, imm := 90 } }) &&
    readsAs 64 0x5405105ac4797b7f (.mmSpass { w := { g := 3, d := 101, a := 118, b := 127 }, x := { c := 42, slot := 0, rnd := 0, sat := 0, sub := 81, ty := 0, imm := 90 } }) &&
    readsAs 64 0xc2ec0800c5797b7f (.mmStore { w := { g := 3, d := 101, a := 118, b := 127 }, x := { c := 97, slot := 3, rnd := 2, sat := 1, sub := 64, ty := 8, imm := 0 } }) &&
    readsAs 64 0x00010000c6797b7f (.mmZero { w := { g := 3, d := 101, a := 118, b := 127 }, x := { c := 0, slot := 0, rnd := 0, sat := 0, sub := 16, ty := 0, imm := 0 } }) &&
    readsAs 64 0xc2059007d0797b7f (.twLoad { w := { g := 3, d := 101, a := 118, b := 127 }, x := { c := 97, slot := 0, rnd := 0, sat := 0, sub := 89, ty := 0, imm := 7 } }) &&
    readsAs 64 0xc32d9600d1797b7f (.twStore { w := { g := 3, d := 101, a := 118, b := 127 }, x := { c := 97, slot := 4, rnd := 2, sat := 1, sub := 89, ty := 6, imm := 0 } }) &&
    readsAs 64 0xc2058005d2797b7f (.twMcast { w := { g := 3, d := 101, a := 118, b := 127 }, x := { c := 97, slot := 0, rnd := 0, sat := 0, sub := 88, ty := 0, imm := 5 } }) &&
    readsAs 64 0xc2059007d3797b7f (.twGather { w := { g := 3, d := 101, a := 118, b := 127 }, x := { c := 97, slot := 0, rnd := 0, sat := 0, sub := 89, ty := 0, imm := 7 } }) &&
    readsAs 64 0x0005a9f7d4797b7f (.twRed { w := { g := 3, d := 101, a := 118, b := 127 }, x := { c := 0, slot := 0, rnd := 0, sat := 0, sub := 90, ty := 9, imm := 247 } }) &&
    readsAs 32 0xd503234b (.twPermit { d := 1, imm := 74571 })) = true := by decide

theorem test_words_synchronisation : (
    readsAs 32 0xd6794000 (.cbatch { g := 3, d := 101, a := 0, b := 0 }) &&
    readsAs 32 0xd7607b00 (.cwait { g := 3, d := 1, a := 118, b := 0 }) &&
    readsAs 32 0xd8627b00 (.barInit { g := 3, d := 9, a := 118, b := 0 }) &&
    readsAs 32 0xd979477f (.barArrive { g := 3, d := 101, a := 14, b := 127 }) &&
    readsAs 32 0xda60477f (.barWait { g := 3, d := 1, a := 14, b := 127 }) &&
    readsAs 32 0xdb60437f (.twait { g := 3, d := 1, a := 6, b := 127 }) &&
    readsAs 32 0xdc794301 (.tread { g := 3, d := 101, a := 6, b := 1 })) = true := by decide

theorem test_words_tap_points : (
    readsAs 64 0x00000006e0797b00 (.tapEnc { w := { g := 3, d := 101, a := 118, b := 0 }, x := { c := 0, slot := 0, rnd := 0, sat := 0, sub := 0, ty := 0, imm := 6 } }) &&
    readsAs 64 0x00000006e1797b00 (.tapAdapt { w := { g := 3, d := 101, a := 118, b := 0 }, x := { c := 0, slot := 0, rnd := 0, sat := 0, sub := 0, ty := 0, imm := 6 } }) &&
    readsAs 32 0xe279437f (.tapNext { g := 3, d := 101, a := 6, b := 127 }) &&
    readsAs 32 0xe3603b7f (.tapRead { g := 3, d := 0, a := 118, b := 127 }) &&
    readsAs 64 0x00000000e4603b00 (.tapResumeApply { w := { g := 3, d := 0, a := 118, b := 0 }, x := { c := 0, slot := 0, rnd := 0, sat := 0, sub := 0, ty := 0, imm := 0 } }) &&
    readsAs 64 0x00001000e4603b00 (.tapResumeSkip { w := { g := 3, d := 0, a := 118, b := 0 }, x := { c := 0, slot := 0, rnd := 0, sat := 0, sub := 1, ty := 0, imm := 0 } }) &&
    readsAs 64 0x00002000e4603b7f (.tapResumeRewritten { w := { g := 3, d := 0, a := 118, b := 127 }, x := { c := 0, slot := 0, rnd := 0, sat := 0, sub := 2, ty := 0, imm := 0 } })) = true := by decide

theorem test_words_gain_queue_and_paged : (
    readsAs 64 0x0000000be8607b7f (.gqIns { w := { g := 3, d := 1, a := 118, b := 127 }, x := { c := 0, slot := 0, rnd := 0, sat := 0, sub := 0, ty := 0, imm := 11 } }) &&
    readsAs 64 0x0000000be9607b7f (.gqPop { w := { g := 3, d := 1, a := 118, b := 127 }, x := { c := 0, slot := 0, rnd := 0, sat := 0, sub := 0, ty := 0, imm := 11 } }) &&
    readsAs 64 0x0000000bea607b7f (.gqAdd { w := { g := 3, d := 1, a := 118, b := 127 }, x := { c := 0, slot := 0, rnd := 0, sat := 0, sub := 0, ty := 0, imm := 11 } }) &&
    readsAs 64 0x0000000beb607b7f (.gqMax { w := { g := 3, d := 1, a := 118, b := 127 }, x := { c := 0, slot := 0, rnd := 0, sat := 0, sub := 0, ty := 0, imm := 11 } }) &&
    readsAs 64 0x0000000bec607b00 (.gqDone { w := { g := 3, d := 1, a := 118, b := 0 }, x := { c := 0, slot := 0, rnd := 0, sat := 0, sub := 0, ty := 0, imm := 11 } }) &&
    readsAs 64 0x00000000ed603b7f (.kvFork { w := { g := 3, d := 0, a := 118, b := 127 }, x := { c := 0, slot := 0, rnd := 0, sat := 0, sub := 0, ty := 0, imm := 0 } }) &&
    readsAs 64 0x00000000ee797b7f (.kvApp { w := { g := 3, d := 101, a := 118, b := 127 }, x := { c := 0, slot := 0, rnd := 0, sat := 0, sub := 0, ty := 0, imm := 0 } }) &&
    readsAs 64 0x00000000ef603b00 (.kvDrop { w := { g := 3, d := 0, a := 118, b := 0 }, x := { c := 0, slot := 0, rnd := 0, sat := 0, sub := 0, ty := 0, imm := 0 } }) &&
    readsAs 64 0x00001000ef603b7f (.kvDropFrame { w := { g := 3, d := 0, a := 118, b := 127 }, x := { c := 0, slot := 0, rnd := 0, sat := 0, sub := 1, ty := 0, imm := 0 } })) = true := by decide

theorem test_words_system : (
    readsAs 32 0xf0618012 (.sread { g := 3, d := 6, a := 0, b := 18 }) &&
    readsAs 32 0xf1794021 (.swrite { g := 3, d := 101, a := 0, b := 33 }) &&
    readsAs 32 0xf201234b (.trap { d := 0, imm := 74571 }) &&
    readsAs 32 0xf3600000 (.tret { g := 3, d := 0, a := 0, b := 0 }) &&
    readsAs 32 0xf4607b00 (.elect { g := 3, d := 1, a := 118, b := 0 }) &&
    readsAs 32 0xf5794b7f (.lsel { g := 3, d := 101, a := 22, b := 127 }) &&
    readsAs 32 0xf6617b7f (.lwr { g := 3, d := 5, a := 118, b := 127 }) &&
    readsAs 32 0xf7600000 (.launchTrig { g := 3, d := 0, a := 0, b := 0 }) &&
    readsAs 32 0xf8600000 (.gridwait { g := 3, d := 0, a := 0, b := 0 }) &&
    readsAs 32 0xf9600000 (.nop { g := 3, d := 0, a := 0, b := 0 }) &&
    readsAs 32 0xf9603b01 (.sleep { g := 3, d := 0, a := 118, b := 1 }) &&
    readsAs 32 0xf979bb02 (.gqRead { g := 3, d := 102, a := 118, b := 2 }) &&
    readsAs 32 0xf9794303 (.gqResid { g := 3, d := 101, a := 6, b := 3 }) &&
    readsAs 32 0xf9600004 (.yield { g := 3, d := 0, a := 0, b := 4 }) &&
    readsAs 32 0xf9600005 (.bkpt { g := 3, d := 0, a := 0, b := 5 }) &&
    readsAs 32 0xf9603b06 (.mark { g := 3, d := 0, a := 118, b := 6 }) &&
    readsAs 32 0xf9794007 (.time { g := 3, d := 101, a := 0, b := 7 })) = true := by decide

/-! ### One step: results worked by hand from the rules -/

def setV (r l v : Nat) : State → State := onGang (fun g => { g with v := g.v.set (r * 64 + l) (BitVec.ofNat 32 v) })
def gangAfter (i : Instr) (s : State) : Option Gang := match exec i s with
  | .next t => t.gangAt 0 0
  | _ => none
/-- Lane 63's value of v1 after an instruction on lane 63's v2 and v3. -/
def laneOut (i : Instr) (a b : Nat) : Option Nat := (gangAfter i (setV 2 63 a (setV 3 63 b tS))).map (fun g => (g.rdV 1 63).toNat)
def uniOut (i : Instr) (a b : Nat) : Option Nat := (gangAfter i (setG 97 a (setG 98 b tS))).map (fun g => (g.rdG 96).toNat)

theorem test_lane_results :
    laneOut (.iadd (lr 1 2 3)) 0xFFFFFFFF 2 = some 1 ∧ laneOut (.imulhI32 (lr 1 2 3)) 0xFFFFFFFF 2 = some 0xFFFFFFFF ∧
    laneOut (.imulhN32 (lr 1 2 3)) 0xFFFFFFFF 2 = some 1 ∧ laneOut (.iaddSatI32 (lr 1 2 3)) 0x7FFFFFFF 1 = some 0x7FFFFFFF ∧
    laneOut (.sar (lr 1 2 3)) 0x80000000 31 = some 0xFFFFFFFF ∧ laneOut (.rot (lr 1 2 3)) 0x80000001 1 = some 3 ∧
    laneOut (.clz (lr 1 2 0)) 1 0 = some 31 ∧ laneOut (.fadd (lr 1 2 3)) 0x3F800000 0x3F800000 = some 0x40000000 ∧
    laneOut (.fmul (lr 1 2 3)) 0x3FC00000 0xC0000000 = some 0xC0400000 ∧ laneOut (.fmin (lr 1 2 3)) 0x80000000 0 = some 0x80000000 ∧
    laneOut (.fsqrt (lr 1 2 0)) 0x40800000 0 = some 0x40000000 ∧ laneOut (.imad (lx 1 2 3 3 0 2 0)) 5 7 = some 42 ∧
    laneOut (.packBf16 (lr 1 2 3)) 0x3F800000 0xC0000000 = some 0xC0003F80 ∧ laneOut (.brev (lr 1 2 0)) 1 0 = some 0x80000000 :=
  ⟨by decide, by decide, by decide, by decide, by decide, by decide, by decide, by decide, by decide, by decide, by decide +kernel, by decide,
    by decide +kernel, by decide +kernel⟩

theorem test_uniform_results :
    uniOut (.uadd (lr 96 97 98)) (2 ^ 64 - 1) 2 = some 1 ∧ uniOut (.usub (lr 96 97 98)) 0 1 = some (2 ^ 64 - 1) ∧
    uniOut (.usar (lr 96 97 98)) (2 ^ 63) 63 = some (2 ^ 64 - 1) ∧ uniOut (.umul (lr 96 97 98)) (2 ^ 32) (2 ^ 32 + 1) = some (2 ^ 32) :=
  ⟨by decide, by decide, by decide, by decide⟩

/-- A guard that is false leaves a lane's register; another lane's value stands. -/
theorem test_guard : laneOut (.iadd { lr 1 2 3 with g := 0 }) 5 7 = some 0 ∧
    (gangAfter (.iadd (lr 1 2 3)) (setV 2 63 5 tS)).map (fun g => (g.rdV 1 62).toNat) = some 0 := ⟨by decide, by decide⟩

/-- TRAP faults with its code, and its checkpoint is the instruction after it (R220, R359). -/
theorem test_trap_takes_the_fault : (match exec (.trap { d := 0, imm := 77 }) tS with
    | .next t => (t.fragOf tW).any (fun f => f.pc == 4 && (match f.state with
        | .faulted i none => i.reason == .trap && i.d0 == 77
        | _ => false))
    | _ => false) = true := by decide

/-! ### Lanes and the uniform pipe: every lane active, guards true -/

def oR : LR := { g := 7, d := 1, a := 2, b := 97 }
def oU : LR := { g := 7, d := 96, a := 97, b := 98 }
def oX (ty : BitVec 4) : LX :=
  { w := { g := 7, d := 2, a := 4, b := 6 }, x := { c := 8, slot := 0, rnd := 0, sat := 0, sub := 0, ty := ty, imm := 0 } }
/-- The sixteen quads, one of which has put lanes aside, and one waits with an entry that has settled. -/
def withStack (phase : Bool) (join : Option Reg) : State → State := onGang (fun g =>
  { g with quads := g.quads.set 0 { g.quads[0] with
      mask := 1, stack := [{ resume := 64, join := join, phase := phase, doneMask := 0, other := 14 }] } })

theorem witness_LaneIntegerResults : (∃ f, laneInt (.iadd oR) = some (oR, f)) ∧
    (∃ f, laneSat (.iaddSatI32 oR) = some (oR, true, f)) ∧ (∃ f, laneBit (.bfi oR) = some (oR, f)) ∧
    (∃ f, laneCount (.clz oR) = some (oR, f)) ∧ Has tS (fun c => c.active oR.g = List.range 64) :=
  ⟨⟨_, rfl⟩, ⟨_, rfl⟩, ⟨_, rfl⟩, ⟨_, rfl⟩, has (by decide)⟩

theorem witness_LaneTernaryIntegerResults :
    (∃ f, laneInt3 32 ((oX 6).x.ty == 6) (.imad (oX 6)) = some (oX 6, f)) ∧ ((oX 6).x.ty = 2 ∨ (oX 6).x.ty = 6) ∧
    (∃ f, laneInt3 64 ((oX 3).x.ty == 7) (.isum3 (oX 3)) = some (oX 3, f)) ∧ ((oX 3).x.ty = 3 ∨ (oX 3).x.ty = 7) ∧
    ((oX 0).x.ty = 0 ∧ (8 : Nat) = 8 ∧ false = false) ∧ ((oX 5).x.ty = 5 ∧ (16 : Nat) = 16 ∧ true = true) ∧
    ((oX 0).x.ty = 0 ∨ (oX 0).x.ty = 4) ∧ ((oX 1).x.ty = 1 ∨ (oX 1).x.ty = 5) ∧ Has tS (fun c => c.active 7 ≠ []) :=
  ⟨⟨_, rfl⟩, by decide, ⟨_, rfl⟩, by decide, by decide, by decide, by decide, by decide, has (by decide)⟩

theorem witness_LanePredicateResults : Has tS (fun c => c.active 7 = List.range 64) := has (by decide)

theorem witness_LaneFloatResults : (∃ fn, laneFloat (.fadd oR) = some (oR, fp32, fn)) ∧
    (∃ fn, laneFloat (.fmacF16 oR) = some (oR, fp16, fn)) ∧ (∃ f, laneFloat3 (.ffma (oX 8)) = some (oX 8, f)) ∧
    Has tS (fun c => c.active 7 = List.range 64) :=
  ⟨⟨_, rfl⟩, ⟨_, rfl⟩, ⟨_, rfl⟩, has (by decide)⟩

theorem witness_ConversionResults : fromSlot (.cvtF32Fs (oX 0)) = some (oX 0, fp32) ∧
    intoSlot (.cvtFsBf16 (oX 0)) = some (oX 0, bf16) ∧
    Has (onGrp (fun g => { g with slots := g.slots.set 0 { FmtSlot.zero with w0 := 2 * 2 ^ 17 } }) tS) (fun c =>
      slotUsable c { oX 0 with w := { (oX 0).w with b := 0 } } = true ∧ (c.slot 0).ok = true ∧ (c.slot 0).block = 0 ∧
      (c.slot 0).nan = 2 ∧ (∀ l ∈ c.active 7, c.helper l = false → (slotRead c (oX 0) l).isNan = false) ∧
      (∀ l ∈ c.active 7, c.helper l = false →
        (decodeNum bf16 ((c.gang.src32 4 l).toNat % 2 ^ bf16.width)).isNan = false ∧ ¬((c.slot 0).scaleSrc = 2 ∧ 0 = 255)) ∧
      (∀ l ∈ c.active 7, c.helper l = false → (decodeNum fp32 ((c.gang.src32 4 l).toNat % 2 ^ fp32.width)).isNan = false)) ∧
    (oX 0).x.imm = 0 ∧ ({ (oX 0).x with imm := 1 } : XA).imm ≠ 0 :=
  ⟨rfl, rfl, has (by decide), by decide, by decide⟩

theorem witness_MoveResults : Has tS (fun c => w64 (oX 2).x.ty = false ∧ w64 (oX 3).x.ty = true ∧ 96 ≤ oU.d.toNat ∧
    96 ≤ oU.a.toNat ∧ c.gang.qpred oU.g.toNat = true) ∧ (∃ f, exchange (.qxchH (oX 2)) = some (oX 2, f)) :=
  ⟨has (by decide), ⟨_, rfl⟩⟩

theorem witness_ReductionResults : (∃ e op, combineInt (.vreduceAdd (oX 2)) = some (oX 2, true, e, op)) ∧
    (∃ e op, combineFloat (.vreduceFmin (oX 8)) = some (oX 8, true, e, op)) ∧
    (∃ e op, combineFloat (.vscanFadd (oX 8)) = some (oX 8, false, e, op)) ∧ w64 (oX 8).x.ty = false ∧ w64 (oX 3).x.ty = true ∧
    Has tS (fun c => c.width ≤ 64 ∧ contributors c (oX 2) = List.range 64) :=
  ⟨⟨_, _, rfl⟩, ⟨_, _, rfl⟩, ⟨_, _, rfl⟩, by decide, by decide, has (by decide)⟩

theorem witness_WideFormResults : (0x1E < 0x1F ∧ tyWidth 7 = 64) ∧ (0 < 0x1F ∧ tyWidth 13 < 64) ∧
    (0x20 ≤ 0x20 ∧ 0x20 ≠ 0x46 ∧ 0x20 ≠ 0x47) ∧ Has tS (fun c => c.active 7 ≠ []) :=
  ⟨by decide, by decide, by decide, has (by decide)⟩

theorem witness_UniformPipeResults : (∃ f, uniInt (.uadd oU) = some (oU, f)) ∧
    Has tS (fun c => 96 ≤ oU.d.toNat ∧ c.gang.qpred oU.g.toNat = true) :=
  ⟨⟨_, rfl⟩, has (by decide)⟩

theorem witness_FalseGuardOnlyRetires : uniGuard (.uadd { oU with g := 0 }) = some (0, 1) ∧
    uniGuard (.calll { g := 0, rsvd := 0, d64 := 0 }) = some (0, 3) ∧ Has tS (fun c => c.gang.qpred (0 : BitVec 3).toNat = false) :=
  ⟨rfl, rfl, has (by decide)⟩

theorem witness_JumpAndCallResults : (∃ f, jumpTo (.br { g := 7, disp := -1 }) = some (7, f)) ∧
    (∃ f, callTo (.calll { g := 7, rsvd := 0, d64 := 0 }) = some (7, 3, 127, f)) ∧ 96 ≤ 127 ∧ 96 ≤ linkField 0 ∧
    96 ≤ linkField 96 ∧ Has tS (fun c => c.gang.qpred (7 : BitVec 3).toNat = true) :=
  ⟨⟨_, rfl⟩, ⟨_, rfl⟩, by decide, by decide, by decide, has (by decide)⟩

theorem tS_quads : Has tS (fun c => c.frag.quads ≠ [] ∧ c.frag.quads.Nodup ∧ ∀ q ∈ c.frag.quads, q < 16) := has (by decide)

theorem witness_PathResults :
    -- BRA under p7 and under p0, which is false; then REGANG and EXIT with stacks that hold an entry, and with none
    Has tS (fun c => (∀ q ∈ c.frag.quads, branching c 7 q = (c.gang.quad q).mask) ∧ ∀ q ∈ c.frag.quads, branching c 0 q = 0) ∧
    Has (onGang (fun g => { g with p := g.p.set 0 1 }) tS) (fun c => branching c 0 0 ≠ 0 ∧ branching c 0 0 ≠ (c.gang.quad 0).mask ∧
      ∀ q ∈ c.frag.quads, branching c 0 q ≠ 0 → branching c 0 q ≠ (c.gang.quad q).mask → (c.gang.quad q).stack.length < 32) ∧
    Has (withStack true none tS) (fun c => ∀ q ∈ c.frag.quads, ∀ e ∈ (c.gang.quad q).stack.head?, e.phase = true →
      pops c.frag.pc e = true) ∧
    Has (withStack false none tS) (fun c => c.gang.qpred (7 : BitVec 3).toNat = true ∧
      ∃ q ∈ c.frag.quads, (((c.gang.quad q).stack.dropWhile (fun e => e.phase && e.join.isNone)).head?).map MaskEntry.phase = some false) ∧
    Has tS (fun c => (∀ q ∈ c.frag.quads, (c.gang.quad q).stack = []) ∧ ∀ f ∈ c.gang.frags, f.id = c.frag.id) ∧
    Has (onGang (fun g => { g with frags := g.frags ++ g.frags.map (fun f => { f with id := 1 }) }) tS) (fun c =>
      (∀ q ∈ c.frag.quads, (c.gang.quad q).stack = []) ∧ ∃ f ∈ c.gang.frags, f.id ≠ c.frag.id ∧ f.state ≠ .regangWait) :=
  ⟨has (by decide), has (by decide), has (by decide), has (by decide), has (by decide), has (by decide)⟩

theorem witness_SpecialRegisterResults :
    Has tS (fun c => c.gang.qpred (7 : BitVec 3).toNat = true ∧ sregOf 0 8 = some .dix ∧ special tS c none .dix = some 0 ∧
      sregOf 0 0 = some .lane ∧ (∀ l ∈ c.active 7, special tS c (some l) .lane = some (BitVec.ofNat 64 l)) ∧
      (∀ l ∈ c.active 7, special tS c (some l) (.m 0) = some 0) ∧ sregOf 1 0 = some (.m 0) ∧
      sregOf 0 18 = some .hlc ∧ (special tS c none .hlc).isSome = true) ∧
    Has (setG 96 15 tS) (fun c => sregOf 0 17 = some .fsticky ∧ (c.gang.rdG 96).toNat < 16) ∧
    Has tS (fun c => sregOf 0 32 = some (.smap 0) ∧ c.smapOk 0 (c.gang.rdG 96) = true ∧ smapLen c.grp.smap[0] = 0) ∧
    Has (setG 96 8191 tS) (fun c => sregOf 0 40 = some .mcast ∧ (c.gang.rdG 96).toNat < 2 ^ 13) ∧
    Has tS (fun c => sregOf 0 48 = some (.tcbind 0) ∧ tS.tcbindOk c 0 (c.gang.rdG 96) = true) ∧
    sregOf 0 59 = some (.rready 3) ∧ sregOf 0 63 = some (.rpend 3) ∧ sregOf 1 7 = some (.m 7) :=
  ⟨has (by decide), has (by decide), has (by decide), has (by decide), has (by decide), by decide, by decide, by decide⟩

theorem witness_TrapAndReturnResults : Has (onFrag (fun f => { f with handler := true }) tS) (fun c =>
    c.gang.qpred (7 : BitVec 3).toNat = true ∧ c.frag.handler = true) := has (by decide)

def tTraced : State := tS.updFn Config.physFn (fun f => { f with trcEn := true, trcKinds := 1, trcSize := 6 })

theorem witness_SystemResults :
    Has tS (fun c => c.gang.qpred oU.g.toNat = true ∧ 96 ≤ oU.d.toNat ∧ c.gang.rdG oU.a.toNat = 0 ∧ tS.depComplete c.lau = true ∧
      tS.loadsOut c.who.gid c.who.gang = false ∧ c.otherMonitors = false ∧ (tS.fn c.lau.func).trcEn = false) ∧
    Has (setG 97 (2 ^ 20 + 1) tS) (fun c => c.gang.rdG oU.a.toNat ≠ 0 ∧ c.frag.grant ≠ some .passed) ∧
    Has (onLau (fun l => { l with dep := some 0 }) tS) (fun c => (onLau (fun l => { l with dep := some 0 }) tS).depComplete c.lau = false) ∧
    Has (onFrag (fun f => { f with grant := some .passed }) tS) (fun c => c.grp.lines = [] ∧ c.frag.grant = some .passed ∧
      c.gang.triggered = false) ∧
    Has (onGang (fun g => { g with triggered := true }) (onFrag (fun f => { f with grant := some .passed }) tS)) (fun c =>
      c.frag.grant = some .passed ∧ c.gang.triggered = true) ∧
    Has (setG 97 1 tTraced) (fun c => (tTraced.fn c.lau.func).trcEn = true ∧ (tTraced.fn c.lau.func).trcKinds % 2 = 1 ∧
      c.gang.rdG oU.a.toNat ≠ 0 ∧ ∃ r ∈ (tTraced.fn c.lau.func).rings.toList.head?,
        2 ≤ 2 ^ (tTraced.fn c.lau.func).trcSize - (r.tail + 2 ^ 32 - r.head) % 2 ^ 32) :=
  ⟨has (by decide), has (by decide), has (by decide), has (by decide), has (by decide), has (by decide)⟩
/-! ### Memory: a partition of four pages, one translated page, a window, what the read buffers hold -/

/-- An access word: mode 0, or mode 2 for a uniform form. -/
def oM (mode : BitVec 2) (ty : BitVec 4) (subf : BitVec 4) (ord : BitVec 2) : LM :=
  { w := { g := 7, d := 8, a := 97, b := 0 }, x := { c := 16, subf := subf, ord := ord, ty := ty, mode := mode, addr := 0 } }
def oMu (ty : BitVec 4) : LM := { oM 2 ty 0 0 with w := { g := 7, d := 96, a := 97, b := 0 } }

/-- A page in the shared caches of dies 0 and 3 and of the IO die. -/
def tPage : Tlb :=
  { cache := 192, lvl := 4, func := Config.physFn, aspace := 0, page := 0, pa := 2 ^ 30, r := true, w := true, x := false }
def tPages : List Tlb := [tPage, { tPage with cache := 195 }, { tPage with cache := 196 }]
/-- With the base at the aperture's start, at the first global address, and just past the partition. -/
def tStash : State := setG 97 Config.localBase (onLau (fun l => { l with rcd := { l.rcd with stash4k := 4 } }) tS)
def tGlobal : State := { tS with tlb := tPages }
def tPast : State := setG 97 (Config.localBase + 16384) tStash
/-- A window of one page of stash at offset 0 for the addresses from 4096; its first line leased until tick 1. -/
def winReg : Reg := BitVec.ofNat 64 (1 * 2 ^ 19 + 1 * 2 ^ 3)
def tWindow (lines : SMap SLine) : State :=
  setG 97 4096 { onGrp (fun g => { g with smap := g.smap.set 0 winReg, lines := lines }) tStash with tlb := tPages }
def tLine (own : Bool) (lease : Nat) : SLine := { id := 0, pa := 2 ^ 30 + 4096, own := own, lease := lease, dirty := [] }

/-- What an access's checks end in. -/
def goes (p : Prep) (ok : Acc → Bool) : Bool :=
  match p with
  | .go as => !as.isEmpty && as.all ok
  | _ => false
def stops (p : Prep) : Bool :=
  match p with
  | .bad _ _ => true
  | _ => false
def walks (p : Prep) : Bool :=
  match p with
  | .walk _ => true
  | _ => false
def isStash : Route → Bool
  | .stash 0 _ => true
  | _ => false
def isHome : Route → Bool
  | .home pa => regionOf pa == 0
  | _ => false
def isWindow : Route → Bool
  | .window _ pa => regionOf pa == 0
  | _ => false

/-- The instruction is ready, with its guard, SKIP bit, limit and wrap. -/
def ready (m : MemForm) (s : State) (c : Ctx) : Bool :=
  (m.lane || c.gang.qpred m.o.w.g.toNat) && !c.frag.skip.getLsbD 0 && !s.memFull c && (c.wrapFn m.o.x (c.gang.rdG m.o.w.a.toNat)).isSome
def runs (i : Instr) (s : State) (ok : Route → Bool) (c : Ctx) : Bool :=
  (memForm i).any (fun m => ready m s c && goes (m.checks s c id) (fun a => ok a.route))

/-- A part of a request of the small states' gang, and the request of one part. -/
def tPart (ins pa : Nat) : ReqPart :=
  { who := some tW, pc := 0, ins := ins, lane := 0, dst := 8, va := 0, pa := pa, off := 0, data := [1, 2, 3, 4], opnd := 0, cmp := 0, pre := [] }
def tReq (id pa : Nat) (kind : ReqKind) (stage : ReqStage) : Req :=
  { id := id, ins := id, who := some tW, func := 256, aspace := 0, kind := kind, parts := [tPart id pa], total := 5, marker := 0
    stage := stage, old := 9, det := false }
def tFull : State := { tStash with reqs := (List.range 32).map (fun i => tReq i (64 * i) (.load 4 false .readBuffer) .flight) }

theorem witness_AccessChecks :
    Has (setG 97 1 tStash) (fun c => stops (State.prep tStash c 4 .read laneMask [(0, 1)]) = true ∧ 1 % 4 ≠ 0 ∧ c.helper 0 = false) ∧
    Has tPast (fun c => inAperture (Config.localBase + 16384) = true ∧ tPast.aperture c (Config.localBase + 16384) 4 = none) ∧
    Has tS (fun c => inAperture 0 = false ∧ tS.xl c.core c.lau.func c.lau.aspace 0 .read = .miss ∧ c.frag.grant = none) ∧
    Has tStash (fun c => goes (tStash.prep c 4 .read laneMask [(0, Config.localBase + 16380)]) (fun a => isStash a.route) = true) ∧
    -- what the checks end in, of LD.N32 by lanes and ST.N8 uniform
    Has (onFrag (fun f => { f with skip := 1 }) tStash) (fun c => c.frag.skip.getLsbD 0 = true ∧
      (memForm (.ldN32Lane (oM 0 0 0 0))).any (fun m => m.lane && (c.wrapFn m.o.x (c.gang.rdG 97)).isSome) = true) ∧
    Has (setG 97 1 tStash) (fun c => (memForm (.ldN32Lane (oM 0 0 0 0))).any (fun m =>
      ready m (setG 97 1 tStash) c && stops (m.checks (setG 97 1 tStash) c id)) = true) ∧
    Has tS (fun c => (memForm (.stN8Uniform (oM 2 0 0 0))).any (fun m => ready m tS c && walks (m.checks tS c id)) = true) ∧
    Has tFull (fun c => c.frag.skip.getLsbD 0 = false ∧ tFull.memFull c = true) :=
  ⟨has (by decide), has (by decide), has (by decide), has (by decide), has (by decide), has (by decide), has (by decide),
    has (by decide)⟩

theorem witness_LaneLoadResults :
    laneLd (.ldI16Lane (oM 0 0 0 0)) = some (oM 0 0 0 0, 2, true) ∧ 96 ≤ (oM 0 0 0 0).w.a.toNat ∧
    Has tStash (fun c => runs (.ldI16Lane (oM 0 0 0 0)) tStash isStash c = true) ∧
    Has tGlobal (fun c => runs (.ldN128Lane (oM 0 0 0 0)) tGlobal isHome c = true) ∧
    -- what is served at once: a leased and an owned line, one whose lease has ended, the read buffer's copy before and after it
    Has (tWindow [(0, tLine false 1)]) (fun c => ∃ l, c.grp.lines.find (0 / 64) = some l ∧ l.own = false ∧ 0 < l.lease ∧
      runs (.ldN32Lane (oM 0 0 0 0)) (tWindow [(0, tLine false 1)]) isWindow c = true) ∧
    Has (tWindow [(0, tLine true 0)]) (fun c => ∃ l, c.grp.lines.find (0 / 64) = some l ∧ l.own = true) ∧
    Has (tWindow [(0, tLine false 0)]) (fun c => ∃ l, c.grp.lines.find (0 / 64) = some l ∧ l.own = false ∧ l.lease ≤ 0) ∧
    Has (onCore (fun k => { k with rbuf := [(rbufTag 256 0 (2 ^ 24), 1)] }) tGlobal) (fun c =>
      (onCore (fun k => { k with rbuf := [(rbufTag 256 0 (2 ^ 24), 1)] }) tGlobal).now < 1 ∧
      (onCore (fun k => { k with rbuf := [(rbufTag 256 0 (2 ^ 24), 1)] }) tGlobal).ownWrite c.who.gid c.who.gang (lineOf (2 ^ 30)) = false) :=
  ⟨rfl, by decide, has (by decide), has (by decide), ⟨_, rfl, _, rfl, by decide, by decide, by decide⟩,
    ⟨_, rfl, _, rfl, by decide⟩, ⟨_, rfl, _, rfl, by decide, by decide⟩, has (by decide)⟩

theorem witness_StoreResults : laneSt (.stN64Lane (oM 0 0 0 0)) = some (oM 0 0 0 0, 8) ∧
    uniSt (.stN8Uniform (oM 2 0 0 0)) = some (oM 2 0 0 0, 1) ∧
    Has tStash (fun c => runs (.stN64Lane (oM 0 0 0 0)) tStash isStash c = true) ∧
    Has tGlobal (fun c => runs (.stN8Uniform { oM 2 0 0 0 with x := { (oM 2 0 0 0).x with c := 98 } }) tGlobal isHome c = true) ∧
    Has (tWindow []) (fun c => runs (.stN32Lane (oM 0 0 0 0)) (tWindow []) isWindow c = true ∧ c.grp.lines = []) :=
  ⟨rfl, rfl, has (by decide), has (by decide), has (by decide)⟩

theorem witness_UniformLoadResults : uniLd (.ldI32Uniform (oMu 0)) = some (oMu 0, 4, true) ∧ 96 ≤ (oMu 0).w.d.toNat ∧
    Has tStash (fun c => runs (.ldI32Uniform (oMu 0)) tStash isStash c = true) ∧
    Has tGlobal (fun c => runs (.ldI32Uniform (oMu 0)) tGlobal isHome c = true ∧
      tGlobal.servedNow c { lane := 64, va := 0, route := .home (2 ^ 30) } 0 4 = none) ∧
    -- PREF with a wrap that is allowed; LDC of a line in the constant buffer and of one that is not
    Has tS (fun c => c.frag.skip.getLsbD 0 = false ∧ (c.wrapFn (oM 0 0 0 0).x (c.gang.rdG 97)).isSome = true ∧
      (c.wrapFn { (oM 0 0 0 0).x with addr := 4096 } (c.gang.rdG 97)).isSome = false) ∧
    Has tGlobal (fun c => (tGlobal.core c.core).constLine c.lau.func c.lau.aspace (2 ^ 24) c.lau.start = none ∧
      (({ (tGlobal.core c.core) with cbuf := [{ func := 256, aspace := 0, line := 2 ^ 24, readAt := 1, data := [] }] } : Core).constLine
        c.lau.func c.lau.aspace (2 ^ 24) c.lau.start).isSome = true ∧
      ready { o := oMu 5, size := 2, acc := .read, lane := false } tGlobal c = true) :=
  ⟨rfl, by decide, has (by decide), has (by decide), has (by decide), has (by decide)⟩

theorem witness_AtomicResults : laneAtomOp (.atomAddLane (oM 0 6 0 3)) = some (oM 0 6 0 3, 0) ∧
    uniAtomOp (.atomCasUniform (oMu 3)) = some (oMu 3, 8) ∧
    Has tStash (fun c => runs (.atomAddLane (oM 0 6 0 3)) tStash isStash c = true ∧ (oM 0 6 0 3).x.ord.getLsbD 1 = true ∧
      c.grp.lines = [] ∧ tStash.unsettled c.who.gid c.who.gang = false ∧ c.gang.wct ≤ tStash.now) ∧
    Has tGlobal (fun c => runs (.atomCasUniform (oMu 3)) tGlobal isHome c = true) :=
  ⟨rfl, rfl, has (by decide), has (by decide)⟩

/-- A slice whose monitor table is full. -/
def tMon : Monitor := { slice := tGlobal.homeOf (2 ^ 24), who := .frag { tW with frag := 1 }, since := 0, func := 256, pa := 0, ty := 2, rel := 0, value := 1 }
def tMons : State := { tGlobal with monitors := List.replicate 256 tMon }

theorem witness_WaitAndFenceResults :
    Has (onFrag (fun f => { f with grant := some (.pred false) }) tS) (fun c => c.frag.grant = some (.pred false) ∧ c.lau.rcd.det = false) ∧
    Has tGlobal (fun c => c.frag.grant = none ∧ ready { o := oMu 3, size := 8, acc := .read, lane := false } tGlobal c = true ∧
      (tGlobal.recOf (lineOf (2 ^ 30))).owner = none ∧ rel 0 (tGlobal.readVis (2 ^ 30) 8) 0 = true ∧ rel 1 (tGlobal.readVis (2 ^ 30) 8) 0 = false) ∧
    Has tMons (fun _ => Config.monitorsPerSlice ≤ (tMons.monitors.filter (fun x => x.slice == tMons.homeOf (2 ^ 24))).length) ∧
    Has tS (fun c => c.grp.lines = [] ∧ tS.loadsOut 0 0 = false ∧ tS.unsettled 0 0 = false ∧ c.gang.wct ≤ tS.now ∧
      tS.stashOut 0 0 = false ∧ c.otherMonitors = false ∧ c.frag.grant ≠ some .passed) ∧
    Has { tS with reqs := [tReq 0 0 (.own 0 0) .flight] } (fun c => c.grp.lines = [] ∧ c.frag.grant ≠ some .passed ∧
      ({ tS with reqs := [tReq 0 0 (.own 0 0) .flight] } : State).unsettled 0 0 = true ∧
      ({ tS with reqs := [tReq 0 0 (.own 0 0) .flight] } : State).stashOut 0 0 = true) ∧
    Has tFull (fun _ => tFull.loadsOut 0 0 = true) ∧
    Has (onGang (fun g => { g with wct := 1 }) tS) (fun c => tS.now < c.gang.wct) :=
  ⟨has (by decide), has (by decide), has (by decide +kernel), has (by decide), has (by decide), has (by decide), has (by decide)⟩
/-! ### Units: the code store, handles, the matrix engine, the engine, synchronisation -/

def onEntry (f : ResEntry → ResEntry) : State → State := onCore (fun k => k.setRes 0 (f (k.res 0)))

theorem witness_CodeInstructionResults :
    -- HOIST at address 0: of the loaded overlay; of one that must be loaded; NO_CODE; BAD_OVERLAY; a revoked module
    Has tS (fun c => tS.bindingAt c.lau.func c.lau.aspace 0 = some (0, 0) ∧ overlayHere (tS.modl 0) 0 4096 = true ∧
      (tS.modl 0).state = 1 ∧ (tS.fn c.lau.func).trcEn = false ∧ (tS.core 0).slotAt 0 0 = some 0 ∧ ((tS.core 0).res 0).state ≠ 4 ∧
      ((tS.core 0).res 0).counts c.lau.func = true ∧ hoistLen c { oX 0 with w := { (oX 0).w with b := 0 } } = 4096) ∧
    Has (onEntry (fun _ => ResEntry.free) tS) (fun c =>
      let s := onEntry (fun _ => ResEntry.free) tS
      (s.core 0).slotAt 0 0 = none ∧ (s.core 0).freeSlot = some 0 ∧ (s.core 0).freeRun 1 = some 0 ∧
        (s.core 0).useOf c.lau.func none + 1 ≤ (s.fn c.lau.func).quota) ∧
    Has tS (fun c => tS.bindingAt c.lau.func c.lau.aspace 4096 = none ∧ overlayHere (tS.modl 0) 0 8192 = false) ∧
    Has (tS.setModl 0 { loadedModule [] with state := 2 }) (fun c =>
      ((tS.setModl 0 { loadedModule [] with state := 2 }).modl 0).state ≠ 1 ∧
      (tS.setModl 0 { loadedModule [] with state := 2 }).bindingAt c.lau.func c.lau.aspace 0 = some (0, 0)) ∧
    -- tokens: 0 names slot 0, 5 names nothing; the entry in each state; pins at their limits
    Has tS (fun c => (tS.core c.core).tokenSlot 5 = none ∧ (tS.core c.core).tokenSlot 0 = some 0 ∧ ((tS.core c.core).res 0).state = 2 ∧
      tS.unused c.core 0 = false ∧ c.gang.pins.length < 16 ∧ ((tS.core c.core).res 0).pins < 32767 ∧ c.gang.pinCount 0 = 0) ∧
    Has (onEntry (fun e => { e with state := 1 }) tS) (fun c => ((onEntry (fun e => { e with state := 1 }) tS).core c.core).tokenSlot 0 = some 0) ∧
    Has (onEntry (fun e => { e with state := 3, pins := 32767 }) tS) (fun c =>
      ((onEntry (fun e => { e with state := 3, pins := 32767 }) tS).core c.core).tokenSlot 0 = some 0 ∧
      32767 ≤ (((onEntry (fun e => { e with state := 3, pins := 32767 }) tS).core c.core).res 0).pins) ∧
    Has (onEntry (fun e => { e with state := 4, fail := some .notPresent }) tS) (fun c =>
      ((onEntry (fun e => { e with state := 4, fail := some .notPresent }) tS).core c.core).tokenSlot 0 = some 0) ∧
    Has (onGang (fun g => { g with pins := (List.range 16).map (fun i => (i + 1, 1)) }) tS) (fun c =>
      c.gang.pinCount 0 = 0 ∧ 16 ≤ c.gang.pins.length ∧ c.gang.pinCount 16 ≠ 0) ∧
    -- the store unused by any fragment
    (onEntry (fun e => { e with state := 2 }) { tS with groups := [] }).unused 0 0 = true ∧
    -- a dictionary in the core's store, at both halves of a word, and none
    Has (onCore (fun k => { k with dicts := k.dicts.set 0 { launch := some 0, words := [5] } }) tS) (fun c =>
      (onCore (fun k => { k with dicts := k.dicts.set 0 { launch := some 0, words := [5] } }) tS).dictEntry c 0 = some 5 ∧ c.frag.pc.toNat % 4 = 0) ∧
    Has (onFrag (fun f => { f with pc := 2 }) tS) (fun c => c.frag.pc.toNat % 4 ≠ 0 ∧ tS.dictEntry c 0 = none) :=
  ⟨has (by decide), has (by decide), has (by decide), has (by decide), has (by decide), has (by decide), has (by decide),
    has (by decide), has (by decide), by decide, has (by decide), has (by decide)⟩

theorem witness_HandleResults : Has tS (fun c => 96 ≤ oU.d.toNat ∧ c.gang.qpred oU.g.toNat = true ∧ c.gang.h[15]? = some Handle.zero) ∧
    -- HSET: words it takes (g97 1, g98 1 row by 1 column, g99 0) and words it refuses (all zeros), free and in use
    Has (setG 99 (2 ^ 20 + 1) tS) (fun c =>
      (c.gang.rdG 98).toNat < 2 ^ 57 ∧ (c.gang.rdG 99).toNat < 2 ^ 40 ∧ (c.gang.rdG 99).toNat / 2 ^ 20 ≠ 0 ∧
      (c.gang.rdG 99).toNat % 2 ^ 20 ≠ 0 ∧ (c.gang.rdG 97).toNat % 4 = 0 ∧
      ((tS.core c.core).rsvs.any (fun r => r.names c.who 15) || c.grp.tapBlocks.any (fun b => b.names c.who 15)) = false) ∧
    Has tS (fun c => ¬(c.gang.rdG 99).toNat % 2 ^ 20 ≠ 0) :=
  ⟨has (by decide), has (by decide), has (by decide)⟩

/-- Words in the partition, from an offset on. -/
def stashWords (ws : List Nat) : State → State :=
  onGrp (fun g => { g with stash := Memory.write g.stash 0 (ws.flatMap (toLE 8)) })

/-- A walk program of one run of 16 bytes at offset 0; one with an index at 0; their window of a page at 4096. -/
def tWin : State → State := onGang (fun g => { g with m := g.m.set 0 (BitVec.ofNat 64 (4096 + 4096 * 2 ^ 32)) })
def tRun : State := tWin (stashWords [4 * 2 ^ 60 + 15 * 2 ^ 44, 0] tStash)
def tIndexed : State := tWin (stashWords [1 * 2 ^ 60, 3 * 2 ^ 60 + 64, 4 * 2 ^ 60 + 15 * 2 ^ 44, 0] tStash)
/-- A command whose words are all in registers of value 0, but gA and the count of TW.RED. -/
def oC (sub : BitVec 7) (ty : BitVec 4) : LX :=
  { w := { g := 7, d := 96, a := 97, b := 98 }, x := { c := 99, slot := 0, rnd := 0, sat := 0, sub := sub, ty := ty, imm := 0 } }
def tCmd (id : Nat) : Cmd :=
  { id := id, stage := .queued, op := 0x50, who := tW, pc := 0, quads := [0], dix := 0, words := (0, 0), ga := 0, gw := 0, gc := 0
    win := (0, 0), prog := [], pos := 0, batch := 0, ctx := .engine 0, number := id, ins := 0, wct := 0, err := none, addr := 0
    flags := 0, due := 0, copies := [], data := [], idx := [], hosts := [], parked := false }
def tQueued (n : Nat) : State → State := onCore (fun k => { k with queue := (List.range n).map tCmd })

theorem witness_EngineIssueResults :
    Has tRun (fun c => (cmdFor c (.twLoad (oC 0 0))).isSome = true ∧ (cmdFor c (.twMcast (oC 0 0))).isSome = true ∧
      (cmdFor c (.twStore (oC 0 0))).isSome = true ∧ (tRun.core c.core).waitingCmds < Config.engineQueue) ∧
    Has (setG 97 1 tRun) (fun c => (cmdFor c (.twRed (oC 0 2))).isSome = true) ∧
    Has tIndexed (fun c => (cmdFor c (.twGather (oC 0 0))).isSome = true) ∧
    Has (onLau (fun l => { l with rcd := { l.rcd with accRows := 1 } }) tRun) (fun c => (cmdFor c (.twStore (oC 1 8))).isSome = true ∧
      (c.grp.accRowsOf c.accRows { tCmd 0 with op := 0x51 }).any c.grp.tapOwns = false) ∧
    Has (tQueued 16 tRun) (fun c => Config.engineQueue ≤ ((tQueued 16 tRun).core c.core).waitingCmds) ∧
    Has tS (fun c => c.walkProg (c.gang.rdG 98) = none) :=
  ⟨has (by decide), has (by decide), has (by decide), has (by decide), has (by decide), has (by decide)⟩

/-- Four accumulator rows, and format 3 in slot 0; g98 holds one row of a pass. -/
def tMatrix : State := setG 98 1 (onGrp (fun g => { g with slots := g.slots.set 0 { FmtSlot.zero with w0 := 3 } })
  (onLau (fun l => { l with rcd := { l.rcd with accRows := 4 } }) tStash))
def oP : LX := { w := { g := 7, d := 96, a := 99, b := 98 }, x := { c := 5, slot := 0, rnd := 0, sat := 0, sub := 0, ty := 0, imm := 0 } }
def postsIn (s : State) (c : Ctx) (i : Instr) : Bool :=
  match postFor s c i with
  | some (_, .ok (_, .inr _)) => true
  | _ => false
def postStops (s : State) (c : Ctx) (i : Instr) : Bool :=
  match postFor s c i with
  | some (_, .error (.bad _ _)) => true
  | _ => false

/-- MM.SPASS's metadata in v5 of every lane: two groups of indices 0 to 3, of a 64-column pass. -/
def tSparse : State := setG 99 (6 * 2 ^ 40) (onGang (fun g => { g with
  v := (List.range 64).map (fun l => (5 * 64 + l, BitVec.ofNat 32 (1672 * 4097))) }) tMatrix)

def tStored : State := setG 98 (8 * 2 ^ 20 + 1) (setG 99 Config.localBase tMatrix)

theorem witness_MatrixResults :
    Has tMatrix (fun c => postsIn tMatrix c (.mmPass oP) = true ∧ tMatrix.tableUse c.core < Config.reservations ∧
      (c.grp.slotOf (c.gang.handle 0)).ok = true ∧ (c.grp.slotOf (c.gang.handle 0)).fmt ≠ 0 ∧ (c.grp.slotOf (c.gang.handle 0)).fmt ≠ 2 ∧
      (c.grp.slotOf (c.gang.handle 0)).dupBase = 0) ∧
    Has tSparse (fun c => postsIn tSparse c (.mmSpass oP) = true) ∧
    Has tStash (fun c => postStops tStash c (.mmPass oP) = true ∧ (c.grp.slotOf (c.gang.handle 0)).ok = true ∧
      (c.grp.slotOf (c.gang.handle 0)).fmt = 0) ∧
    Has (onGrp (fun g => { g with slots := g.slots.set 0 FmtSlot.unread }) tStash) (fun c => (c.grp.slotOf (c.gang.handle 0)).ok = false ∧
      (c.slot 0).ok = false) ∧
    -- MM.ZERO of one row and of more than there are; MM.STORE of one row of 8 columns to the partition, and misaligned
    Has tMatrix (fun c => (c.gang.rdG 99).toNat < 1024 ∧ (c.gang.rdG 98).toNat % 512 = 1 ∧ c.accRows = 4 ∧
      c.grp.tapHolds 0 1 1 (BitVec.allOnes 256) = false ∧ tMatrix.passOver c 0 1 1 (BitVec.allOnes 256) = false ∧
      c.grp.tcbind.toList = List.replicate 8 0 ∧ tMatrix.groups.map (fun g => g.2.tcbind.toList) = [List.replicate 8 0]) ∧
    Has (setG 98 5 tMatrix) (fun c => c.accRows < 0 + (c.gang.rdG 98).toNat % 512) ∧
    Has tStored (fun c => (c.gang.rdG 99).toNat % 4 = 0 ∧ (c.gang.rdG 98).toNat / 2 ^ 32 % 4 = 0 ∧ (c.slot 0).ok = true ∧
      (c.slot 0).block = 0 ∧ (c.slot 0).nan ≠ 2 ∧ (c.gang.rdG 98).getLsbD 9 = false ∧ 8 * (c.slot 0).bits % 32 = 0 ∧
      inAperture (c.gang.rdG 99).toNat = true ∧
      tStored.localSpan c.who.gid (c.gang.rdG 99).toNat (8 * (c.slot 0).bits / 8) = some (c.who.gid, 0)) ∧
    Has (setG 99 2 tMatrix) (fun c => (c.gang.rdG 99).toNat % 4 ≠ 0) :=
  ⟨has (by decide), has (by decide), has (by decide), has (by decide), has (by decide), has (by decide), has (by decide), has (by decide)⟩

/-- The reservation table full: thirty-two posted passes of the small state. -/
def tPosted (n : Nat) : State := match tMatrix.ctx with
  | some c => match tMatrix.mkPass c 0x43 oP with
    | .ok (s, .inr r) => onCore (fun k => { k with rsvs := List.replicate n r }) s
    | _ => tMatrix
  | none => tMatrix

theorem witness_MatrixTableFull : Has (tPosted 32) (fun c => postsIn (tPosted 32) c (.mmPass oP) = true ∧
      Config.reservations ≤ (tPosted 32).tableUse c.core) ∧
    Has (tPosted 1) (fun c => (tPosted 1).passOver c 0 1 1 (BitVec.allOnes 256) = true ∧
      ((tPosted 1).core c.core).rsvs.any (fun r => r.names c.who 0) = true) :=
  ⟨has (by decide), has (by decide)⟩

theorem witness_PermitResult : (4095 : Nat) < 4096 ∧
    Has tS (fun c => c.grp.halyardAt 7 + c.grp.permitsFor 7 + 4095 ≤ 4095 ∧ tS.loadsBefore c.who.gid c.who.gang tS.nextIns = false) ∧
    Has (onGrp (fun g => { g with halyard := g.halyard.set 7 4095 }) tS) (fun c => 4095 < c.grp.halyardAt 7 + c.grp.permitsFor 7 + 1) ∧
    Has { tFull with nextIns := 32 } (fun c => ({ tFull with nextIns := 32 } : State).loadsBefore c.who.gid c.who.gang 32 = true) :=
  ⟨by decide, has (by decide), has (by decide), has (by decide)⟩

/-- Batches 1 to n with one unfinished command each. -/
def tBatches (n : Nat) : State := onGang (fun g => { g with
  batchNo := n, batches := (List.range n).map (fun i => { no := i + 1, cmds := [(.engine 0, i + 1)] }) }) tS

theorem witness_SynchronisationResults :
    Has tS (fun c => (tS.openBatches c.gang).length < 8 ∧ tS.batchWaits c.gang 0 = false) ∧
    Has (tBatches 8) (fun c => 8 ≤ ((tBatches 8).openBatches c.gang).length ∧ (tBatches 8).batchWaits c.gang 1 = true) ∧
    -- barriers: below EXPECTED, at it, with the phase the same and not
    Has (onGrp (fun g => { g with bars := g.bars.set 15 { Barrier.zero with expected := 2 } }) tS) (fun c =>
      ∃ b ∈ c.grp.bars[15]?, b.arrived.toNat + 1 < 4096 ∧ b.arrived.toNat + 1 < b.expected.toNat ∧ b.phase = (c.gang.rdG 96).getLsbD 0) ∧
    Has (onGrp (fun g => { g with bars := g.bars.set 15 { Barrier.zero with expected := 1, phase := true } }) tS) (fun c =>
      ∃ b ∈ c.grp.bars[15]?, b.expected ≠ 0 ∧ b.expected.toNat ≤ b.arrived.toNat + 1 ∧ b.phase ≠ (c.gang.rdG 96).getLsbD 0) ∧
    Has tS (fun c => tS.stashOut c.who.gid c.who.gang = false ∧ c.lau.rcd.det = false) ∧
    -- timelines: a core's engine at COUNT 0, disabled, and a mirror word of the translated page
    Has (setG 96 1 (onGrp (fun g => { g with tcbind := g.tcbind.set 0 16 }) tS)) (fun c => c.grp.tcbind[0]? = some 16 ∧
      boundCtx c.lau.func c.who.gid 16 = some (.engine 0) ∧ (tS.counter (.engine 0)).count < (c.gang.rdG 96).toNat ∧
      (c.gang.rdG 98).toNat ≤ (tS.counter (.engine 0)).count) ∧
    Has tS (fun c => c.grp.tcbind[7]? = some 0 ∧ boundCtx c.lau.func c.who.gid 0 = none ∧ (0 : Reg).toNat / 16 % 16 ≠ 5) ∧
    Has (onGrp (fun g => { g with tcbind := g.tcbind.set 0 0x50 }) tGlobal) (fun c => boundCtx c.lau.func c.who.gid 0x50 = none ∧
      (0x50 : Reg).toNat / 16 % 16 = 5 ∧ c.frag.grant = none ∧ goes (tGlobal.mirrorAcc c 0x50) (fun a => isHome a.route) = true ∧
      (tGlobal.recOf (lineOf (2 ^ 30))).owner = none ∧ 0 ≤ tGlobal.readVis (2 ^ 30) 8 ∧ tGlobal.readVis (2 ^ 30) 8 < 1) :=
  ⟨has (by decide), has (by decide), has (by decide), has (by decide), has (by decide), has (by decide), has (by decide), has (by decide)⟩
/-! ### Tap points, gain queues, page lists -/

/-- The page at address 0 holds 64-bit words from its offset 4096 on. -/
def pageWords (xs : List (Nat × List Nat)) (s : State) : State :=
  { s with mem := xs.foldl (fun m x => Memory.write m (2 ^ 30 + x.1) (x.2.flatMap (toLE 8))) s.mem }
def setHandle (i : Nat) (h : Handle) : State → State := onGang (fun g => { g with h := g.h.setIfInBounds i h })
def tHandle (rows cols : Nat) : Handle := { base := 0, dims := BitVec.ofNat 64 (rows * 2 ^ 20 + cols), stride := 0, genSlot := 0 }
/-- A tap point with one feature of width 256: its descriptor at 4096, request slot 0 at 8192; g97 names one row of a block. -/
def tTap : State := setHandle 0 (tHandle 256 1) (setHandle 1 (tHandle 1 256) (setG 97 (2 ^ 32)
  (pageWords [(4096, [2 ^ 24 + 2 ^ 16, 1]), (8192, [1 + 256 * 2 ^ 16, 0, 0])]
    (onLau (fun l => { l with rcd := { l.rcd with tapMask := 1, tapBase := 4096, reqBase := 8192, reqCount := 1 } })
      { tMatrix with tlb := tPages }))))
def oT (a b : BitVec 7) : LX :=
  { w := { g := 7, d := 96, a := a, b := b }, x := { c := 0, slot := 0, rnd := 0, sat := 0, sub := 0, ty := 0, imm := 0 } }

def tapReady (s : State) (c : Ctx) : Bool :=
  match s.opRead c c.lau.rcd.tapBase.toNat 64 with
  | .ok (s1, bs) =>
    let desc : List Reg := (List.range 8).map (fun j => BitVec.ofNat 64 (leNat ((bs.drop (8 * j)).take 8)))
    let b0 : TapBlock := { tap := 0, number := 0, gang := c.who.gang, pc := c.frag.pc, quads := c.frag.quads, dix := c.lowQuad.dix, desc := desc
                           enc := Handle.zero, dec := Handle.zero, rows := 1, accBase := 0, descOff := 0, adapt := false }
    let b : TapBlock := { b0 with enc := c.gang.handle b0.encH, dec := c.gang.handle b0.decH }
    let f := FmtSlot.mk 3 0 0 0
    !b.bad c.accRows && f.ok && !tapFmtBad f f f b.bank && !c.grp.tapBlocked b && !s1.passOver c 0 1 b.nx (BitVec.allOnes 256) &&
      (match s1.tapPlan c 0 false 0 (List.range 1) with
       | .ok (s2, [p]) => !p.bad && p.index == some 0 && (s2.ctxOf c.who).isSome
       | _ => false)
  | _ => false

/-- A handler's group: a row of group 1 in HANDLING under pennant 7, another pennant in the queue. -/
def tBlock : TapBlock := { tap := 0, number := 1, gang := 0, pc := 0, quads := [0], dix := 0, desc := [2 ^ 24 + 2 ^ 16, 1], enc := tHandle 256 1
                           dec := tHandle 1 256, rows := 1, accBase := 0, descOff := 0, adapt := false }
def tRow (st : TapState) : TapRow := { id := 3, since := 0, tap := 0, number := 1, row := 0, slot := 0, adapt := false, state := st, status := 0
                                       encCount := 0, pennant := 7, position := 0, index := 0, feats := [], trunc := false, delta := []
                                       unhandled := false, parked := false }
def tPen (id : Nat) (h : Bool) : Pennant := { id := id, gid := 1, row := 0, words := [1, 2, 3, 4], handling := h, holder := if h then some 0 else none, launch := 0 }
def tHandler (st : TapState) (pens : List Pennant) : State :=
  let s := onGrp (fun g => { g with handlerOf := true, handlerLive := true }) (onCore (fun k => { k with pennants := pens }) tStash)
  match s.groups.find 0 with
  | some g => { s with groups := s.groups.set 1 { g with tapBlocks := [tBlock], tapRows := [tRow st] } }
  | none => s

theorem witness_TapResults :
    Has tTap (fun c => c.lau.rcd.tapMask / 2 ^ 0 % 2 = 1 ∧ (c.gang.rdG 97).toNat / 2 ^ 41 = 0 ∧ (c.gang.rdG 97).toNat / 2 ^ 30 % 4 = 0 ∧
      0 + 4 * 1 ≤ c.stashBytes ∧ (c.grp.slots[0]).w0 = 3 ∧ tapReady tTap c = true) ∧
    Has tS (fun c => c.lau.rcd.tapMask / 2 ^ 7 % 2 = 0) ∧
    Has tTap (fun c => ({ c.grp with tapBlocks := [tBlock], tapRows := [tRow .held] } : Group).tapBlocked tBlock = true) ∧
    -- the handler: an offset that is no multiple of 8, past the partition, in it; a queue with a pennant and without; sixteen handled
    Has (setG 97 4 tStash) (fun c => (c.gang.rdG 97).toNat % 8 ≠ 0 ∧ (c.gang.rdG 98).toNat % 8 = 0 ∧ c.grp.handlerOf = false) ∧
    Has (setG 97 16360 (tHandler .handling [tPen 7 true, tPen 8 false])) (fun c =>
      c.stashBytes < (c.gang.rdG 97).toNat + 32 ∧ (c.gang.rdG 98).toNat + 32 ≤ c.stashBytes ∧ c.grp.handlerOf = true ∧ c.grp.handlerLive = true ∧
      ((tHandler .handling [tPen 7 true, tPen 8 false]).core 0).pennants.find? (fun p => (p.launch == c.grp.launch) && !p.handling) = some (tPen 8 false) ∧
      ((tHandler .handling [tPen 7 true, tPen 8 false]).core 0).pennants.find? (fun p => (p.launch == c.grp.launch + 1) && !p.handling) = none ∧
      (tHandler .handling [tPen 7 true]).aloneOn c = false ∧ tStash.aloneOn c = true ∧ c.lau.rcd.det = false) ∧
    16 ≤ ((List.replicate 16 (tPen 7 true)).filter (fun p => p.handling && p.holder == some 0)).length ∧
    Has (tHandler .handling [tPen 7 true]) (fun c =>
      (tHandler .handling [tPen 7 true]).handled c 7 = some (1, tBlock, tRow .handling) ∧ 1 ≠ c.who.gid ∧ (0 : Nat) < 4 ∧
      (tHandler .handling [tPen 7 true]).handled c 8 = none ∧ 0 + 0x240 + 4 * tBlock.d ≤ c.stashBytes) :=
  ⟨has (by decide), has (by decide), has (by decide), has (by decide), has (by decide), by decide, has (by decide)⟩

def tTask (st : Nat) : Task := { gain := 0x3F800000, pending := 0, runs := 0, state := st }
def tPool (st : Nat) (ts : List Task) : Pool :=
  { Pool.reset with state := st, owner := 256, ntasks := ts.length, tasks := ts, tolerance := 0x3F000000, threshold := 0x3F800000 }
def tGq (p : Pool) : State := tS.setPool 15 p
def oG : LX := { oT 97 98 with x := { (oT 97 98).x with imm := 15 } }

theorem witness_GainQueueTasks :
    -- a task of each state in an open pool; a sum that is a number and one that is not; a pop
    ((tPool 1 [tTask 0]).tasks[0]? = some (tTask 0) ∧ (tPool 1 [tTask 0]).state = 1 ∧ (tTask 0).state ≠ 2) ∧
    ((tPool 1 [tTask 2]).tasks[0]? = some (tTask 2) ∧ (tTask 2).state = 2) ∧ (tPool 2 []).state ≠ 1 ∧
    gqOperand (BitVec.ofNat 32 (fadd32 0x3F800000 0x3F800000).1) = none ∧
    gqOperand (BitVec.ofNat 32 (fadd32 0x7F7FFFFF 0x7F7FFFFF).1) = some .gqRange ∧ (tPool 1 [tTask 0, tTask 1]).pop.isSome = true :=
  ⟨by decide, by decide, by decide, by decide, by decide, by decide⟩

theorem witness_GainQueueResults :
    Has (tGq (tPool 1 [tTask 1])) (fun c =>
      let s := tGq (tPool 1 [tTask 1])
      s.gqCheck c 15 (some 0) (some 0) = none ∧ (s.pool 15).state = 1 ∧ (s.pool 15).owner = c.lau.func ∧ c.grp.lines = [] ∧ c.frag.grant = none ∧
      s.unsettled c.who.gid c.who.gang = false ∧ c.gang.wct ≤ s.now ∧ (s.pool 15).held = [] ∧ (s.pool 15).pop.isSome = true ∧
      (gainOp (s.pool 15) 0 0 (.gqAdd oG)).isSome = true ∧ c.lau.rcd.det = false) ∧
    Has tS (fun c => tS.gqCheck c 15 none none = some .gqPool ∧ tS.gqCheck c 15 (some 0) none = some .gqRange ∧
      tS.gqCheck c 15 (some 0) (some 0x7FC00000) = some .gqNan ∧ (tS.pool 15).owner ≠ c.lau.func) ∧
    Has (tGq (tPool 1 [tTask 3])) (fun c => (gainOp ((tGq (tPool 1 [tTask 3])).pool 15) 0 0 (.gqDone oG)).any (fun x =>
        match x.2 with
        | .error r => r == .gqState
        | .ok _ => false) = true ∧ ((tGq (tPool 1 [tTask 3])).pool 15).pop.isSome = false ∧
      (tGq (tPool 1 [tTask 3])).gqCheck c 15 (some 0) none = none) ∧
    Has (tGq (tPool 2 [tTask 4])) (fun c => ((tGq (tPool 2 [tTask 4])).pool 15).owner = c.lau.func ∧ ((tGq (tPool 2 [tTask 4])).pool 15).state = 2) ∧
    -- GQ.READ of pool 15's task 0, GQ.RESID of pool 15
    Has (setG 97 (15 * 2 ^ 60) (setG 96 15 (tGq (tPool 1 [tTask 1])))) (fun c =>
      (c.gang.rdG 97).toNat / 2 ^ 20 % 2 ^ 40 = 0 ∧ (c.gang.rdG 97).toNat / 2 ^ 60 = 15 ∧ (c.gang.rdG 97).toNat % 2 ^ 20 < 1 ∧ (c.gang.rdG 96).toNat < 16) ∧
    -- a pool closes for its residual, for want of queued tasks, or stays
    ((tPool 1 []).low = true ∧ (tPool 1 []).tasks.any (fun x => x.state == 2) = false) ∧
    ((tPool 1 [tTask 3]).low = false ∧ (tPool 1 [tTask 3]).tasks.any (fun x => x.state == 1) = false) ∧
    ((tPool 1 [tTask 1]).low = false ∧ (tPool 1 [tTask 1]).tasks.any (fun x => x.state == 1) = true ∧ (tPool 1 [tTask 1]).sleepers = []) ∧
    (tPool 1 [tTask 2]).tasks.any (fun x => x.state == 2) = true :=
  ⟨has (by decide), has (by decide), has (by decide), has (by decide), has (by decide), by decide, by decide, by decide, by decide⟩

/-- A page list at 4096 of one entry, and its pool of two frames of 4 KiB at 8192, its counts at 12288, its stack at 16384. -/
def tKv (tokens entry count top : Nat) : State :=
  setG 97 4096 (setG 98 Config.localBase (pageWords [(4096, [tokens * 2 ^ 32 + 2 ^ 16 + 3 * 2 ^ 8, entry]),
    (8192, [32768, 12288, 16384, 12 * 2 ^ 32 + 2, top]), (12288, [count]), (16384, [1])]
    ({ tStash with tlb := tPages }.updFn 256 (fun f => { f with kvPool := 8192 }))))
def planned (s : State) (c : Ctx) (i : Instr) (ok : KvPlan → Bool) : Bool :=
  match kvFor s c i with
  | some (_, .ok p) => ok p
  | _ => false
def refusedKv (s : State) (c : Ctx) (i : Instr) : Bool :=
  match kvFor s c i with
  | some (_, .error (.bad _ _)) => true
  | _ => false
def walksKv (s : State) (c : Ctx) (i : Instr) : Bool :=
  match kvFor s c i with
  | some (_, .error (.walk _ _)) => true
  | _ => false

theorem witness_PagedTensorResults :
    Has (tKv 0 0xFFFFFFFF 0 1) (fun c => planned (tKv 0 0xFFFFFFFF 0 1) c (.kvApp (oT 97 98)) (fun p => p.fault.isNone && p.result == some 0) = true ∧
      c.frag.skip.getLsbD 0 = false ∧ (tKv 0 0xFFFFFFFF 0 1).memFull c = false ∧ (tKv 0 0xFFFFFFFF 0 1).unsettled c.who.gid c.who.gang = false) ∧
    Has (tKv 1 0 2 1) (fun c => planned (tKv 1 0 2 1) c (.kvApp (oT 97 98)) (fun p => p.fault.isSome) = true ∧
      planned (tKv 1 0 2 1) c (.kvDrop (oT 97 98)) (fun p => p.fault.isNone) = true) ∧
    Has tStash (fun c => refusedKv tStash c (.kvDrop (oT 97 98)) = true) ∧
    Has (setG 97 4096 tStash) (fun c => walksKv (setG 97 4096 tStash) c (.kvDrop (oT 97 98)) = true) ∧
    -- the counts of two drops of frame 1 and one of frame 0
    (∀ f ∈ [1, 0, 1], ∃ x ∈ [(0, 64, 5), (1, 68, 2)], x.1 = f) ∧ (∀ f ∈ [1, 0, 1], [1, 0, 1].count f ≤ countOf [(0, 64, 5), (1, 68, 2)] f) :=
  ⟨has (by decide +kernel), has (by decide +kernel), has (by decide), has (by decide), by decide, by decide⟩

def emptyPool (s : State) (c : Ctx) (entry : Nat) : Bool :=
  match s.kvHeader c 4096 with
  | .ok (h, pool, false) =>
    let at' := 4096 + 8 + 4 * (h.tokens / 2 ^ h.pageLog2)
    match s.kvPa c .write 4100, s.kvLoad c at' 4, s.kvDesc c pool with
    | .ok _, .ok eb, .ok (p, false) =>
      decide (h.tokens < h.cap * 2 ^ h.pageLog2) && p.top == 0 && leNat eb == entry &&
        (s.aperture c Config.localBase (2 ^ (p.frameLog2 - h.pageLog2))).isSome &&
        (if entry = noFrame then h.tokens % 2 ^ h.pageLog2 == 0 && (match s.kvPa c .write at' with | .ok _ => true | _ => false)
         else decide (entry < p.nframes) && (match s.kvCounts c p .read [entry] with
            | .ok cs => countsOk cs && decide (2 ≤ countOf cs entry)
            | _ => false))
    | _, _, _ => false
  | _ => false

theorem witness_EmptyPoolFault : Has (tKv 0 0xFFFFFFFF 0 0) (fun c => emptyPool (tKv 0 0xFFFFFFFF 0 0) c 0xFFFFFFFF = true ∧
      ((tKv 0 0xFFFFFFFF 0 0).aperture c Config.localBase 1).map Prod.fst = some c.who.gid ∧ 4096 % 8 = 0 ∧ Config.localBase % 16 = 0 ∧
      inAperture 4096 = false ∧ (tKv 0 0xFFFFFFFF 0 0).unsettled c.who.gid c.who.gang = false ∧ c.olderWaits = false ∧
      c.answer = none ∧ c.frag.grant = none) ∧
    Has (tKv 1 0 2 0) (fun c => emptyPool (tKv 1 0 2 0) c 0 = true) :=
  ⟨has (by decide +kernel), has (by decide +kernel)⟩
/-! ### Steps of units: home slices, writes, leases, walks, the host -/

def reqsOf (rs : List Req) (s : State) : State := { s with reqs := rs }
def hostPa : Nat := 4 * 2 ^ 44
/-- A pending write of a request, with its time. -/
def tPend (id pa t : Nat) (rmw : Option Rmw) : Pending :=
  { id := id, ins := id, func := 256, view := none, pa := pa, data := [1, 2, 3, 4], rmw := rmw, t := t, gangs := [(0, 0)] }
/-- An MX region whose view covers offset 0, and a request to it. -/
def tMx : State := reqsOf [tReq 0 (2 ^ 44 + 64) .store .flight] { tS with
  mx := [(0, { view := 0, packed := 2 ^ 20, scale := 2 ^ 21, busy := false, mode := 1, fmt := 0, len := 1 })] }
/-- A request has reached its slice. -/
def arrives (s : State) (id : Nat) (k : ReqKind → Bool) : Bool :=
  (s.req id).any (fun r => decide (r.stage = .flight) && decide (r.region ≠ 4) && !s.lineHeld r.line && !s.behind r && (s.badAt r).isNone && k r.kind)
def atomicOf (rel : Bool) : ReqKind → Bool
  | .atomic _ _ r _ => r == rel
  | _ => false

theorem witness_HomeSliceWrites :
    -- a store; one that fails; one to host memory; a grant of ownership; an atomic without and with a marker that has not come, and one held whose marker has
    (arrives (reqsOf [tReq 0 (2 ^ 30) .store .flight] tS) 0 (· == .store) = true ∧ regionOf (2 ^ 30) ≠ 1 ∧ (tS.recOf (lineOf (2 ^ 30))).owner = none) ∧
    (let s : State := reqsOf [tReq 0 (2 ^ 20) .store .flight] tMx
     (s.req 0).any (fun r => decide (r.region ≠ 4) && !r.isLoad && !s.lineHeld r.line && !s.behind r && (s.badAt r).isSome) = true) ∧
    (let s : State := reqsOf [tReq 0 hostPa .store .flight] tS
     (s.req 0).any (fun r => decide (r.region = 4) && !r.isLoad && !s.lineHeld r.line && !s.behind r && decide (r.marker ≤ s.now)) = true) ∧
    arrives (reqsOf [tReq 0 (2 ^ 30) (.own 0 0) .flight] tS) 0 (· == .own 0 0) = true ∧
    arrives (reqsOf [tReq 0 (2 ^ 30) (.atomic 8 3 false true) .flight] tS) 0 (atomicOf false) = true ∧
    (arrives (reqsOf [{ tReq 0 (2 ^ 30) (.atomic 0 2 true false) .flight with marker := 1 }] tS) 0 (atomicOf true) = true ∧ tS.now < 1) ∧
    ((reqsOf [{ tReq 0 (2 ^ 30) (.atomic 0 2 true false) .heldRel with marker := 0 }] tS).req 0).any (fun r =>
      decide (r.stage = .heldRel) && decide (r.region ≠ 4) && (tS.badAt r).isNone && decide (r.marker ≤ tS.now) && decide (r.parts.length = 1)) = true ∧
    (arrives tMx 0 (· == .store) = true ∧ ((tMx.req 0).any (fun r => decide (r.region = 1) &&
      (tMx.mxAt (r.line * 64 % 2 ^ 44)).isSome && decide (r.parts.length = 1))) = true) :=
  ⟨by decide, by decide, by decide, by decide, by decide, by decide, by decide, by decide⟩

theorem witness_WritesAndLeases :
    -- a write at its time, first of its line, before a later one; an atomic; its return; a merge; the end of a merge's hold
    (let s : State := { tS with pending := [tPend 0 (2 ^ 30) 0 none, tPend 1 (2 ^ 30) 7 none] }
     (s.pendOf 0 = [tPend 0 (2 ^ 30) 0 none] ∧ 0 ≤ s.now ∧ s.pendFirst 0 = true ∧ s.pendFirst 1 = false)) ∧
    (let x : Rmw := { op := 8, ty := 2, opnd := 1, cmp := 0 }
     let s : State := { tS with pending := [tPend 0 (2 ^ 30) 0 (some x)], reqs := [tReq 0 (2 ^ 30) (.atomic 8 2 false false) (.timed 0)] }
     x.ty ≤ 8 ∧ s.ecc.contains (lineOf (2 ^ 30)) = false ∧ (s.req 0).isSome = true ∧ s.pendOf 0 = [tPend 0 (2 ^ 30) 0 (some x)] ∧ s.pendFirst 0 = true) ∧
    (let s := reqsOf [tReq 0 (2 ^ 30) (.atomic 0 2 false false) .performed] tS
     (s.req 0).any (fun r => r.stage == .performed && decide (r.parts.length = 1)) = true ∧ (s.gangAt 0 0).isSome = true) ∧
    (let s := reqsOf [tReq 0 (2 ^ 30) (.atomic 6 2 false true) (.merging 0 0),
        { tReq 1 (2 ^ 30) (.atomic 6 2 false false) (.merging 0 0) with parts := [{ tPart 1 (2 ^ 30) with who := some { tW with gang := 1 } }] }] tS
     (s.req 0).any (fun a => (s.req 1).any (fun b => a.arrived b 0 0 0 && decide (a.func = b.func) && decide (a.aspace = b.aspace) &&
        decide (a.parts.head?.map ReqPart.pa = b.parts.head?.map ReqPart.pa) && !a.det && !b.det && decide (a.region ≠ 4) &&
        !s.behind a && !s.behind b)) = true) ∧
    (let s : State := reqsOf [tReq 0 (2 ^ 30) (.atomic 6 2 false true) (.merging 0 0)] { tS with now := 8 }
     (s.req 0).any (fun r => r.stage == .merging 0 0) = true ∧ 0 + 8 ≤ s.now) ∧
    -- an armed monitor of the written line, whose comparison holds then
    (let m : Monitor := { slice := 0, who := .frag tW, since := 0, func := 256, pa := 2 ^ 30, ty := 2, rel := 0, value := 0x04030201 }
     m.slice ≠ 64 ∧ m.since < 1 ∧ lineOf (2 ^ 30) = lineOf m.pa ∧ leNat ((tPend 0 (2 ^ 30) 0 none).data) = m.value) ∧
    -- a read into the read buffer; one into a window line; what a window store's ownership brings; a dirty line; a record to drop
    (let s := reqsOf [tReq 0 (2 ^ 30) (.load 4 true .readBuffer) .flight] tS
     (s.req 0).any (fun r => decide (r.region ≠ 4) && !s.lineHeld r.line && !s.behind r && (s.badAt r).isNone && !s.ownPending r) = true ∧
       (s.recOf (lineOf (2 ^ 30))).owner = none) ∧
    (let s := reqsOf [tReq 0 (2 ^ 30 + 4096) (.load 8 false (.window 0 4096)) .flight] (tWindow [(0, tLine false 0)])
     (s.req 0).any (fun r => decide (r.region ≠ 4) && !s.lineHeld r.line && !s.behind r && (s.badAt r).isNone && !s.ownPending r) = true ∧
       (s.groups.find 0).any (fun g => (g.lines.find 0).any (fun l => !l.own)) = true) ∧
    (let s := reqsOf [tReq 0 (2 ^ 30 + 4096 + 60) (.own 0 4096) (.timed 0)] (tWindow [])
     (s.req 0).any (fun r => r.stage == .timed 0 && decide (r.parts.length = 1) && !s.oldXlate r) = true ∧ s.pending = [] ∧
       (s.groups.find 0).any (fun g => g.windowAt 4096 == some 0 && (g.lines.find 0).isNone) = true ∧ (2 ^ 30 + 4096 + 60) % 64 + 4 ≤ 64) ∧
    ((tWindow [(0, { tLine true 0 with dirty := [(63, 5)] })]).groups.find 0).any (fun g =>
      (g.lines.find 0).any (fun l => decide (l.dirty ≠ []))) = true ∧
    (let s : State := { tS with lines := [(16, { lmax := 9, tlast := 0, owner := none })] }
     (s.lineRec 16).any (fun r => r.owner == none && decide (r.tlast ≤ s.now)) = true) :=
  ⟨by decide, by decide, by decide, by decide, by decide, by decide, by decide, by decide, by decide, by decide, by decide⟩

/-- A miss of the small state's fragment, and tables at 2^29 whose walk ends in a leaf. -/
def tMiss (kind : Access) : Walk := { who := tW, func := 256, aspace := 0, va := 0, kind := kind }
def tTables (leaf : Nat) : State := { tS with
  walks := [tMiss .read]
  mem := Memory.write (Memory.write (Memory.write (Memory.write [] (2 ^ 29) (toLE 8 (2 ^ 29 + 65536 + 1))) (2 ^ 29 + 65536) (toLE 8 (2 ^ 29 + 2 * 65536 + 1)))
    (2 ^ 29 + 2 * 65536) (toLE 8 (2 ^ 29 + 3 * 65536 + 1))) (2 ^ 29 + 3 * 65536) (toLE 8 leaf) }.updFn 256
      (fun f => { f with roots := f.roots.set 0 (2 ^ 29) })
def isPage : Leaf → Bool → Bool
  | .page _ r _ _, ok => r == ok
  | _, _ => false
def isBad : Leaf → Reason → Bool
  | .bad r, x => r == x
  | _, _ => false
def tXrec : XRec := { die := 0, place := 5, func := 256, aspace := 0, page := 1, kinds := 1, parked := [(.frag tW, .notPresent, 65536)] }
def tCmpReq : Req := tReq 0 hostPa (.compare 2 0 1) .sent

theorem witness_WalksAndHostAccesses :
    -- leaves: one that grants a read, one that does not, a fault to mend (no ROOT) and one that cannot be (a bad entry)
    (isPage ((tTables (2 + 2 ^ 30 + 2 ^ 57)).walk 0 256 0 0) true = true ∧ isPage ((tTables (2 + 2 ^ 30 + 2 ^ 59)).walk 0 256 0 0) false = true ∧
      isBad ((tTables (3 + 2 ^ 30)).walk 0 256 0 0) .badEntry = true ∧ isBad (({ tS with walks := [tMiss .read] } : State).walk 0 256 0 0) .notPresent = true) ∧
    ((tTables 0).walks[0]? = some (tMiss .read) ∧ ((tTables 0).walking 0).any (tMiss .read).same = true ∧
      ((onFrag (fun f => { f with state := .stalled .walk }) (tTables 0)).fragOf tW).any (fun f => f.state == .stalled .walk) = true ∧ accOk .read true false false = true ∧
      accOk .read false false true = false ∧ (tTables 0).xrecs = []) ∧
    -- the die's queue full of other records
    (let s : State := { tS with xrecs := List.replicate 4096 tXrec }
     Config.faultQueue ≤ (s.xrecs.filter (fun q => q.die == 0)).length ∧ tXrec.page ≠ 0) ∧
    -- waits for %wct; a WAITCMP without an entry, of a line and of host memory
    ((onFrag (fun f => { f with state := .stalled (.wct 0 true) }) tS).fragOf tW).any (fun f => f.state == .stalled (.wct 0 true)) = true ∧
    (let s (pa : Nat) : State := { onFrag (fun f => { f with state := .sleeping (.monitorFull 0) }) tS with
       monitors := [{ slice := 64, who := .frag tW, since := 0, func := 256, pa := pa, ty := 2, rel := 0, value := 0 }] }
     ((s 0).fragOf tW).any (fun f => f.state == .sleeping (.monitorFull 0)) = true ∧ ((s 0).monitors.find? (fun m => m.who == Waiter.frag tW && m.slice == 64)).isSome = true ∧
       regionOf 0 ≠ 4 ∧ regionOf hostPa = 4) ∧
    -- the host: a write's acknowledgement; the answers to a load, a compare and an atomic; BAR2
    ((reqsOf [tReq 0 hostPa .store .sent] tS).req 0).any (fun r => decide (r.stage = .sent)) = true ∧
    ((reqsOf [tReq 0 hostPa (.load 4 false .readBuffer) .sent] tS).req 0).any (fun r => decide (r.stage = .sent) && decide (r.parts.length = 1)) = true ∧
    ((reqsOf [tCmpReq] tS).req 0).any (fun r => decide (r.stage = .sent) && decide (r.who = some tW) && decide (r.parts.length = 1)) = true ∧
    ((reqsOf [tReq 0 hostPa (.atomic 0 2 false false) .sent] tS).req 0).any (fun r => decide (r.stage = .sent)) = true ∧
    (tGlobal.trust.accepted = true ∧ tGlobal.xl ioPlace 256 0 65535 .read = .ok (2 ^ 30 + 65535) ∧ 65535 % 65536 + 1 ≤ 65536 ∧ tGlobal.ecc = [] ∧
      (tGlobal.reqs = [] ∧ tGlobal.mx = [] ∧ tGlobal.lines = []) ∧ (tGlobal.unitStore 256 0 none 0 [1]).isOk = true ∧
      (tS.unitStore 256 0 none 0 [1]).isOk = false ∧ (tS.unitLoad 256 0 0 1 .read).isOk = false ∧
      hostAtomOk 0 2 = true ∧ hostAtomOk 1 8 = false ∧ tGlobal.xl ioPlace 256 0 4 .atomic = .ok (2 ^ 30 + 4) ∧ (255 : Nat) ≤ Config.physFn) :=
  ⟨by decide +kernel, by decide +kernel, by decide +kernel, by decide, by decide, by decide, by decide, by decide, by decide, by decide +kernel⟩
/-! ### Steps of units: the engine, collectives, the matrix engine -/

/-- The command of an instruction in a state, at a stage; the state's core holds it, with the fields of its issue. -/
def cmdAt (s : State) (i : Instr) (f : Cmd → Cmd) : State :=
  match s.ctx.bind (fun c => cmdFor c i) with
  | some (_, x) => onCore (fun k => { k with queue := [f x] }) s
  | none => s
def theCmd (s : State) (p : Cmd → Bool) : Bool := ((s.core 0).cmd 0).any p
def ringBit : LX := oC 1 0
/-- The one command of the state's core is ready, and none of its lines is still to be written by another. -/
def cmdReady (s : State) (p : Cmd → Bool) : Bool :=
  theCmd s (fun x => !x.parked && s.carried x.who x.ins x.wct && s.linesTurn 0 x && (s.grpOf x.who.gid).isSome && p x)
def noColl : CtxRef → Bool
  | .coll _ _ => false
  | _ => true
/-- What the walk of the state's command ends in. -/
def walkEnds (s : State) (ok : Option (Reason × Nat) → Bool) : Bool :=
  theCmd s (fun x => (s.grpOf x.who.gid).any (fun y => ok (State.walkFrom y.2 (itersOf x.prog - x.pos) s x).2.2))
/-- A load of one run of 16 bytes from address 0; a store to the end of the page's first window; a gather. -/
noncomputable def tLoading (ga : Nat) (st : CmdStage) : State :=
  cmdAt { tRun with tlb := tPages } (.twLoad (oC 0 0)) (fun x => { x with stage := st, ga := BitVec.ofNat 64 ga })
noncomputable def tStoring : State := cmdAt { tRun with tlb := tPages } (.twStore (oC 0 0)) (fun x => { x with stage := .active, ga := BitVec.ofNat 64 65520 })
noncomputable def tRing (st : CmdStage) : State :=
  onGrp (fun g => { g with halyard := g.halyard.set 0 1 }) (cmdAt { tRun with tlb := tPages } (.twLoad ringBit) (fun x => { x with stage := st, ga := 0 }))

theorem witness_WalkIterations :
    (theCmd (tLoading 0 .active) (fun x => underCount x.prog x.vcount 0 && x.op == 0x50 && decide (runOf x.prog = 16) &&
      decide (runOf x.prog ≤ x.win.2) && !padded x.prog 0 && decide (x.win = (4096, 4096)) && (((tLoading 0 .active).grpOf x.who.gid).any (fun g =>
        !inAperture (vaAt x.ga (g.1.srcOff x.prog 0)) &&
          (match (tLoading 0 .active).xl 0 256 0 (vaAt x.ga (g.1.srcOff x.prog 0)) .read with
           | .ok pa => pa == 2 ^ 30
           | _ => false))))) = true ∧
    ((List.range 16).all (fun i => regionOf (2 ^ 30 + i) == 0 && (tLoading 0 .active).lines == []) = true ∧ (tLoading 0 .active).reqs = [] ∧ (tLoading 0 .active).mx = [] ∧
      (tLoading 0 .active).ecc = [] ∧ 0 % 65536 + 16 ≤ 65536) ∧
    theCmd tStoring (fun x => x.op == 0x51 && !x.acc && decide (runOf x.prog = 16) && !padded x.prog 0 && underCount x.prog x.vcount 0 &&
      (match tStoring.xl 0 256 0 (vaAt x.ga (dstOff x.prog 0)) .write with
       | .ok pa => pa == 2 ^ 30 + 65520
       | _ => false)) = true ∧
    -- a valid count of 0 keeps out the first iteration of a counted loop; a padded iteration
    (∃ p : List Reg, underCount p (some 0) 0 = false) ∧ (∃ p : List Reg, padded p 0 = true) :=
  ⟨by decide +kernel, by decide +kernel, by decide +kernel,
    ⟨[BitVec.ofNat 64 (2 ^ 60)], by decide⟩, ⟨[BitVec.ofNat 64 (2 ^ 60), BitVec.ofNat 64 (2 * 2 ^ 60 + 2 ^ 32)], by decide⟩⟩

theorem witness_EngineSteps :
    -- a queued command and a free slot
    (((tQueued 1 tS).core 0).queue.find? (fun y => y.stage == .queued) = some (tCmd 0) ∧ (tQueued 1 tS).slotFree 0 = true ∧ (tQueued 1 tS).fetchWaits 0 = false) ∧
    -- a ring command; walks that end, fail for good (an address in the aperture), and fail for a page that is missing; one resumed
    cmdReady (tRing .active) (fun x => x.stage == .active && x.ring && noColl x.ctx) = true ∧
    (cmdReady (tLoading 0 .active) (fun x => x.stage == .active && !x.ring && noColl x.ctx) = true ∧
      walkEnds (tLoading 0 .active) (fun e => e == none) = true) ∧
    (cmdReady (tLoading Config.localBase .active) (fun x => !x.ring) = true ∧
      walkEnds (tLoading Config.localBase .active) (fun e => e == some (.paUnbacked, Config.localBase)) = true) ∧
    (cmdReady (tLoading 65536 .walking) (fun x => x.stage == .walking) = true ∧
      walkEnds (tLoading 65536 .walking) (fun e => e == some (.notPresent, 65536)) = true) ∧
    -- a permit at hand; a permit whose loads have returned
    (theCmd (tRing .permit) (fun x => x.stage == .permit && (tRing .permit).linesTurn 0 x &&
      ((tRing .permit).grpOf x.who.gid).any (fun g => decide (g.1.halyardAt x.mreg = 1))) = true ∧ walkEnds (tRing .permit) (fun e => e == none) = true) ∧
    (let s := onGrp (fun g => { g with permits := [(0, 7, 4095, 0)] }) tS
     (s.groups.find 0).any (fun g => (g.permits.find? (fun p => !s.loadsBefore 0 p.1 p.2.2.2)).isSome && decide (g.halyardAt 7 + 4095 < 4096)) = true ∧ 7 < 8) ∧
    -- a command that has finished, with and without a barrier
    (theCmd (tLoading 0 (.finishing 0)) (fun x => x.stage == .finishing 0 && decide (x.copies = []) && !(tLoading 0 (.finishing 0)).hostsOut x.hosts &&
      x.ctx == .engine 0 && x.err == none && x.bar == none) = true ∧ ((tLoading 0 (.finishing 0)).gangAt 0 0).isSome = true) ∧
    (theCmd (cmdAt { tRun with tlb := tPages } (.twLoad (oC 124 0)) id) (fun x => x.bar == some 15) = true ∧
      (tRun.groups.find 0).any (fun g => (g.bars[15]?).any (fun b => decide (b.arrived.toNat < 4095) && decide (b.expected = 0))) = true) :=
  ⟨by decide, by decide +kernel, by decide +kernel, by decide +kernel, by decide +kernel, by decide +kernel, by decide, by decide +kernel, by decide +kernel⟩

/-- A multicast whose copy for core 0 is still to land, in a group that receives under key 0; and two such groups. -/
noncomputable def tCast : State := onGrp (fun g => { g with mcast := 4096 + 15 * 256 }) (cmdAt { tRun with tlb := tPages } (.twMcast (oC 0 0))
  (fun x => { x with stage := .finishing 0, copies := [0], data := [(0, [1, 2])] }))
noncomputable def tCast0 : State := { tCast with groups := [] }
/-- A reduction of one element under context 0 of two members, and one that waits for rank 1. -/
def tColl : Coll := { n := 2, rank := 0, peers := [0, 1], ctr := Counter.zero, got := [] }
noncomputable def tRed (f : Cmd → Cmd) : State := (cmdAt (setG 97 1 tRun) (.twRed (oC 0 2)) f).updFn 256 (fun x => { x with colls := x.colls.set 0 tColl })

theorem witness_CollectiveSteps :
    (theCmd tCast (fun x => x.op == 0x52 && x.stage == .finishing 0 && x.copies.contains 0 && tCast.linesTurn 0 x && decide (x.who.gid = 0) &&
      decide ((tCast.receivers x 0).map Prod.fst = [0]) && ((tCast.receivers x 0).all (fun g => (tCast.receiverWin x g.2).isSome &&
        (g.2.bars[g.2.mcast.toNat / 256 % 16]?).any (fun b => decide (b.arrived.toNat < 4095))))) = true) ∧
    (theCmd tCast0 (fun x => tCast0.linesTurn 0 x && decide ((tCast0.receivers x 0).length = 0)) = true ∧ (tCast0.groups.find 0).isNone = true) ∧
    cmdReady (tRed (fun x => { x with stage := .active, number := 1 })) (fun x => x.stage == .active && x.ctx == .coll 256 0 &&
      decide (x.number = (((tRed id).fn 256).coll 0).ctr.count + 1)) = true ∧
    ((1 : Nat) < 2 ∧ 1 ≠ 0 ∧ tColl.first 1 = none) ∧
    -- a contribution that nothing waits for; one that completes the reduction
    redWaiting (tRed id) 256 0 = none ∧
    ((redWaiting (tRed (fun x => { x with stage := .walking, data := [(0, [1, 2, 3, 4])] })) 256 0).any (fun y =>
      y.1 == 0 && decide (y.2.id = 0) && decide (y.2.data.map Prod.snd = [[1, 2, 3, 4]])) = true ∧
      (let c : Coll := { tColl with got := tColl.got ++ [(1, [5, 6, 7, 8])] }
       (List.range c.n).map (fun r => if r = c.rank then some [1, 2, 3, 4] else c.first r) = [[1, 2, 3, 4], [5, 6, 7, 8]].map some)) :=
  ⟨by decide +kernel, by decide +kernel, by decide +kernel, by decide, by decide +kernel, by decide +kernel⟩

/-- The one posted pass of a state, its entry changed; its bank with the tag that the entry asks for. -/
def tPass (f : Rsv → Rsv) : State := onCore (fun k => { k with rsvs := k.rsvs.map f }) (setHandle 0 (tHandle 1 1) (tPosted 1))
def theRsv (s : State) (p : Rsv → Bool) : Bool := ((s.core 0).rsvs.head?).any (fun r => ((s.core 0).rsv r.id == some r) && p r)
def tTagged (f : Rsv → Rsv) : State := match ((tPass f).core 0).rsvs.head? with
  | some r => onCore (fun k => k.setBank r.bank { Bank.empty with tag := (tPass f).rsvTag r }) (tPass f)
  | none => tPass f
/-- It fetches its tile. -/
def fetches (s : State) (r : Rsv) : Bool :=
  (s.rsvTag r).any (fun tg => match s.fetchBank 0 r.who.gid r.bank r.hB.2 (s.rsvSlots r).2 tg with
    | .ok _ => true
    | .error _ => false)
def tLocal : Handle := { tHandle 1 1 with base := BitVec.ofNat 64 Config.localBase }
def asLoad (r : Rsv) : Rsv := { r with op := 0x42, hB := (0, tLocal) }
def tJob : StoreJob := { id := 3, who := tW, number := 1, due := 0, hosts := [], flags := 2 }

theorem witness_MatrixSteps :
    -- a pass that may be granted, with its bank's tile and without; a granted one of each
    (theRsv (tPass id) (fun r => (tPass id).grantedPass 0 == none && (tPass id).arrayIdle 0 && (tPass id).passTurn 0 r && (tPass id).holdOk 0 r && !(tPass id).tapFirst 0 r && !(tPass id).tagged 0 r &&
      r.cls == .main && !r.pair) = true ∧ ((tPass id).core 0).rsvs.length = 1) ∧
    theRsv (tTagged id) (fun r => (tTagged id).grantedPass 0 == none && (tTagged id).arrayIdle 0 && (tTagged id).passTurn 0 r && (tTagged id).holdOk 0 r && !(tTagged id).tapFirst 0 r && (tTagged id).tagged 0 r) = true ∧
    (let s := tTagged (fun r => { r with stage := .granted })
     theRsv s (fun r => s.grantedPass 0 == some r && s.tagged 0 r) = true) ∧
    (let s := tPass (fun r => { r with stage := .granted, hB := (0, tLocal) })
     theRsv s (fun r => s.grantedPass 0 == some r && !s.halting r.who.gid && !s.tagged 0 r && s.slotFree 0 && s.banksIdle 0 r && s.carried r.who r.ins r.wct && !r.pair &&
       decide ((s.rsvSlots r).2.fmt ≠ 1) && fetches s r) = true) ∧
    -- promotion after 4,096 clk
    (let s : State := { tPass (fun r => { r with cls := .background }) with clk := 4096 }
     theRsv s (fun r => r.cls != .main && !r.load && r.stage == .waiting && decide (r.since + 4096 ≤ s.clkOf 0)) = true) ∧
    -- a bank load that may start, and one under way
    (let s := tPass asLoad
     theRsv s (fun r => r.load && r.stage == .waiting && !r.parked && !s.halting r.who.gid && !r.pair && s.bankTurn 0 r && s.banksIdle 0 r && s.carried r.who r.ins r.wct &&
       s.slotFree 0 && fetches s r) = true ∧ (s.core 0).slave = none) ∧
    (let s := onCore (fun k => k.setBank 0 { Bank.empty with busy := k.rsvs.head?.map Rsv.id }) (tPass asLoad)
     theRsv s (fun r => decide (((s.core 0).bank r.bank).busy = some r.id) && (s.groups.find r.who.gid).isSome) = true) ∧
    -- a pass that is over
    (let s : State := { tPass (fun r => { r with stage := .running 0, next := 1 }) with clk := 24 }
     theRsv s (fun r => Claims.passOver s 0 r && decide (r.rows = 1)) = true) ∧
    -- a store whose writes are done
    (let s := onCore (fun k => { k with storeJobs := [tJob] }) tS
     s.cores.findSome? (fun k => (k.2.storeJobs.find? (fun j => j.id == 3)).map (fun j => (k.1, j))) = some (0, tJob) ∧ tJob.due ≤ s.now ∧
       s.hostsOut tJob.hosts = false ∧ (s.gangAt 0 0).isSome = true) :=
  ⟨by decide, by decide, by decide, by decide +kernel, by decide, by decide +kernel, by decide, by decide, by decide⟩

/-- A block of one feature over a width of 1: bias at 1024 of the partition, rule sets from 0 on, tiles at 2048 and 3072. -/
def local64 (k : Nat) : Nat := Config.localBase + k
def tOne (adapt : Bool) : TapBlock :=
  { tBlock with desc := [2 ^ 24 + 2 ^ 16, 1, BitVec.ofNat 64 (local64 1024), BitVec.ofNat 64 (local64 0), BitVec.ofNat 64 (local64 0)], adapt := adapt
                enc := { tLocal with base := BitVec.ofNat 64 (local64 2048) }, dec := { tLocal with base := BitVec.ofNat 64 (local64 3072) } }
def tOneRow (adapt : Bool) (st : TapState) (delta : List (Nat × Word)) : TapRow := { tRow st with adapt := adapt, delta := delta }
/-- The group with that row at work; its rules' words, the bias 1.0, and the handler's entry. -/
def tWork (adapt : Bool) (st : TapState) (delta : List (Nat × Word)) (rules : List Nat) (entry : Reg) : State :=
  stashWords rules (onGrp (fun g => { g with tapBlocks := [tOne adapt], tapRows := [tOneRow adapt st delta], stash := Memory.write g.stash 1024 (toLE 4 0x3F800000) })
    (onLau (fun l => { l with rcd := { l.rcd with tapEntry := entry } }) tMatrix))
/-- What the tap unit does with the row: its checks, its rules, its features, and which rules hit. -/
def encodes (s : State) (rulesOk : Option (List Rule) → Bool) (ok : List Nat → Bool) : Bool :=
  match s.nextRow 0 false with
  | some (gid, b, r) =>
    match s.groups.find gid with
    | some g =>
      let se := g.slotOf b.enc
      let sa := g.slots[b.aSlot]?.getD FmtSlot.zero
      s.tapTurn 0 b r [se] && decide (coreOf gid = 0) && g.tapRows.contains r &&
        (match s.grpRead gid ((b.word 3).toNat + 512 * r.index) 512 with
         | .ok (s1, bs) =>
           match parseRules b.feats bs 32 0 with
           | none => rulesOk none
           | some rules => rulesOk (some rules) &&
             (match sa.tapConv b.dix r.row 0 ((g.tapX b r.row).map (fun x => decodeNum fp32 x.toNat)) with
              | some a =>
                match s1.tapEncoded gid b se (sa.fmt == 8) a with
                | .ok (_, some es) => ok (applyRules (b.select es).1 0 rules ([], [])).1
                | _ => false
              | none => false)
         | _ => false)
    | none => false
  | none => false
/-- A WATCH rule for values above 0.5 of feature 0; a rule of a kind that is none. -/
def watch : List Nat := [0x3F000000 * 2 ^ 32, 2 ^ 32]
def noRule : List Nat := [0, 15 * 2 ^ 32]

theorem accOk_empty (g : Group) (h : g.acc = []) : Claims.AccOk g := by
  intro k
  unfold Group.accRow
  rw [h]
  exact List.length_replicate

theorem witness_TapSteps :
    -- rows to encode: a bad rule set; no rule; a WATCH rule that hits, without a handler and with one
    encodes (tWork false .waiting [] noRule 64) Option.isNone (fun _ => true) = true ∧
    encodes (tWork false .waiting [] [0, 0] 64) Option.isSome (fun h => h == []) = true ∧
    (encodes (tWork false .waiting [] watch 0) Option.isSome (fun h => h == [0]) = true ∧
      (tWork false .waiting [] watch 0).launches.map (fun l => l.2.rcd.tapEntry) = [0]) ∧
    (encodes (tWork false .encoding [] watch 64) Option.isSome (fun h => h == [0]) = true ∧
      (tWork false .encoding [] watch 64).launches.map (fun l => l.2.rcd.tapEntry) = [64]) ∧
    -- rows that apply: without deltas, and with one; the rows of the accumulator hold their 1,024 words
    ((tWork false .applying [] [0, 0] 0).tapRowAt 0 3).any (fun x => x.2.2.state == .applying && decide (x.2.2.delta = []) && !x.2.2.parked) = true ∧
    (let s := tWork false .applying [(0, 0x3F800000)] [0, 0] 0
     (s.tapRowAt 0 3).any (fun x => decide (x.1.acc = []) && s.tapTurn 0 x.2.1 x.2.2 [x.1.slotOf x.2.1.dec] && decide (x.2.1.d ≤ 1024 * x.2.1.nx) &&
       (match s.tapTile 0 (x.2.1.dec.plain 0) x.2.1.dec (x.1.slotOf x.2.1.dec) 0 (x.2.2.delta.map Prod.fst) with
        | .ok (_, rows) => rows.all (fun y => decide (y.length = x.2.1.d))
        | .error _ => false)) = true) ∧
    -- an adapter's row of rank 1
    (let s := tWork true .waiting [] [local64 2048, local64 3072, 2 ^ 62 - 2 ^ 55 + 1, 0] 0
     (s.nextRow 0 true).any (fun x => (s.groups.find x.1).any (fun g => decide (g.acc = []) && s.tapTurn 0 x.2.1 x.2.2 [FmtSlot.zero] &&
       (match s.grpRead x.1 ((x.2.1.word 4).toNat + 32 * x.2.2.index) 32 2 with
        | .ok (s1, bs) =>
          match s1.adapted x.1 g x.2.1 x.2.2 (g.slots[x.2.1.aSlot]?.getD FmtSlot.zero) (leNat (bs.take 8)) (leNat ((bs.drop 8).take 8)) 0x3F800000 0 1 with
          | .ok (_, some xs) => decide (xs.length = x.2.1.d) && decide (leNat ((bs.drop 16).take 8) = 0x3F800000 * 2 ^ 32 + 1) && decide (leNat (bs.drop 24) = 0)
          | _ => false
        | .error _ => false))) = true) ∧
    ((tWork true .waiting [] [] 0).groups.all (fun g => (g.2.slots[0]?).any (fun f => f.ok && decide (f.fmt = 3)))) = true :=
  ⟨by decide +kernel, by decide +kernel, by decide +kernel, by decide +kernel, by decide +kernel, by decide +kernel, by decide +kernel, by decide +kernel⟩
/-! ### Steps of units: the issue logic, the code store, queues -/

/-- Two fragments of the small state's gang: the first eight quads and the last, the second spilled. -/
def fragOf (id : Nat) (quads : List Nat) (entry : Option Nat) (st : FState) : Frag := { fragAt id quads 0 entry 0 with state := st }
def tSplit (a b : FState) : State := onFrag (fun _ => fragOf 0 (List.range 8) (some 0) a) (onGang (fun q => { q with
  frags := [fragOf 0 (List.range 8) (some 0) a, fragOf 1 ((List.range 8).map (· + 8)) none b], nextFrag := 2 }) tS)
def fragIs (s : State) (w : Who) (p : Frag → Bool) : Bool := (s.fragOf w).any p
def tDet : State := onLau (fun l => { l with rcd := { l.rcd with det := true } }) (tSplit (.sleeping .det) (.stalled .parked))
/-- A core whose split table is full: 256 fragments with entries, and one without for 1,024 clk. -/
def tCrowd : State := { onGang (fun q => { q with frags := (List.range 256).map (fun i => fragOf i [0] (some i) .eligible) ++ [fragOf 256 [0] none .eligible] }) tS with
  clk := 1024 }

theorem witness_IssueSteps :
    -- promotion; the ends of YIELD and SLEEP
    fragIs (onFrag (fun f => { f with waited := 64 }) tS) tW (fun f => f.state == .eligible && decide (64 ≤ f.waited) && decide (f.promoted = none)) = true ∧
    (fragIs (tSplit (.sleeping (.yield 0)) (.sleeping (.sleep 0))) tW (fun f => f.state == .sleeping (.yield 0)) = true ∧
      fragIs (tSplit (.sleeping (.yield 0)) (.sleeping (.sleep 0))) { tW with frag := 1 } (fun f => f.state == .sleeping (.sleep 0)) = true ∧
      0 ≤ tS.clkOf 0 ∧ 0 ≤ tS.now) ∧
    -- a spilled fragment and a free entry; a full table
    ((tSplit .eligible .eligible).oldestSpilled 0).any (fun c => decide ((tSplit .eligible .eligible).fragOf c.who = some c.frag) &&
      ((tSplit .eligible .eligible).freeEntry 0).isSome) = true ∧
    (tCrowd.oldestSpilled 0).any (fun c => decide (c.frag.id = 256) && decide (tCrowd.fragOf c.who = some c.frag) && (tCrowd.freeEntry 0).isNone &&
      decide (c.frag.since + 1024 ≤ tCrowd.clkOf 0) && (tCrowd.oldestResident 0 none).any (fun v => v.frag.entry.isSome && decide (v.who ≠ c.who) &&
        decide (tCrowd.ctxOf v.who = some v))) = true ∧
    -- a deterministic launch: the turn of the lowest key; DET_STALL after 2^20 ticks without one
    ((tDet.ctxOf tW).any (fun c => c.frag.state == .sleeping .det && !tDet.detBusy c.grp.launch (tDet.fragsOfLaunch c.grp.launch) &&
      (tDet.savedFrags c.grp.launch).isEmpty && (tDet.fragsOfLaunch c.grp.launch).all (fun d => decide (d.who = tW) || keyLt (tDet.detKey c) (tDet.detKey d)))) = true ∧
    (let s : State := { tDet with now := 2 ^ 20 }
     (s.lowestKey ((s.fragsOfLaunch 0).filter (fun c => c.frag.state == .sleeping .det))).any (fun c => (s.launches.find 0).any (fun l =>
       decide (l.lastSync + 2 ^ 20 ≤ s.now) && decide (s.ctxOf c.who = some c))) = true) :=
  ⟨by decide, by decide, by decide, by decide +kernel, by decide +kernel, by decide +kernel⟩

theorem witness_ClockAndPick : (tS.ctxOf tW).any (fun c => (pickOf [c] 0).isSome && decide (c.frag.promoted = none) &&
      decide (c.frag.entry = some 0)) = true ∧ pickOf [] 0 = none :=
  ⟨by decide, by decide⟩

/-- The first entry of core 0's store, changed; a translated page that may be executed. -/
def xPage : Tlb := { tPage with x := true, w := false }
def tCode (f : ResEntry → ResEntry) : State := { onEntry f tS with tlb := [xPage] }
def loadable (s : State) (e : ResEntry) : Bool := match s.hoistBytes 0 e with
  | .ok _ => true
  | .error _ => false
def infoOf (r : Reason) : FaultInfo := { reason := r, addr := 0, lanes := 0, pc := 0, tick := 0, d0 := 0, d1 := 0, d2 := 0 }
def tFaulted (r : Reason) (b : Option Nat) (s : State) : State := onFrag (fun f => { f with state := .faulted (infoOf r) b }) s
def tAbsent (b : Option Nat) : State := tFaulted .codeAbsent b tS

theorem witness_CodeStoreSteps :
    -- a load that ends: kept, freed, evicting with a pin; one that fails for good
    (let s := tCode (fun e => { e with state := 1, loadFunc := 256 })
     ((s.core 0).res 0).state = 1 ∧ s.parkedNow (.hoist 0 0) = false ∧ loadable s ((s.core 0).res 0) = true ∧ ((s.core 0).res 0).evictPending = false ∧ ((s.core 0).res 0).revoked = false) ∧
    (let s := { tCode (fun e => { e with state := 1, loadFunc := 256, evictPending := true }) with groups := [] }
     loadable s ((s.core 0).res 0) = true ∧ ((s.core 0).res 0).pins = 0 ∧ s.fragsIn 0 0 = 0) ∧
    (let s := tCode (fun e => { e with state := 1, loadFunc := 256, evictPending := true, pins := 1 })
     loadable s ((s.core 0).res 0) = true ∧ 0 < ((s.core 0).res 0).pins) ∧
    (let s := tCode (fun e => { e with state := 1, loadFunc := 256, loadVA := 2 ^ 57 })
     (match s.hoistBytes 0 ((s.core 0).res 0) with
      | .error (r, _) => r != .notPresent && r != .permission
      | .ok _ => false) = true ∧ s.parkedNow (.hoist 0 0) = false) ∧
    -- an entry to be freed: EVICTING, or revoked; a function above its quota
    (let s := { tCode (fun e => { e with state := 3 }) with groups := [] }
     ((s.core 0).res 0).state = 3 ∧ s.unused 0 0 = true) ∧
    (let s := { tCode (fun e => { e with revoked := true }) with groups := [] }
     ((s.core 0).res 0).revoked = true ∧ ((s.core 0).res 0).state ≠ 0 ∧ s.unused 0 0 = true) ∧
    (let s := ({ tCode id with groups := [] } : State).updFn 256 (fun f => { f with quota := 0 })
     s.overQuota 0 256 = some 0 ∧ (s.fragsOn 0).filter (fun c => s.inside c 0 ((s.core 0).res 0)) = []) ∧
    -- CODE_ABSENT: the agent hoists; the fragment goes on once the entry is LOADED
    (((onEntry (fun _ => ResEntry.free) (tAbsent none)).ctxOf tW).any (fun c => c.frag.state != .eligible &&
      decide ((tAbsent none).bindingAt c.lau.func c.lau.aspace 0 = some (0, 0))) = true ∧ ((tAbsent none).modl 0).overlayAt 0 = some (0, 1) ∧
      (match (onEntry (fun _ => ResEntry.free) (tAbsent none)).hoistAt 0 256 0 0 4096 with
       | .ok _ => true
       | .error _ => false) = true) ∧
    (((tAbsent (some 0)).core 0).slotAt 0 0 = some 0 ∧ (((tAbsent (some 0)).core 0).res 0).state = 2) ∧
    -- a dictionary to fill
    (let s := onGrp (fun g => { g with dictReady := false }) (onCore (fun k => { k with dicts := k.dicts.set 0 { launch := some 0, words := [] } }) tS)
     ((s.core 0).dicts[0]?).any (fun x => decide (x.launch = some 0)) = true ∧ (s.launches.find 0).isSome = true ∧
       (s.groups.find 0).any (fun g => decide (g.launch = 0) && !g.dictReady) = true) :=
  ⟨by decide +kernel, by decide +kernel, by decide +kernel, by decide, by decide, by decide, by decide +kernel, by decide, by decide, by decide⟩

/-- Queue 0 of the physical function with one packet in hand, at the head of its ring. -/
def tQueue (ws : List Nat) (f : Cq → Cq) : State :=
  ({ tS with tlb := tPages } : State).setCq 256 0 (f { Cq.reset with
    en := true, sizeLog2 := 6, tail := 1, state := 1, units := [(0, ws.flatMap (toLE 8) ++ List.replicate 224 0)] })
def atPacket (s : State) (type : Nat) (ws : List Nat) : Bool :=
  decide ((s.cq 256 0).packet = some ws) && decide (ws[0]?.getD 0 / 2 ^ 56 = type) && !badPacket ws
def tLevels (n : Nat) (c : Cq) : Cq := { c with levels := List.replicate n { va := 0, next := 0, total := 8 } }
/-- A launch record of one group of one gang at 4096 of the page. -/
def recordAt (s : State) : State := pageWords [(4096, [0, 2 ^ 32 + 2 ^ 12])] s
def submits (s : State) (ok : Submitted → Bool) : Bool := ok (s.submit 256 0 4096 (some 0) none [])

theorem witness_PacketResults :
    -- a packet that is refused; a unit to fetch
    (let s := tQueue [1, 0, 0, 0] id
     (s.cq 256 0).packet = some [1, 0, 0, 0] ∧ badPacket [1, 0, 0, 0] = true ∧ Claims.packetEvent (.nopPacket 256 0) = some (256, 0, 0)) ∧
    (let s := tQueue [] (fun c => { c with units := [] })
     (s.cq 256 0).runs = true ∧ (s.cq 256 0).packetVa = some 0 ∧ (s.cq 256 0).held = none ∧ (s.cq 256 0).inHand 0 = none ∧
       s.xl ioPlace 256 0 0 .frontEnd = .ok (2 ^ 30) ∧ s.ecc = [] ∧ s.lines = [] ∧ s.reqs = [] ∧ s.mx = [] ∧ 0 % 65536 + 256 ≤ 65536) ∧
    -- NOP; LAUNCH of a record that is good, refused, and with a full run list; RESUME
    atPacket (tQueue [0, 0, 0, 0] id) 0 [0, 0, 0, 0] = true ∧
    (atPacket (tQueue [2 ^ 56 + 1, 4096, 0, 0] id) 1 [2 ^ 56 + 1, 4096, 0, 0] = true ∧
      submits (recordAt (tQueue [2 ^ 56 + 1, 4096, 0, 0] id)) (fun x => match x with
        | .ok _ _ => true
        | _ => false) = true ∧
      submits (tQueue [2 ^ 56 + 1, 4096, 0, 0] id) (fun x => match x with
        | .stop r => r == 5
        | _ => false) = true ∧
      submits { recordAt (tQueue [2 ^ 56 + 1, 4096, 0, 0] id) with runList := List.replicate 256 (.launch 0) } (fun x => match x with
        | .full => true
        | _ => false) = true) ∧
    (atPacket (tQueue [2 * 2 ^ 56, 4096, 1, 0] id) 2 [2 * 2 ^ 56, 4096, 1, 0] = true ∧ tS.runList.length < Config.runList) ∧
    -- IB and PRED below the fourth level and at it
    (atPacket (tQueue [3 * 2 ^ 56 + 1, 256, 0, 0] id) 3 [3 * 2 ^ 56 + 1, 256, 0, 0] = true ∧
      atPacket (tQueue [3 * 2 ^ 56 + 1, 256, 0, 0] (tLevels 4)) 3 [3 * 2 ^ 56 + 1, 256, 0, 0] = true ∧
      ((tQueue [3 * 2 ^ 56 + 1, 256, 0, 0] (tLevels 4)).cq 256 0).levels.length = 4) ∧
    (atPacket (tQueue [4 * 2 ^ 56 + 2 ^ 16, 8, 0, 256] id) 4 [4 * 2 ^ 56 + 2 ^ 16, 8, 0, 256] = true ∧
      atPacket (tQueue [4 * 2 ^ 56 + 2 ^ 16, 8, 0, 256] (tLevels 4)) 4 [4 * 2 ^ 56 + 2 ^ 16, 8, 0, 256] = true ∧
      (tQueue [4 * 2 ^ 56 + 2 ^ 16, 8, 0, 256] id).xl ioPlace 256 0 8 .frontEnd = .ok (2 ^ 30 + 8)) ∧
    -- FENCE with nothing before it, after a RESUME, after a launch; ARM
    (let s := tQueue [5 * 2 ^ 56, 0, 0, 0] (fun c => { c with launches := [0] })
     atPacket s 5 [5 * 2 ^ 56, 0, 0, 0] = true ∧ (s.launches.find 0).any (fun l => !l.complete) = true ∧ (s.cq 256 0).launches = [0] ∧
       ((onLau (fun l => { l with complete := true }) s).launches.find 0).any (fun l => l.complete) = true ∧ (s.cq 256 0).resumes = 0 ∧
       ((tQueue [5 * 2 ^ 56, 0, 0, 0] (fun c => { c with resumes := 1 })).cq 256 0).resumes ≠ 0) ∧
    atPacket (tQueue [8 * 2 ^ 56 + 63, 0, 5, 64] id) 8 [8 * 2 ^ 56 + 63, 0, 5, 64] = true :=
  ⟨by decide, by decide, by decide, by decide +kernel, by decide, by decide, by decide, by decide, by decide⟩

/-- The arrival of a message that an ARM entry of queue 0 takes, with a buffer at the page's start. -/
def tArmed : State := (recordAt { tS with tlb := tPages }).updFn 256 (fun f => { f with
  arms := [(63, { queue := 0, va := 4096, aspace := 0, tag := 5, cap := 1, buf := 0 })] })

theorem witness_QueueSteps :
    -- SIGNAL: its store, its wait, its end; its message; WAIT with its word as it asks and not
    (let s := tQueue [6 * 2 ^ 56 + 2 ^ 16, 8, 7, 0] id
     atPacket s 6 [6 * 2 ^ 56 + 2 ^ 16, 8, 7, 0] = true ∧ s.fenced 256 0 = true ∧ (s.cq 256 0).due = none ∧ s.xl ioPlace 256 0 8 .write = .ok (2 ^ 30 + 8)) ∧
    (let s := tQueue [6 * 2 ^ 56 + 2 ^ 16, 8, 7, 0] (fun c => { c with due := some 1 })
     atPacket s 6 [6 * 2 ^ 56 + 2 ^ 16, 8, 7, 0] = true ∧ s.now < 1 ∧ (1 : Nat) ≤ ({ s with now := 1 } : State).now ∧ s.hostsOut (s.cq 256 0).hosts = false ∧
       (s.cq 256 0).ahead ≤ 2 ^ (s.cq 256 0).sizeLog2) ∧
    (let ws := [6 * 2 ^ 56 + 2 ^ 17 + 5 * 2 ^ 18, 64, 2 ^ 32 + 9, 0]
     atPacket (tQueue ws id) 6 ws = true ∧ (tQueue ws id).xl ioPlace 256 0 64 .frontEnd = .ok (2 ^ 30 + 64)) ∧
    (let ws := [7 * 2 ^ 56, 8, 0, 0]
     atPacket (tQueue ws id) 7 ws = true ∧ monHolds 0 3 ((tQueue ws id).readVis (2 ^ 30 + 8) 8) 0 = true ∧
       monHolds 0 3 ((tQueue ws id).readVis (2 ^ 30 + 8) 8) 1 = false ∧ ((tQueue ws id).cq 256 0).woken = false ∧
       (tQueue ws id).monitors = [] ∧ ((tQueue ws id).cq 256 0).due = none ∧ (tQueue ws id).homeOf (lineOf (2 ^ 30 + 8)) < 64 ∧
       ((tQueue ws (fun c => { c with woken := true })).cq 256 0).woken = true) ∧
    (let m (k : Nat) : Monitor := { slice := k, who := .queue 256 0, since := 0, func := 256, pa := 2 ^ 30 + 8, ty := 3, rel := 0, value := 1 }
     (([m 0] : List Monitor).any (fun x => decide (x.who = Waiter.queue 256 0) && decide (x.slice ≠ 64))) = true ∧
       (([m 64] : List Monitor).all (fun x => decide (x.slice = 64))) = true) ∧
    -- messages: one that an ARM entry takes, and one that none does
    (¬ (tArmed.msgAt.1 = tArmed.now ∧ 0 < tArmed.msgAt.2) ∧ (tArmed.fn 256).armFor 6 64 = none ∧ ((tArmed.fn 256).armFor 5 64).any (fun x => x.1 == 63 &&
      (match ({ tArmed.mergeClocks 0 0 with msgAt := (tArmed.now, 0) } : State).unitStore 256 0 none 0 (List.replicate 64 1) with
       | .ok (s1, _, _) =>
         (match (s1.updFn 256 (fun f => { f with arms := f.arms.del 63 })).submit 256 0 4096 (some 0) none [0, 64, 5] with
          | .ok _ _ => true
          | _ => false)
       | .error _ => false)) = true) ∧
    -- registers: before firmware is accepted; a doorbell within the ring and past it; CQ_CTL enabled and not; RESTART
    (let s : State := { tS with trust := { tS.trust with accepted := false } }
     s.hostMay 256 = false ∧ tS.hostMay 256 = true) ∧
    (let s := tQueue [] id
     (s.cq 256 0).state ≠ 2 ∧ (s.cq 256 0).en = true ∧ (BitVec.ofNat 32 64 - (s.cq 256 0).head).toNat ≤ 2 ^ (s.cq 256 0).sizeLog2 ∧
       2 ^ (s.cq 256 0).sizeLog2 < (BitVec.ofNat 32 65 - (s.cq 256 0).head).toNat ∧ (2 ^ 31 + 6 * 2 ^ 16) % 2 = 0 ∧ (tS.cq 256 7).en = false) ∧
    (let s := tQueue [] (fun c => { c with state := 2, stopReason := 9, byPacket := true })
     (s.cq 256 0).state = 2 ∧ (s.cq 256 0).ahead ≤ 2 ^ (s.cq 256 0).sizeLog2 ∧ (s.cq 256 0).byPacket = true) ∧
    (let s := tQueue [] (fun c => { c with state := 2, stopReason := 3, byPacket := false })
     (s.cq 256 0).byPacket = false ∧ (tS.cq 256 0).state ≠ 2) :=
  ⟨by decide, by decide, by decide, by decide, by decide, by decide +kernel, by decide, by decide, by decide, by decide⟩
/-! ### Steps of units: launches, faults, pre-emption, gain queues -/

/-- Launch 1, of one gang of 16 lanes, on the run list, its ticket line at 4096 of the page; its handler entry. -/
def tLaunch (groups ticket skips : Nat) : State := pageWords [(4096, [ticket, skips])]
  { tS with tlb := tPages, runList := [.launch 1], nextLaunch := 2
            launches := tS.launches.set 1 (newLaunch 256 0 0 none none
              { loadedRecord with groups := groups, width := 16, lastLanes := 16, regs := 8, ticket := 4096 } [] []) }
def claims (s : State) (ok : State → Nat → Bool) : Bool :=
  decide (s.takes 1 = some (1, 1)) && (s.evResumePlace 1).isNone && (s.launches.find 1).any (fun lau => !lau.rcd.cluster && decide (1 ≤ lau.rcd.gangs) &&
    (match s.unitAtomic lau.func lau.aspace (some 1) lau.rcd.ticket.toNat 0 3 1 1 with
     | .ok (s1, x, _) => ok s1 x
     | .error _ => false))
def drainedLaunch (c t : Bool) (n : Nat) : State := onLau (fun l => { l with claimed := 1, exited := n, terminated := t, complete := c }) { tS with groups := [] }

theorem witness_LaunchSteps :
    -- a claim of the last group, one that finds none left, and a head that was passed over sixteen times
    claims (tLaunch 1 0 0) (fun s1 x => x == 0 && ((s1.launches.find 1).any (fun lau => decide (x < lau.rcd.groups) &&
      ((s1.loadOf 1).spots lau.rcd (s1.bringsHandler 1 1 lau.rcd)).isSome))) = true ∧
    claims (tLaunch 1 1 0) (fun _ x => x == 1) = true ∧
    ((tLaunch 1 0 16).startable = [1] ∧ 16 ≤ (tLaunch 1 0 16).headSkips 1 1 ∧ (tLaunch 1 0 15).headSkips 1 1 < 16) ∧
    -- a drained group; a launch without groups, ended by its exits or by TERMINATE
    (((onGrp (fun g => { g with draining := true }) tS).groups.find 0).any (fun g => g.draining && !g.handlerOf && (tS.launches.find g.launch).isSome) = true ∧
      (onGrp (fun g => { g with draining := true }) tS).drained 0 = true) ∧
    ((drainedLaunch false false 1).launches.find 0).any (fun l => !l.complete && l.allClaimed && decide (l.latest ≤ 0) && decide (l.claimed ≤ l.exited) &&
      decide (l.saved = [])) = true ∧
    ((drainedLaunch false true 0).launches.find 0).any (fun l => l.terminated) = true :=
  ⟨by decide +kernel, by decide +kernel, by decide, by decide, by decide, by decide⟩

/-- The fault ring of the launch at the page's start, of one entry; the mailbox of the physical function with its arguments. -/
def tRing1 (s : State) : State := pageWords [(0, [0, 1])] { s with tlb := tPages }
def appends (s : State) (d : Bool) : Bool := (s.ctxOf tW).any (fun c => match c.frag.state with
  | .faulted i none => (s.appendAt c.grp.launch c.core (c.entryOf i d)).2.isSome
  | _ => false)
def mailOk (s : State) (func : Nat) : Bool := decide (func ≤ Config.physFn) && !(s.fn func).hcBusy && s.trust.accepted
theorem mailOk_ready {s : State} {func : Nat} (h : mailOk s func = true) : Claims.MailboxReady s func := by
  simpa [mailOk, Claims.MailboxReady, and_assoc] using h
def cowEntry (s : State) : State := onLau (fun l => { l with rcd := { l.rcd with cowEntry := 64 } }) s
def mailArgs (a b : Nat) (s : State) : State := s.updFn 256 (fun f => { f with hcArgs := (f.hcArgs.set 0 (BitVec.ofNat 64 a)).set 1 (BitVec.ofNat 64 b) })
def delegable (s : State) : Bool := (s.ctxOf tW).any (fun c => match c.frag.state with
  | .faulted i none => c.delegable i.reason
  | _ => false)
/-- Another fragment of the gang, in handler mode. -/
def withHandler (s : State) : State := onGang (fun q => { q with frags := q.frags ++ [{ fragOf 1 [15] none .eligible with handler := true }] }) s

theorem witness_FaultAnswers :
    -- a fault for the ring; delegable ones, alone and beside a handler
    (appends (tRing1 (tFaulted .badWalk none tS)) false = true ∧ delegable (tFaulted .badWalk none tS) = false) ∧
    (appends (tRing1 (tFaulted .cow none (cowEntry tS))) true = true ∧ delegable (tFaulted .cow none (cowEntry tS)) = true) ∧
    (delegable (tFaulted .cow none (cowEntry (withHandler tS))) = true ∧
      ((tFaulted .cow none (cowEntry (withHandler tS))).ctxOf tW).any (fun c => c.gang.frags.any (fun f => f.id != 0 && f.handler)) = true) ∧
    -- work that found the queue full
    (let s : State := { tS with rewalks := [{ due := 0, what := .frag tW }] }
     s.rewalks[0]? = some { due := 0, what := .frag tW } ∧ 0 ≤ s.now ∧ (s.fragOf tW).isSome = true) ∧
    -- RETRY and TERMINATE of a delivered fault and of none; REPLAY and CANCEL of a record and of none
    (let s := mailArgs 64 0 (tFaulted .badWalk (some 64) tS)
     mailOk s 256 = true ∧ (s.faultAt 256 64).any (fun c => decide (s.fragOf c.who = some c.frag) && (s.launches.find c.grp.launch).isSome) = true ∧
       s.savedFault 256 64 = none) ∧
    (mailOk tS 256 = true ∧ tS.faultAt 256 0 = none ∧ tS.savedFault 256 0 = none ∧
      tS.xrecs.find? (fun r => 4096 * r.die + r.place == 0 && r.func == 256) = none) ∧
    (let s := mailArgs 5 0 { tS with xrecs := [tXrec] }
     s.xrecs.find? (fun r => 4096 * r.die + r.place == 5 && r.func == 256) = some tXrec ∧ tXrec.parked = [(.frag tW, .notPresent, 65536)]) :=
  ⟨by decide +kernel, by decide +kernel, by decide, by decide, by decide, by decide, by decide⟩

/-- A fault of a fragment in handler mode, and its entry as delivered. -/
def tNested (b : Option Nat) : State := onFrag (fun f => { f with handler := true }) (tFaulted .cow b (cowEntry tS))

theorem witness_HandlerFaultsAreNested :
    ((tNested none).ctxOf tW).any (fun c => c.frag.handler && decide (c.frag.state = .faulted (infoOf .cow) none)) = true ∧
    appends (tRing1 (tNested none)) false = true ∧
    (let u := mailArgs 64 0 (tNested (some 64))
     mailOk u 256 = true ∧ (u.faultAt 256 64).any (fun d => decide (d.who = tW) && decide (u.fragOf tW = some d.frag)) = true) :=
  ⟨by decide, by decide +kernel, by decide⟩

/-- A group of 16 lanes and 8 registers whose launch's save region of one slot starts at the page. -/
def tSmall (s : State) : State := onLau (fun l => { l with rcd := { l.rcd with width := 16, lastLanes := 16, regs := 8 } })
  (pageWords [(0, [1, 32768])] (onGang (fun g => { g with lanes := 16 }) { s with tlb := tPages }))
def preempting (p : Preempt) : State := onGrp (fun g => { g with preempt := p }) (tSmall tS)
def claimsSlot (s : State) (ok : Option Nat → Bool) : Bool := (s.launches.find 0).any (fun lau => match (s.runSlots 0).claimSlot 0 0 lau with
  | .ok (_, k) => ok (k.map Prod.fst)
  | .error _ => false)
def tSave (host : Bool) : SaveRec :=
  { func := 256, aspace := 0, va := 4096, launch := 0, gid := 0, tag := 0, grp := groupAt 0 0 (newLaunch 256 0 0 none none loadedRecord [] []) false 0
      { place := 0, slots := [0], stash := 0, acc := 0 } true
    rsvs := [], reqs := [], cmds := [], pens := [], opened := true, host := host, slot := 0, due := 0, hosts := [], image := List.replicate 64 0 }
def tSaved (host : Bool) : State := { tSmall tS with groups := [], saves := [tSave host] }
def tFocus : Focus := { gang := 0, frag := 0, lane := 0, left := 0, steps := 9, ended := 1 }

theorem witness_PreemptionSteps :
    -- PREEMPT with bad arguments, of no group, of one with a slot, being saved, and of one that gets a slot, gets none, or has no region
    (mailOk (mailArgs 0 (2 ^ 32) tS) 256 = true ∧ fld (((mailArgs 0 (2 ^ 32) tS).fn 256).hcArgs[1]) 32 32 ≠ 0) ∧
    (fld (((mailArgs 0 1 tS).fn 256).hcArgs[1]) 32 32 = 0 ∧ (mailArgs 0 1 tS).groupNamed 256 0 1 = none) ∧
    ((preempting (.claimed false 0 0)).groupNamed 256 0 0).any (fun g => g.1 == 0 && decide (g.2.preempt = .claimed false 0 0)) = true ∧
    ((preempting (.saving false 0 0 [] [] [])).groupNamed 256 0 0).any (fun g => decide (g.2.preempt = .saving false 0 0 [] [] [])) = true ∧
    (let b : State → State := fun s => s.updFn 256 (fun f => { f with hcCmd := 1, hcBusy := true })
     claimsSlot (b (tSmall tS)) (· == some 0) = true ∧ claimsSlot (b (pageWords [(0, [0])] (tSmall tS))) (· == none) = true ∧
       (tS.launches.find 0).any (fun lau => match (tS.runSlots 0).claimSlot 0 0 lau with
         | .ok _ => false
         | .error _ => true) = true) ∧
    -- a group that waits for a slot; one at its boundary; one whose image (here of no gang) is to be written; a focus that has ended
    (claimsSlot (preempting (.wanted true)) (· == some 0) = true ∧ ((preempting (.wanted true)).groups.find 0).any (fun g => decide (g.preempt = .wanted true)) = true) ∧
    ((preempting (.claimed true 0 0)).groups.find 0).any (fun g => (preempting (.claimed true 0 0)).atBoundary 0 g &&
      decide ((preempting (.claimed true 0 0)).monitors = [])) = true ∧
    (let s := onGrp (fun g => { g with gangs := [] }) (preempting (.saving true 0 0 [] [] []))
     s.workDone 0 = true ∧ s.saves = [] ∧ (s.groups.find 0).any (fun g => (s.launches.find 0).any (fun lau =>
       match (s.dropLines 0).imageVa 0 256 0 0 0 with
       | .ok (s1, va) => va == 4096 && (s1.unitStore 256 0 (some 0) va (s.imageOf 0 g lau 0 [] [] [] []) 0 0).isOk
       | .error _ => false)) = true) ∧
    ((onGrp (fun g => { g with focus := some tFocus }) tS).groups.find 0).any (fun g => decide (g.focus = some tFocus) && decide (g.preempt = .none) &&
      !g.draining) = true ∧
    -- the image's last write has its time: for the host, and for the agents
    ((tSaved true).saves.find? (fun x => x.gid == 0 && x.opened && (tSaved true).writesDone x.due x.hosts) = some (tSave true) ∧
      (tSaved false).runList.length < 256 ∧ (tSaved false).saves.find? (fun x => x.gid == 0 && x.opened && (tSaved false).writesDone x.due x.hosts) = some (tSave false) ∧
      (match (tSaved true).unitStore 256 0 (some 0) (4096 + 0x30) ((imageDone (tSave true).image 0 |>.drop 0x30).take 16) 0 0 with
       | .ok (s1, t1, _) => (s1.unitStore 256 0 (some 0) 4096 ((imageDone (tSave true).image 0).take 8) t1 0).isOk
       | .error _ => false) = true) ∧
    -- a RESUME whose image fails its first check, of the agents and of queue 7
    (let s (q : Option Nat) : State := { tSmall tS with runList := [.resume 256 0 q 0 0] }
     (match (s none).imageVa 0 256 0 0 0 with
      | .ok (s1, va) => va == 4096 && (match s1.readImage 0 256 0 va with
        | .error k => k == 1
        | .ok _ => false)
      | .error _ => false) = true ∧ (s (some 7)).runList = [.resume 256 0 (some 7) 0 0]) :=
  ⟨by decide, by decide, by decide, by decide, by decide +kernel, by decide +kernel, by decide +kernel, by decide +kernel, by decide, by decide +kernel,
    by decide +kernel⟩

/-- The smallest gang, its mask stack full in one quad. -/
def tEntry : MaskEntry := { resume := 2 ^ 57 - 2, join := some 0, phase := true, doneMask := 15, other := 15 }

theorem witness_GangImageRoundTrip : (0 < 1 ∧ 64 ≤ 64 ∧ 96 ≤ 96 ∧ (0 : Nat) < 2 ^ 64) ∧ Claims.EntryOk tEntry ∧
    (tS.gangAt 0 0).any (fun g => g.quads[15].present) = true ∧ (List.replicate 32 tEntry).length ≤ 32 :=
  ⟨by decide, ⟨by decide, by decide, fun j h => by cases h; decide⟩, by decide, by decide⟩

def tHeld (m : Nat) : GqUpdate := { who := tW, task := 0, value := 0x3F800000, max := false, marker := m }
def tOpen (f : Pool → Pool) : State := pageWords [(0, [0x3F800000 * 2 ^ 32, 1])] ({ tGq (f (tPool 0 [])) with tlb := tPages })

theorem witness_GainQueueSteps :
    -- a held update whose marker has come: applied, refused by its task, of a fragment that is no more
    (let s := tGq { tPool 1 [tTask 0] with held := [tHeld 0] }
     (s.pool 15).held[0]? = some (tHeld 0) ∧ 0 ≤ s.now ∧ (s.pool 15).held.take 0 = [] ∧ (s.ctxOf tW).any (fun c =>
       decide (s.gqCheck c 15 (some 0) (some 0x3F800000) = none)) = true ∧
       (match ({ s.pool 15 with held := [] } : Pool).update false 0 0x3F800000 with
        | .ok _ => true
        | .error _ => false) = true) ∧
    (let s := tGq { tPool 1 [] with held := [tHeld 0] }
     (s.ctxOf tW).any (fun c => decide (s.gqCheck c 15 (some 0) (some 0x3F800000) ≠ none)) = true ∧ ({ s with groups := [] } : State).ctxOf tW = none) ∧
    -- OPEN: not the owner's; of an open pool; of a bad register; of a bad entry; of good ones; CLOSE
    ((tS.pool 15).owner = 0x1FF ∧ ((tGq (tPool 1 [])).pool 15).owner = 256 ∧ ((tGq (tPool 1 [])).pool 15).state = 1 ∧ ((tGq (tPool 0 [])).pool 15).ntasks = 0) ∧
    (let s := tOpen (fun p => { p with ntasks := 1 })
     let p := s.pool 15
     p.state ≠ 1 ∧ 0 < p.ntasks ∧ p.ntasks ≤ 2 ^ 20 ∧ p.base.toNat % 16 = 0 ∧ p.spill.toNat + 16 * p.ntasks ≤ 2 ^ 38 ∧ posFin p.tolerance.toNat = true ∧
       posFin p.threshold.toNat = true ∧ (match s.unitLoad 256 0 0 16 .read with
         | .ok (_, bs) => (parseTasks bs 1 0).any (fun ts => ts.any (fun x => x.state == 1)) && (parseTasks (List.replicate 15 0 ++ [0xFF]) 1 0).isNone
         | .error _ => false) = true) :=
  ⟨by decide, by decide, by decide, by decide +kernel⟩
/-! ### The host's registers, the mailbox, errors, clocks -/

def noTrust (s : State) : State := { s with trust := { s.trust with accepted := false } }
def withFn (f : Func → Func) (s : State) : State := s.updFn 256 f

theorem witness_HostRegisters :
    (tS.trust.accepted = true ∧ (noTrust tS).trust.accepted = false ∧ 256 ≤ Config.physFn ∧ (tS.fn 256).evWait = [] ∧ (tS.fn 256).evDue = none ∧ (tS.fn 256).trcEn = false) ∧
    -- L2_WAYS: five code ways, a way of another function, and good masks
    (4 < ((List.range 16).filter (fun i => (BitVec.ofNat 16 31 : BitVec 16).getLsbD i)).length ∧
      ((BitVec.ofNat 16 1 : BitVec 16) ||| 0) &&& ((tS.fn 0).alloc ||| (tS.fn 0).code ||| (tS.fn 0).adapt) ≠ 0 ∧
      ((BitVec.ofNat 16 1 : BitVec 16) ||| 0) &&& ~~~(BitVec.ofNat 16 1 : BitVec 16) = 0) ∧
    -- L2_LEASE at its ends; CODE_CANTON at the sum of all
    (31 % 2 ^ 13 < 32 ∧ 4096 < 4097 % 2 ^ 13 ∧ 32 ≤ 32 % 2 ^ 13 ∧ 4096 % 2 ^ 13 ≤ 4096) ∧
    (128 < 129 % 256 ∧ ((((List.range 257).filter (fun g => g != 256)).map (fun g => (tS.fn g).quota)).sum + 128 % 256 ≤ 128) ∧
      128 < ((((List.range 257).filter (fun g => g != 0)).map (fun g => (tS.fn g).quota)).sum + 1 % 256)) ∧
    -- a mode change of entry 63, of none, under way and done
    ((63 : Nat) < 64 ∧ (2 : Nat) < 3 ∧ (tS.mxe 63).busy = false ∧ ((tS.setMx 63 { MxEntry.reset with busy := true }).mxe 63).busy = true) :=
  ⟨by decide, by decide, by decide, by decide +kernel, by decide⟩

theorem witness_RegisterMap :
    -- accesses that do not fit; past a function's window and at its end; the mailbox, and what lies after it
    (((2 : Nat) ≠ 8 ∧ (2 : Nat) ≠ 4) ∧ ((8 : Nat) ≠ 4 ∧ 0x104 % 8 ≠ 0) ∧ ((4 : Nat) ≠ 8 ∧ 0x106 % 4 ≠ 0) ∧ (0x104 % 4 = 0 ∧ 0x104 % 8 ≠ 0)) ∧
    ((0 : Nat) < Config.physFn ∧ (2 : Nat) ^ 16 ≤ 65536 ∧ ¬ (2 : Nat) ^ 16 ≤ 65528 ∧ (2 : Nat) ^ 22 ≤ 4194304 ∧ ¬ (2 : Nat) ^ 22 ≤ 4194296 ∧
      Config.physFn < 257 ∧ 0x28 ≤ 0x28 ∧ ¬ 0x28 ≤ 0x20) ∧
    (noTrust tS).trust.accepted = false ∧ tS.trust.accepted = true ∧ ((tGq (tPool 0 [])).pool 15).owner = 256 ∧
    ((tMx.mxe 0).modeOf ≠ 0 ∧ 0xB00 % 8 = 0 ∧ 0 < Config.physFn ∧ (5 : Nat) % 4 = 1 ∧ (6 : Nat) % 4 = 2) :=
  ⟨by decide, by decide, by decide, by decide, by decide, by decide⟩

/-- The mailbox's arguments, and the page at address 0. -/
def mail (a : List Nat) (s : State) : State := withFn (fun f => { f with hcArgs := Vector.ofFn (fun i : Fin 4 => BitVec.ofNat 64 (a[i.val]?.getD 0)) }) { s with tlb := tPages }
def argsOf (s : State) : List Nat := (s.fn 256).hcArgs.toList.map BitVec.toNat
def busyWith (code : Nat) (s : State) : State := withFn (fun f => { f with hcBusy := true, hcCmd := BitVec.ofNat 64 code, hcMark := 1 }) s

theorem witness_MailboxCommands :
    -- a mailbox that is busy, before firmware is accepted, of the wrong issuer; codes that are listed and not
    (((busyWith 6 tS).fn 256).hcBusy = true ∧ (noTrust tS).trust.accepted = false ∧ mailOk tS 256 = true ∧ mailOk tS 0 = true ∧ (0 : Nat) ≠ Config.physFn ∧
      Claims.physOnly (.moduleLoad 0) = some 0 ∧ Claims.mailbox (.attest 256) = some 256 ∧ (0x14 : Nat) ≤ 0x14 ∧ (0x14 : Nat) < 0x15) ∧
    -- PEER_SET, refused and not; COLL_SETUP of context 16, of a list of one, and of a list of two
    (argsOf (mail [64, 0] tS) = [64, 0, 0, 0] ∧ (64 : Nat) ≤ 64 ∧ argsOf (mail [63, 0x1FFFFFF + 0xFF * 2 ^ 32] tS) = [63, 0x1FFFFFF + 0xFF * 2 ^ 32, 0, 0] ∧
      fld (BitVec.ofNat 64 (0x1FFFFFF + 0xFF * 2 ^ 32)) 25 7 = 0 ∧ fld (BitVec.ofNat 64 (0x1FFFFFF + 0xFF * 2 ^ 32)) 40 24 = 0) ∧
    (let s := pageWords [(0, [2 + 2 ^ 32, 7])] (mail [15, 0] tS)
     (match (Claims.Taken s 256 8).unitWord 256 0 0 8 .read with
      | .ok (s1, w) => w == 2 + 2 ^ 32 && (s1.unitLoad 256 0 8 2 .read).isOk
      | .error _ => false) = true ∧ bits (2 + 2 ^ 32) 0 32 = 2 ∧ bits (2 + 2 ^ 32) 32 32 = 1 ∧ bits (2 + 2 ^ 33) 32 32 = 2) ∧
    -- ATTEST with its signatures used up, and with one left
    (let s := mail [0, 4096] tS
     (match (Claims.Taken s 256 9).unitLoad 256 0 0 32 .read with
      | .ok (s1, nonce) =>
        let rep := (Claims.Taken s 256 9).report 256 nonce
        let sig := toBE 4 s.trust.leaf ++ (List.range (xmssSigLen - 4)).map (Config.attestSig s.trust.leaf rep)
        (({ s1 with trust := { s1.trust with leaf := s1.trust.leaf + 1 } } : State).unitStore 256 0 none 4096 (rep ++ sig)).isOk
      | .error _ => false) = true ∧ s.trust.leaf < 2 ^ 20 ∧ 2 ^ 20 ≤ ({ s.trust with leaf := 2 ^ 20 } : Trust).leaf) ∧
    -- FUNCTION_RESET of a function with a launch under way; the end of an INVALIDATE
    (argsOf (mail [256] tS) = [256, 0, 0, 0] ∧ (tS.launches.find 0).any (fun l => decide (l.func = 256) && !l.complete) = true) ∧
    (let s := busyWith 6 (reqsOf [tReq 1 0 .store .flight] { tS with pending := [tPend 0 0 0 none] })
     (s.fn 256).hcBusy = true ∧ (s.fn 256).hcCmd = 6 ∧ (∀ r ∈ s.reqs, r.func = 256 → (s.fn 256).hcMark ≤ r.id) ∧
       ∀ p ∈ s.pending, p.func = 256 → p.id < (s.fn 256).hcMark → p.t ≤ s.now) :=
  ⟨by decide, by decide, by decide, by decide +kernel, by decide, by decide⟩

theorem witness_ModuleCommands :
    -- MODULE_LOAD with bad arguments, without a key, of a directory that is out of order
    ((1 : Nat) % 4096 ≠ 0 ∧ argsOf (mail [4096, 1, 0, 7] tS) = [4096, 1, 0, 7] ∧ fld (BitVec.ofNat 64 1) 0 16 ≠ 0 ∧ fld (BitVec.ofNat 64 1) 49 15 = 0 ∧
      tS.trust.keys.find 7 = none) ∧
    (let s := mail [0, 1 + 2 * 2 ^ 32, 0, 7] { tS with trust := { tS.trust with keys := [(7, [])] } }
     (s.modl 1).state = 0 ∧ (s.modl 0).state ≠ 0 ∧ s.trust.keys.find 7 = some [] ∧
       ((Claims.Taken s 256 0x10).unitLoad 256 0 0 4096 .read).isOk = true ∧ ((Claims.Taken s 256 0x10).unitLoad 256 0 0 xmssSigLen .read).isOk = true ∧
       parseDir 1 [0, 0] 0 = none ∧ parseDir 1 [0] 0 = some [(0, 0)]) ∧
    -- MODULE_BIND: bad, UNBIND, of a slot in use, of one free with and without a clash
    ((256 : Nat) ≤ 256 ∧ fld (BitVec.ofNat 64 (256 + 2 ^ 40)) 40 1 = 1 ∧ (tS.modl 0).state = 1 ∧ (tS.modl 255).state ≠ 1 ∧ ((tS.fn 256).bindings.find 0).isSome = true ∧ (tS.fn 256).bindings.find 63 = none ∧
      (Claims.Taken tS 256 0x11).bindClash 256 { modIdx := 0, aspace := 0, va4k := 1 } = false ∧
      (Claims.Taken tS 256 0x11).bindClash 256 { modIdx := 0, aspace := 0, va4k := 0 } = true) ∧
    -- MODULE_UNLOAD of a module that is loaded, and of none; its end
    ((tS.modl 0).state = 1 ∧ (tS.modl 255).state ≠ 1) ∧
    (let s := busyWith 0x12 ({ tS with cores := [] }.setModl 0 { loadedModule [] with state := 2 })
     (s.fn 256).hcBusy = true ∧ (s.fn 256).hcCmd = 0x12 ∧ s.modules.find? (fun x => x.2.state == 2) = some (0, { loadedModule [] with state := 2 }) ∧ s.cores = []) ∧
    -- KEY_ENROLL: bad, CLEAR, a key of the wrong OID, a key of the right one
    (fld (BitVec.ofNat 64 8) 3 5 ≠ 0 ∧ fld (BitVec.ofNat 64 263) 8 1 = 1 ∧ fld (BitVec.ofNat 64 263) 3 5 = 0 ∧ fld (BitVec.ofNat 64 263) 9 55 = 0) ∧
    (match (Claims.Taken (pageWords [(0, [0x12000000])] (mail [0, 7] tS)) 256 0x13).unitLoad 256 0 0 68 .read,
        (Claims.Taken (mail [0, 7] tS) 256 0x13).unitLoad 256 0 0 68 .read with
     | .ok (_, a), .ok (_, b) => decide (beNat (a.take 4) = 0x12) && decide (beNat (b.take 4) ≠ 0x12)
     | _, _ => false) = true ∧
    -- FW_LOAD: bad; of an image that fails
    ((4095 : Nat) < 4096 ∧ ((Claims.Taken (mail [0, 4096] tS) 256 0x14).unitLoad 256 0 0 4096 .read).isOk = true ∧
      ((Claims.Taken (mail [0, 4096] tS) 256 0x14).unitLoad 256 0 0 xmssSigLen .read).isOk = true) :=
  ⟨by decide, by decide +kernel, by decide, by decide, by decide, by decide, by decide +kernel, by decide +kernel⟩

theorem not_passes (t : Trust) (image : List Byte) (h : t.key = []) (sig : List Byte) : t.passes image sig = false := by
  simp [Trust.passes, xmssVerify, h, xmssKeyLen]

theorem witness_LeaseRegister : tS.trust.accepted = true ∧ (256 : Nat) ≤ Config.physFn := ⟨by decide, by decide⟩

def spareOf (n : Nat) (s : State) : State := { s with dies := s.dies.set 0 { s.die 0 with spares := n } }
def retiring (s : State) : State := onCore (fun k => { k with retiring := true }) s
/-- Slice 15 of die 0, whose next slice is retired. -/
def tSlice : State := { tS with slices := [(0, { Slice.reset 0 with retired := true })], lines := [(15, { lmax := 9, tlast := 3, owner := none })] }

theorem witness_ErrorsAndClocks :
    -- errors of each kind, with the event queue disabled and room in it; a lost line, of memory and of a window
    ((5 : Nat) ≤ 5 ∧ (4 : Nat) < 5 ∧ (2 ^ 38 - 1 : Nat) < 2 ^ 38 ∧ (tS.fn Config.physFn).evEn = false ∧ (tS.fn Config.physFn).evWait.length < 1024) ∧
    (let s : State := { tWindow [(0, tLine true 0)] with lines := [(lineOf (2 ^ 30 + 4096), { lmax := 0, tlast := 0, owner := some 0 })] }
     (s.recOf (lineOf (2 ^ 30 + 4096))).owner = some 0 ∧ (s.groups.find 0).isSome = true ∧ (tS.recOf 0).owner = none) ∧
    -- a core to retire: with a group, without, without a spare
    ((96 : Nat) ≤ 96 ∧ (tS.core 0).unplaced = false ∧ (tS.core 0).retiring = false ∧ ((retiring tS).core 0).retiring = true ∧
      (∃ gid g, (gid, g) ∈ (retiring tS).groups ∧ coreOf gid = 0) ∧ ({ retiring tS with groups := [] } : State).groups = [] ∧
      ((spareOf 0 tS).die 0).spares = 0 ∧ (tS.die 0).spares ≠ 0) ∧
    -- a slice to retire, whose neighbour is retired already, and a line of its
    ((tSlice.slice 15).retired = false ∧ (tSlice.slice (15 / 16 * 16 + (15 % 16 + 0 + 1) % 16)).retired = true ∧ (tSlice.slice 1).retired = false ∧
      tSlice.homeOf 15 = 15) ∧
    -- a device to spare, and a line of it to copy
    (let s : State := { tS with sparing := [{ dev := 0, copied := [] }] }
     (63 : Nat) < 64 ∧ (∀ d ∈ tS.sparing, d.dev / 16 ≠ 3) ∧ (∃ d ∈ s.sparing, d.dev / 16 = 15 / 16) ∧ channelOf 0 = 0 / 2 ∧ 0 ∉ s.ecc ∧
       0 ∈ ({ s with ecc := [0] } : State).ecc) ∧
    -- clocks: a pair that is stretched, 64 clk above its threshold; power above LIMIT; a die to stop and one stopped
    (let s := tS.setPair 47 { stretched := true, above := 64, skip := false, lag := 0 }
     (s.pair 47).stretched = true ∧ 64 ≤ (s.pair 47).above ∧ (tS.pair 47).stretched = false ∧ tS.limit < 2201 ∧ 2200 ≤ tS.limit ∧
       (tS.die 3).stopped = false ∧ (({ tS with dies := tS.dies.set 4 { tS.die 4 with stopped := true } } : State).die 4).stopped = true) :=
  ⟨by decide, by decide, ⟨by decide, by decide, by decide, by decide, ⟨0, _, List.mem_cons_self, by decide⟩, rfl, by decide, by decide⟩, by decide, by decide,
    by decide⟩

/-! ### Fetch, decode and the invariants -/

def fetches3 (s : State) (c : Ctx) (w : Word) : Bool := match s.fetchAt c with
  | .words a b d (some 0) => a == w && b == 0 && d == 0
  | _ => false

theorem witness_StepRunsTheInstruction :
    -- a turn of a unit; a fragment whose words are an instruction that runs, that needs too many registers, or are none
    (let s : State := { tS with agenda := [.unit .issueSelect] }
     s.agenda = .unit .issueSelect :: []) ∧
    (let s := State.reset.loadWords [0x00E14262]
     let u : State := { s with agenda := [], issuing := [] }
     s.issuing = tW :: [] ∧ (u.ctxOf tW).any (fun c => u.mayIssue c && fetches3 u c 0x00E14262 &&
       decide ((Instr.iadd { g := 7, d := 5, a := 4, b := 98 }).regsNeeded ≤ c.lau.rcd.regs) && decide (c.grp.focus = none) &&
       !u.syncing c && !u.regsBusy c (scoreRegs (.iadd { g := 7, d := 5, a := 4, b := 98 }) (implicitRegs 0x00E14262))) = true ∧
     ((onLau (fun l => { l with rcd := { l.rcd with regs := 0 } }) u).ctxOf tW).any (fun c =>
       decide (c.lau.rcd.regs < (Instr.iadd { g := 7, d := 5, a := 4, b := 98 }).regsNeeded)) = true) ∧
    (decode ([(0x00E14262 : Word), 0, 0].flatMap (fun w => leBytes 4 w.toNat))).toOption = some (.iadd { g := 7, d := 5, a := 4, b := 98 }, List.replicate 8 0) ∧
    (decode ([(0xFBFFFFFF : Word), 0, 0].flatMap (fun w => leBytes 4 w.toNat))).toOption = none ∧
    -- fetch from an entry that is loaded, and from one that is loading
    Has tS (fun c => c.frag.code = none ∧ c.frag.pc.toNat % 2 = 0 ∧ tS.bindingAt c.lau.func c.lau.aspace c.frag.pc.toNat = some (0, 0) ∧
      tS.revokedMod 0 = false ∧ (tS.core c.core).slotAt 0 0 = some 0 ∧ c.lau.rcd.dict = 0 ∧ ((tS.core c.core).res 0).state = 2 ∧ tS.beyondQuota c.core c.lau.func 0 = false ∧ 0 % 4 = 0 ∧
      ((tS.core c.core).res 0).offset * 4096 ≤ 0 ∧ 0 + 12 ≤ (((tS.core c.core).res 0).offset + ((tS.core c.core).res 0).units) * 4096) ∧
    Has (onEntry (fun e => { e with state := 1 }) tS) (fun c => ((onEntry (fun e => { e with state := 1 }) tS).core c.core).slotAt 0 0 = some 0 ∧
      (((onEntry (fun e => { e with state := 1 }) tS).core c.core).res 0).state = 1) :=
  ⟨by decide, by decide, by decide, by decide, has (by decide), has (by decide)⟩

theorem witness_DecodeOfEncode : (Instr.iadd { g := 7, d := 5, a := 4, b := 98 }).wf = true ∧ encode (.iadd { g := 7, d := 5, a := 4, b := 98 }) ≠ [] ∧
    (Instr.brl { g := 7, rsvd := 0, d64 := 0x000000FFFFFF0000 }).wf = true ∧ (encode (.brl { g := 7, rsvd := 0, d64 := 0x000000FFFFFF0000 })).length = 3 :=
  ⟨by decide, by decide, by decide, by decide⟩

theorem witness_EncodeOfDecode : (decode ((leBytes 4 0xF9E00000) ++ [1])).toOption = some (.nop { g := 7, d := 0, a := 0, b := 0 }, [1]) := by decide

/-- The step after reset that runs a word keeps the canonical form, and leaves good fragments. -/
theorem witness_Invariants : State.reset.MemOk ∧ State.reset.FragsOk ∧
    (match step (State.reset.withFetchWord 32 0x00E14262) with
     | .next t => t.mem.wf && t.groups.all (fun g => g.2.gangs.all (fun x => x.frags.all (fun f => decide (f.pc = 4))))
     | _ => false) = true :=
  ⟨rfl, ⟨fun _ _ h => absurd h List.not_mem_nil, fun _ _ h => absurd h List.not_mem_nil⟩, by decide⟩

/-! ### What holds an instruction back, and what a wake brings: clauses of the statements above -/

/-- Another fragment of the gang waits in a walk. -/
def olderWalk : State → State := onGang (fun g => { g with frags := g.frags ++ g.frags.map (fun f => { f with id := 1, state := .stalled .walk }) })
def grants (x : Grant) : State → State := onFrag (fun f => { f with grant := some x })
def outReq (kind : ReqKind) : State := reqsOf [tReq 0 (2 ^ 30) kind .flight] tGlobal
def wordAt (off : Nat) : Route → Bool
  | .stash 0 o => o % 4 == off
  | _ => false

theorem witness_AccessesHeldBack :
    Has (grants (.walkFault .notPresent 65536) tGlobal) (fun c => c.frag.grant = some (.walkFault .notPresent 65536)) ∧
    Has (olderWalk tStash) (fun c => runs (.stN32Lane (oM 0 0 0 0)) (olderWalk tStash) isStash c = true ∧ c.olderWaits = true) ∧
    -- a load of the same lane and a store of the gang to the same line are on their way
    Has (outReq (.load 4 false .readBuffer)) (fun c => runs (.ldN32Lane (oM 0 0 0 0)) (outReq (.load 4 false .readBuffer)) isHome c = true ∧
      (outReq (.load 4 false .readBuffer)).loadOut c.who.gid c.who.gang 0 (2 ^ 30) 4 = true) ∧
    Has (outReq .store) (fun c => ready { o := oMu 3, size := 8, acc := .read, lane := false } (outReq .store) c = true ∧
      goes (({ o := oMu 3, size := 8, acc := .read, lane := false } : MemForm).checks (outReq .store) c id) (fun a => a.route == .home (2 ^ 30)) = true ∧
      (outReq .store).ownWrite c.who.gid c.who.gang (lineOf (2 ^ 30)) = true ∧ c.frag.grant = none) ∧
    Has (outReq (.load 2 false .const)) (fun c => ready { o := oMu 5, size := 2, acc := .read, lane := false } (outReq (.load 2 false .const)) c = true ∧
      (outReq (.load 2 false .const)).ldcOut c.who.gid c.who.gang (2 ^ 30) 2 = true) ∧
    Has (onFrag (fun f => { f with skip := 1 }) tS) (fun c => c.frag.skip.getLsbD 0 = true ∧ (c.wrapFn (oM 0 0 0 0).x (c.gang.rdG 97)).isSome = true) ∧
    -- ATOM.FADD on the partition, of lanes and uniform
    Has tStash (fun c => laneAtomOp (.atomFaddLane (oM 0 8 1 0)) = some (oM 0 8 1 0, 1) ∧ runs (.atomFaddLane (oM 0 8 1 0)) tStash (wordAt 0) c = true ∧
      tStash.unsettled c.who.gid c.who.gang = false ∧ c.gang.wct ≤ tStash.now ∧ c.grp.lines = []) ∧
    Has tStash (fun c => runs (.atomFaddUniform { oMu 8 with x := { (oMu 8).x with subf := 1 } }) tStash (wordAt 0) c = true) :=
  ⟨has (by decide), has (by decide), has (by decide), has (by decide), has (by decide), has (by decide), has (by decide), has (by decide)⟩

noncomputable def tGathered : State := cmdAt { tIndexed with tlb := tPages } (.twGather (oC 0 0)) (fun x =>
  { x with stage := .active, ga := 0, idx := (loopsOf x.prog).map (fun z => (z.1, iterNo x.prog 0 z.1, 5)) })
/-- A store of accumulator rows that waits to be walked; the same instruction beside a posted pass over its row. -/
noncomputable def tAccStore : State :=
  cmdAt (onLau (fun l => { l with rcd := { l.rcd with accRows := 1 } }) tRun) (.twStore (oC 1 8)) (fun x => { x with stage := .active })
def tAccUse : State := setG 98 0 (setG 97 0 (setG 99 0 (tWin (stashWords [4 * 2 ^ 60 + 15 * 2 ^ 44, 0] (tPosted 1)))))
/-- A background pass, and a tap row that is to be encoded. -/
def tBoth : State := onCore (fun k => { k with rsvs := ((tPosted 1).core 0).rsvs.map (fun r => { r with cls := .background }) })
  (tWork false .waiting [] [0, 0] 64)

def tTrig : State := onGrp (fun g => { g with handlerOf := true }) tS

theorem witness_UnitsHeldBack :
    Has tTrig (fun c => c.grp.handlerOf = true ∧ c.grp.lines = [] ∧ tTrig.unsettled c.who.gid c.who.gang = false ∧ c.gang.wct ≤ tTrig.now ∧ c.gang.triggered = false) ∧
    Has (grants (.reached true) tS) (fun c => c.frag.grant = some (.reached true)) ∧
    Has (onEntry (fun e => { e with revoked := true }) tS) (fun c =>
      ((onEntry (fun e => { e with revoked := true }) tS).core c.core).tokenSlot 0 = some 0 ∧
      (((onEntry (fun e => { e with revoked := true }) tS).core c.core).res 0).revoked = true) ∧
    Has (olderWalk tRun) (fun c => (cmdFor c (.twLoad (oC 0 0))).isSome = true ∧ c.olderWaits = true) ∧
    Has tAccUse (fun c => (cmdFor c (.twStore (oC 1 8))).any (fun y =>
      (c.grp.accRowsOf c.accRows y.2).any (fun r => tAccUse.passOver c r 1 1 (BitVec.allOnes 256))) = true) ∧
    Has tAccStore (fun c => tAccStore.accReads c 0 1 1 (BitVec.allOnes 256) = true) ∧
    -- a fetch that a queued command waits for; a tap row that goes before a pass; an element of an index that has been read
    (let s := onCore (fun k => { k with queue := [tCmd 0] }) (tPass (fun r => { r with stage := .granted, hB := (0, tLocal) }))
     (s.core 0).queue.find? (fun y => y.stage == .queued) = some (tCmd 0) ∧ s.slotFree 0 = true ∧ s.fetchWaits 0 = true) ∧
    theRsv tBoth (fun r => tBoth.grantedPass 0 == none && tBoth.arrayIdle 0 && tBoth.passTurn 0 r && tBoth.holdOk 0 r && tBoth.tapFirst 0 r) = true ∧
    theCmd tGathered (fun x => x.idx.any (fun y => (x.idx.find? (fun z => z.1 == y.1 && z.2.1 == iterNo x.prog 0 y.1) == some y) &&
      (loopsOf x.prog).any (fun z => z.1 == y.1) && (indexFor x.prog y.1).isSome)) = true ∧
    -- an atomic of an uncorrectable line; a line of L2 that is dirty, and one that is not
    (let s : State := { tS with ecc := [lineOf (2 ^ 30)], pending := [tPend 0 (2 ^ 30) 0 (some { op := 8, ty := 2, opnd := 1, cmp := 0 })]
                                reqs := [tReq 0 (2 ^ 30) (.atomic 8 2 false false) (.timed 0)] }
     s.pendOf 0 = [tPend 0 (2 ^ 30) 0 (some { op := 8, ty := 2, opnd := 1, cmp := 0 })] ∧ s.pendFirst 0 = true ∧ s.ecc.contains (lineOf (2 ^ 30)) = true) ∧
    (let way (o : Option (List Byte)) : L2Set := { L2Set.empty with ways := L2Set.empty.ways.set 3 (some { line := 2 ^ 24, older := o }) }
     let s (o : Option (List Byte)) : State := { tS with l2 := [(tS.l2Key (2 ^ 24), way o)] }
     ((s none).l2Set (2 ^ 24)).wayOf (2 ^ 24) = some 3 ∧ ((s (some (List.replicate 64 7))).l2Set (2 ^ 24)).wayOf (2 ^ 24) = some 3 ∧
       (s none).l2Set 0 = L2Set.empty ∧ ((s none).recOf (2 ^ 24)).owner = none) ∧
    -- a synchronising operation in a deterministic launch, whose turn has not come
    (let s := onLau (fun l => { l with rcd := { l.rcd with det := true } }) (State.reset.loadWords [0x6C20B280, 0x02113100])
     let u : State := { s with agenda := [], issuing := [] }
     (u.ctxOf tW).any (fun c => u.mayIssue c && (match u.fetchAt c with
       | .words a b _ (some 0) => a == 0x6C20B280 && b == 0x02113100
       | _ => false) && u.syncing c && decide (c.frag.grant = none) && !isPair 0x6C20B280) = true) :=
  ⟨has (by decide), has (by decide), has (by decide), has (by decide), has (by decide), has (by decide +kernel), by decide, by decide +kernel, by decide +kernel,
    by decide, by decide, by decide⟩

theorem witness_WakesAtTheirTurn :
    ((grants (.pred true) (onFrag (fun f => { f with state := .stalled .hostRead }) tS)).fragOf tW).any (fun f => f.state == .stalled .hostRead) = true ∧
    ((onFrag (fun f => { f with state := .sleeping .mirror }) tS).fragOf tW).any (fun f => f.state == .sleeping .mirror) = true ∧
    monHolds 0 2 0 0 = true ∧ monHolds 1 2 0 0 = false ∧
    -- an access that failed at its home slice, of a fragment that took the fault
    (let s := reqsOf [tReq 0 (2 ^ 30) .store (.bad .uncorrectable)] tS
     ∃ r p, r ∈ s.reqs ∧ r.stage = .bad .uncorrectable ∧ p ∈ r.parts ∧ p.ofGang 0 0 = true ∧ p.lane / 4 ∈ (List.range 16)) :=
  ⟨by decide, by decide, by decide, by decide, ⟨_, _, List.mem_cons_self, rfl, List.mem_cons_self, by decide, by decide⟩⟩
/-! ### Hypotheses that no small number meets: signatures and images -/

def tPage1 : Tlb := { tPage with cache := 196, page := 1, pa := 2 ^ 30 + 65536 }
def tPages1 : List Tlb := [{ tPage with cache := 196 }, tPage1]

/-- The mailbox's arguments with two pages, the second one holding bytes, a module key, and a firmware key that is fused. -/
def tSigned (a : List Nat) (pk sig : List Byte) : State :=
  { mail a tS with
    tlb := tPages1, mem := Memory.write [] (2 ^ 30 + 65536) sig
    trust := { Trust.reset with keys := [(0, pk)], key := pk, fused := shake256 pk } }

/-- Both pages read back: the first is 0, the second holds the bytes. -/
theorem tSigned_reads (a : List Nat) (pk sig : List Byte) (code : Reg) (n : Nat) (h0 : 0 < n) (hn : n ≤ 65536)
    (hs : sig.length = 2820) :
    (∃ s1, (Claims.Taken (tSigned a pk sig) 256 code).unitLoad 256 0 0 n .read = .ok (s1, Memory.bytes [] (2 ^ 30) n)) ∧
    ∃ s2, (Claims.Taken (tSigned a pk sig) 256 code).unitLoad 256 0 65536 xmssSigLen .read = .ok (s2, sig) := by
  have ho : (Claims.Taken (tSigned a pk sig) 256 code).Quiet := ⟨fun _ => rfl, rfl, fun _ h => absurd h List.not_mem_nil⟩
  have hr : ∀ b i, i < 65536 → b = 2 ^ 30 ∨ b = 2 ^ 30 + 65536 → regionOf (b + i) ≠ 1 := by
    intro b i hi hb; unfold regionOf; omega
  constructor
  · obtain ⟨ls, l2, h, -⟩ := State.unitLoad_page (Claims.Taken (tSigned a pk sig) 256 code) 256 0 0 n 0 ioPlace (2 ^ 30) .read h0 (by omega) rfl rfl (by decide) ho
    rw [State.bytesIn_plain _ _ _ _ (fun i hi => hr _ i (by omega) (.inl rfl))] at h
    have hv : (Claims.Taken (tSigned a pk sig) 256 code).vis = Memory.write [] (2 ^ 30 + 65536) sig := rfl
    rw [hv, Memory.bytes_write_other _ _ _ _ _ (.inl (by omega))] at h
    exact ⟨_, h⟩
  · obtain ⟨ls, l2, h, -⟩ := State.unitLoad_page (Claims.Taken (tSigned a pk sig) 256 code) 256 0 65536 xmssSigLen 0 ioPlace (2 ^ 30 + 65536) .read
      (by decide) (by decide) rfl rfl (by decide) ho
    rw [State.bytesIn_plain _ _ _ _ (fun i hi => hr _ i (by unfold xmssSigLen at hi; omega) (.inr rfl))] at h
    have hv : (Claims.Taken (tSigned a pk sig) 256 code).vis = Memory.write [] (2 ^ 30 + 65536) sig := rfl
    rw [hv, show xmssSigLen = sig.length from hs.symm, Memory.bytes_write] at h
    exact ⟨_, hs ▸ h⟩

theorem witness_ModuleLoad : ∃ (s s1 s2 : State) (key bs sig : List Byte),
    Claims.MailboxReady s Config.physFn ∧
    (let a := (s.fn Config.physFn).hcArgs
     let b := Claims.Taken s Config.physFn 0x10
     let words := (bs.drop (fld a[1] 16 16 * 4096)).take (4 * fld a[1] 32 16)
     a[0].toNat % 4096 = 0 ∧ fld a[1] 0 16 ≠ 0 ∧ fld a[1] 49 15 = 0 ∧ a[3].toNat < 8 ∧ (s.modl 1).state = 0 ∧ (s.modl 0).state ≠ 0 ∧
     s.trust.keys.find a[3].toNat = some key ∧ b.unitLoad Config.physFn 0 a[0].toNat (fld a[1] 0 16 * 4096) .read = .ok (s1, bs) ∧
     b.unitLoad Config.physFn 0 a[2].toNat xmssSigLen .read = .ok (s2, sig) ∧
     parseDir (fld a[1] 0 16) ((wordsOf words).map BitVec.toNat) 0 = some [] ∧ words.length = 4 * fld a[1] 32 16 ∧
     xmssVerify key (shake256 bs ++ toLE 8 a[1].toNat) sig = true) := by
  obtain ⟨pk, -, hpk⟩ := xmss_signs
  obtain ⟨sig, hs, hv⟩ := hpk (shake256 (Memory.bytes [] (2 ^ 30) 4096) ++ toLE 8 1)
  obtain ⟨⟨s1, h1⟩, s2, h2⟩ := tSigned_reads [0, 1, 65536, 0] pk sig 0x10 4096 (by decide) (by decide) hs
  have ha : ((tSigned [0, 1, 65536, 0] pk sig).fn Config.physFn).hcArgs = #v[0, 1, 65536, 0] := rfl
  refine ⟨tSigned [0, 1, 65536, 0] pk sig, s1, s2, pk, Memory.bytes [] (2 ^ 30) 4096, sig, ⟨by decide, rfl, rfl⟩, ?_⟩
  dsimp only
  rw [ha]
  exact ⟨by decide, by decide, by decide, by decide, rfl, (by decide : (1 : Nat) ≠ 0), rfl, h1, h2, rfl, by decide, hv⟩

theorem witness_FirmwareLoad : ∃ (s s1 s2 : State) (image sig : List Byte),
    Claims.MailboxReady s Config.physFn ∧
    (let a := (s.fn Config.physFn).hcArgs
     let b := Claims.Taken s Config.physFn 0x14
     a[0].toNat % 4096 = 0 ∧ 4096 ≤ a[1].toNat ∧ a[1].toNat ≤ 2 ^ 26 ∧ a[3] = 0 ∧
     b.unitLoad Config.physFn 0 a[0].toNat a[1].toNat .read = .ok (s1, image) ∧
     b.unitLoad Config.physFn 0 a[2].toNat xmssSigLen .read = .ok (s2, sig) ∧ s.trust.passes image sig = true) := by
  obtain ⟨pk, -, hpk⟩ := xmss_signs
  obtain ⟨sig, hs, hv⟩ := hpk (shake256 (Memory.bytes [] (2 ^ 30) 4096))
  obtain ⟨⟨s1, h1⟩, s2, h2⟩ := tSigned_reads [0, 4096, 65536, 0] pk sig 0x14 4096 (by decide) (by decide) hs
  have ha : ((tSigned [0, 4096, 65536, 0] pk sig).fn Config.physFn).hcArgs = #v[0, 4096, 65536, 0] := rfl
  refine ⟨tSigned [0, 4096, 65536, 0] pk sig, s1, s2, Memory.bytes [] (2 ^ 30) 4096, sig, ⟨by decide, rfl, rfl⟩, ?_⟩
  dsimp only
  rw [ha]
  refine ⟨by decide, by decide, by decide, by decide, h1, h2, ?_⟩
  have hp : (tSigned [0, 4096, 65536, 0] pk sig).trust.key = pk := rfl
  have hf : (tSigned [0, 4096, 65536, 0] pk sig).trust.fused = shake256 pk := rfl
  have hm : (tSigned [0, 4096, 65536, 0] pk sig).trust.minVersion = 0 := rfl
  unfold Trust.passes
  rw [hp, hf, hm, hv]
  simp

/-! ### An image that a restore accepts -/

/-- The header's words up to the checksum, and from 0x40 to 0x88, of an image of 17,216 bytes with one gang of 16 lanes and
one fragment; its other sections are in the zeros that follow. -/
def iHead : List Byte :=
  [0x5A43584900010001, 256 * 2 ^ 32 + 17216, 0, 15 * 2 ^ 16, 0, 0, 0].flatMap (toLE 8)
def iTail : List Byte := [0x300, 0x300, 0x4300, 0x300, 0x300, 0x300, 0x300, 4096, 4096, 2 ^ 48].flatMap (toLE 8)
def iRest : List Byte := iTail ++ (List.replicate 17008 0 ++ (toLE 8 0 ++ toLE 8 (2 ^ 63 + 0xF * 2 ^ 32) ++ List.replicate 48 0))
def iMade (sum : Nat) : List Byte := iHead ++ (toLE 8 sum ++ iRest)

theorem length_iHead : iHead.length = 56 := by decide
theorem length_iTail : iTail.length = 80 := by decide
theorem length_iRest : iRest.length = 17152 := by
  simp only [iRest, List.length_append, length_iTail, List.length_replicate, length_toLE]
theorem length_iMade (c : Nat) : (iMade c).length = 17216 := by
  simp only [iMade, List.length_append, length_iHead, length_iRest, length_toLE]

theorem leNat_toLE (n x : Nat) : leNat (toLE n x) = x % 256 ^ n := by
  induction n generalizing x with
  | zero => simp [toLE, leNat, Nat.mod_one]
  | succ k ih =>
    rw [toLE, leNat, ih, BitVec.toNat_ofNat, show (256 : Nat) ^ (k + 1) = 256 * 256 ^ k from by rw [Nat.pow_succ, Nat.mul_comm], Nat.mod_mul]

theorem leNat_lt (bs : List Byte) : leNat bs < 256 ^ bs.length := by
  induction bs with
  | nil => decide
  | cons b t ih =>
    have := b.isLt
    rw [leNat, List.length_cons, Nat.pow_succ]
    omega

/-- A part of the head. -/
theorem sec_head (a b : List Byte) (off n : Nat) (h : off + n ≤ a.length) : sec (a ++ b) off n = sec a off n := by
  unfold sec
  rw [List.drop_append_of_le_length (by omega), List.take_append_of_le_length (by rw [List.length_drop]; omega)]

/-- A part past the head. -/
theorem sec_past (a b : List Byte) (off n : Nat) (h : a.length ≤ off) : sec (a ++ b) off n = sec b (off - a.length) n := by
  unfold sec
  rw [List.drop_append, List.drop_of_length_le h, List.nil_append]

theorem sec_iRest (c off n : Nat) (h : 64 ≤ off) : sec (iMade c) off n = sec iRest (off - 64) n := by
  unfold iMade
  rw [sec_past _ _ _ _ (by rw [length_iHead] <;> omega), length_iHead, sec_past _ _ _ _ (by rw [length_toLE] <;> omega), length_toLE,
    show off - 56 - 8 = off - 64 from by omega]

theorem sec_zeros (c off n : Nat) (h : 144 ≤ off) (hn : off + n ≤ 17152) : sec (iMade c) off n = List.replicate n 0 := by
  rw [sec_iRest _ _ _ (by omega)]
  unfold iRest
  rw [sec_past _ _ _ _ (by rw [length_iTail] <;> omega), length_iTail, sec_head _ _ _ _ (by rw [List.length_replicate] <;> omega)]
  unfold sec
  rw [List.drop_replicate, List.take_replicate, Nat.min_eq_left (by omega)]

theorem word_head (c off : Nat) (h : off + 8 ≤ 56) : word (iMade c) off = word iHead off := by
  unfold word iMade
  rw [sec_head _ _ _ _ (by rw [length_iHead] <;> omega)]

theorem word_tail (c off : Nat) (h : 64 ≤ off) (hn : off ≤ 136) : word (iMade c) off = word iTail (off - 64) := by
  unfold word
  rw [sec_iRest _ _ _ h, iRest, sec_head _ _ _ _ (by rw [length_iTail] <;> omega)]

theorem word_zeros (c off : Nat) (h : 144 ≤ off) (hn : off + 8 ≤ 17152) : word (iMade c) off = 0 := by
  unfold word
  rw [sec_zeros _ _ _ h hn]
  decide

theorem word_sum (c : Nat) (h : c < 2 ^ 64) : word (iMade c) 0x38 = c := by
  unfold word iMade
  rw [sec_past _ _ _ _ (by rw [length_iHead] <;> decide), length_iHead, sec_head _ _ _ _ (by rw [length_toLE] <;> decide)]
  unfold sec
  rw [List.drop_zero, List.take_of_length_le (by rw [length_toLE] <;> decide), leNat_toLE]
  omega

theorem frag_iMade (c : Nat) : sec (iMade c) 0x4300 32 = toLE 8 0 ++ toLE 8 (2 ^ 63 + 0xF * 2 ^ 32) ++ List.replicate 16 0 := by
  rw [sec_iRest _ _ _ (by decide), iRest, sec_past _ _ _ _ (by rw [length_iTail] <;> decide), length_iTail,
    sec_past _ _ _ _ (by rw [List.length_replicate] <;> decide), List.length_replicate]
  decide

theorem patch_iMade (c : Nat) : patch (iMade c) 0x38 (toLE 8 0) = iMade 0 := by
  unfold patch
  have h1 : (iMade c).take 0x38 = iHead := by
    unfold iMade; exact List.take_left' length_iHead
  have h2 : (iMade c).drop (0x38 + (toLE 8 0).length) = iRest := by
    unfold iMade
    rw [length_toLE, ← List.append_assoc]
    exact List.drop_left' (by rw [List.length_append, length_iHead, length_toLE])
  rw [h1, h2]
  unfold iMade
  rw [List.append_assoc]

/-- The image with its own checksum. -/
def iSum : Nat := imageSum (iMade 0)

theorem iSum_lt : iSum < 2 ^ 64 := by
  have h := leNat_lt ((shake256 (patch (iMade 0) 0x38 (toLE 8 0))).take 8)
  have hl : ((shake256 (patch (iMade 0) 0x38 (toLE 8 0))).take 8).length = 8 := by rw [List.length_take, length_shake256]; rfl
  rw [hl] at h
  exact h

theorem sum_iMade (c : Nat) : imageSum (iMade c) = iSum := by
  unfold iSum imageSum
  rw [patch_iMade, patch_iMade]

theorem iMade_words (c : Nat) :
    word (iMade c) 0 = 0x5A43584900010001 ∧ word (iMade c) 8 = 256 * 2 ^ 32 + 17216 ∧ word (iMade c) 0x10 = 0 ∧ word (iMade c) 0x18 = 15 * 2 ^ 16 ∧
    word (iMade c) 0x20 = 0 ∧ word (iMade c) 0x40 = 0x300 ∧ word (iMade c) 0x48 = 0x300 ∧ word (iMade c) 0x50 = 0x4300 ∧ word (iMade c) 0x58 = 0x300 ∧
    word (iMade c) 0x60 = 0x300 ∧ word (iMade c) 0x68 = 0x300 ∧ word (iMade c) 0x70 = 0x300 ∧ word (iMade c) 0x78 = 4096 ∧
    word (iMade c) 0x80 = 4096 ∧ word (iMade c) 0x88 = 2 ^ 48 := by
  refine ⟨?_, ?_, ?_, ?_, ?_, ?_, ?_, ?_, ?_, ?_, ?_, ?_, ?_, ?_, ?_⟩
  all_goals first
    | (rw [word_head _ _ (by decide)]; decide)
    | (rw [word_tail _ _ (by decide) (by decide)]; decide)

theorem iMade_parts (c : Nat) :
    imageHandler (iMade c) = false ∧ imageShape (iMade c) = LaunchRec.parse [0, 15 * 2 ^ 16, 0] ∧
    imageCounts (iMade c) = { gangs := 1, frags := 1, rows := 0, pens := 0, passes := 0, cmds := 0 } ∧
    imageLayout (iMade c) = { gang := 0x300, quad := 0x300, frag := 0x4300, lane := 0x300, tap := 0x300, matrix := 0x300, engine := 0x300,
                              stash := 4096, acc := 4096, bytes := 17216 } := by
  obtain ⟨w0, w1, w2, w3, w4, w8, w9, w10, w11, w12, w13, w14, w15, w16, w17⟩ := iMade_words c
  have hh : imageHandler (iMade c) = false := by unfold imageHandler; rw [w3]; decide
  have hs : imageShape (iMade c) = LaunchRec.parse [0, 15 * 2 ^ 16, 0] := by unfold imageShape; rw [w3, w4]; rfl
  refine ⟨hh, hs, ?_, ?_⟩
  · unfold imageCounts; rw [hh, hs, w17]; rfl
  · unfold imageLayout; rw [w1, w8, w9, w10, w11, w12, w13, w14, w15, w16] <;> rfl

theorem records_zeros (c off n k : Nat) (h : 144 ≤ off) (hn : off + n * k ≤ 17152) :
    records (iMade c) off n k = chunks n k (List.replicate (n * k) 0) := by unfold records; rw [sec_zeros _ _ _ h hn]

theorem iMade_rsvd (c : Nat) : imageRsvd (iMade c) = false := by
  obtain ⟨w0, w1, w2, w3, w4, -⟩ := iMade_words c
  obtain ⟨hh, hs, hc, hy⟩ := iMade_parts c
  unfold imageRsvd
  dsimp only
  rw [hc, hy, w0, w1, w4]
  dsimp only
  rw [sec_zeros c 0x90 _ (by decide) (by decide), sec_zeros c 0x2C0 _ (by decide) (by decide), sec_zeros c 0x100 _ (by decide) (by decide),
    sec_zeros c 0x180 _ (by decide) (by decide), word_zeros c _ (by decide) (by decide), sec_zeros c 0x200 _ (by decide) (by decide),
    records_zeros c _ _ _ (by decide) (by decide)]
  unfold records
  rw [show 32 * 1 = 32 from rfl, frag_iMade c, show 96 * 0 = 0 from rfl, sec_zeros c 0x300 0 (by decide) (by decide)]
  decide +kernel

theorem iMade_range (c : Nat) : imageRange (iMade c) = false := by
  obtain ⟨hh, hs, hc, hy⟩ := iMade_parts c
  unfold imageRange
  rw [hc, hy, hs, hh]
  decide +kernel

theorem iMade_values (c : Nat) : imageValues (iMade c) = false := by
  obtain ⟨w0, w1, w2, w3, w4, -⟩ := iMade_words c
  obtain ⟨hh, hs, hc, hy⟩ := iMade_parts c
  unfold imageValues
  dsimp only
  rw [hc, hy, hs, w3]
  dsimp only
  rw [sec_zeros c 0x100 _ (by decide) (by decide), sec_zeros c 0x1C0 _ (by decide) (by decide), sec_zeros c 0x200 _ (by decide) (by decide), records_zeros c _ _ 1 (by decide) (by decide),
    records_zeros c _ _ (16 * 1) (by decide) (by decide)]
  unfold records
  rw [show 32 * 1 = 32 from rfl, frag_iMade c, show 8 * 0 = 0 from rfl, sec_zeros c 0x300 0 (by decide) (by decide)]
  decide +kernel

theorem iMade_check : imageCheck 256 (iMade iSum) = none := by
  obtain ⟨w0, w1, -⟩ := iMade_words iSum
  unfold imageCheck
  rw [w0, w1, iMade_rsvd, iMade_range, iMade_values, sum_iMade, word_sum _ iSum_lt]
  rw [if_neg (by decide), if_neg (by decide), if_neg (by decide), if_neg (by simp), if_neg (by decide), if_neg (by decide)]


/-- The launch that the image names, and a RESUME of slot 0 at the head of the run list; the image lies at address 4096. -/
def iRcd : LaunchRec := LaunchRec.parse [0, 15 * 2 ^ 16 + 2 ^ 32, 0]
def tResume (q : Option Nat) (m : Memory) : State :=
  { State.reset with
    tlb := tPages, mem := m, launches := [(0, newLaunch 256 0 0 none none iRcd [] [])]
    runList := [.resume 256 0 q 0 0] }

theorem bytes_nil (a n : Nat) : Memory.bytes [] a n = List.replicate n 0 := by
  induction n generalizing a with
  | zero => rfl
  | succ k ih => rw [Memory.bytes, ih]; rfl

theorem vis_tResume (q : Option Nat) (m : Memory) (a : SMap LineRec) (b : SMap L2Set) :
    (tResume q m).vis = m ∧ ({ tResume q m with lines := a, l2 := b } : State).vis = m := ⟨rfl, rfl⟩

theorem xl_tPage {s : State} (ht : s.tlb = tPages) (hm : s.mx = []) :
    s.xl 95 256 0 8 .read = .ok (2 ^ 30 + 8) ∧ s.xl 95 256 0 4096 .read = .ok (2 ^ 30 + 4096) := by
  simp [State.xl, State.cachedLeaf, cachesOf, Tlb.hit, spanOf, dieOf, ht, tPages, tPage, accOk, State.xlPa, State.paFault, regionOf, hm, Config.physFn,
    walkPlan]

/-- An image is read by its header, and then whole. -/
theorem readImage_of {s s1 s2 : State} {core func aspace va n : Nat} {h img : List Byte}
    (h1 : s.unitLoad func aspace va 256 .read 0 core = .ok (s1, h)) (hn : max 256 (bits (word h 8) 0 32) = n)
    (h2 : s1.unitLoad func aspace va n .read 0 core = .ok (s2, img)) (hc : imageCheck func img = none) :
    s.readImage core func aspace va = .ok (s2, img) := by
  subst hn
  unfold State.readImage
  simp only [h1, h2, hc]

theorem tResume_reads (q : Option Nat) (m : Memory) (img : List Byte)
    (hz : m.bytes (2 ^ 30 + 8) 8 = List.replicate 8 0) (hw : m.bytes (2 ^ 30 + 4096) 17216 = img)
    (hb : word img 8 = 256 * 2 ^ 32 + 17216) (hc : imageCheck 256 img = none) :
    ∃ ls l2 s1, (tResume q m).imageVa 95 256 0 0 0 = .ok (s1, 4096) ∧
      s1.readImage 95 256 0 4096 = .ok ({ tResume q m with lines := ls, l2 := l2 }, img) := by
  have hr : ∀ b i, i < 65536 → b = 2 ^ 30 + 8 ∨ b = 2 ^ 30 + 4096 → regionOf (b + i) ≠ 1 := by
    intro b i hi hb; unfold regionOf; omega
  obtain ⟨a1, b1, h1, n1⟩ := State.unitLoad_page (tResume q m) 256 0 8 8 0 95 (2 ^ 30 + 8) .read (by decide) (by decide)
    (xl_tPage rfl rfl).1 rfl (by decide) ⟨fun _ => rfl, rfl, fun _ h => absurd h List.not_mem_nil⟩
  rw [State.bytesIn_plain _ _ _ _ (fun i hi => hr _ i (by omega) (.inl rfl)), (vis_tResume q m a1 b1).1, hz] at h1
  obtain ⟨a2, b2, h2, n2⟩ := State.unitLoad_page { tResume q m with lines := a1, l2 := b1 } 256 0 4096 256 0 95 (2 ^ 30 + 4096) .read (by decide) (by decide)
    (xl_tPage rfl rfl).2 rfl (by decide) n1
  rw [State.bytesIn_plain _ _ _ _ (fun i hi => hr _ i (by omega) (.inr rfl)), (vis_tResume q m a1 b1).2] at h2
  obtain ⟨a3, b3, h3, n3⟩ := State.unitLoad_page { tResume q m with lines := a2, l2 := b2 } 256 0 4096 17216 0 95 (2 ^ 30 + 4096) .read (by decide) (by decide)
    (xl_tPage rfl rfl).2 rfl (by decide) n2
  rw [State.bytesIn_plain _ _ _ _ (fun i hi => hr _ i (by omega) (.inr rfl)), (vis_tResume q m a2 b2).2, hw] at h3
  have hword : word (Memory.bytes m (2 ^ 30 + 4096) 256) 8 = 256 * 2 ^ 32 + 17216 := by
    have ht : Memory.bytes m (2 ^ 30 + 4096) 256 = img.take 256 := by
      rw [← hw]
      apply List.ext_getElem?
      intro i
      by_cases hi : i < 256
      · rw [Memory.getElem?_bytes _ _ _ _ hi, List.getElem?_take_of_lt hi, Memory.getElem?_bytes _ _ _ _ (by omega)]
      · rw [List.getElem?_eq_none (by rw [Memory.length_bytes]; omega), List.getElem?_eq_none (by rw [List.length_take]; omega)]
    rw [ht, ← hb]
    unfold word sec
    rw [List.drop_take, List.take_take, show min 8 (256 - 8) = 8 from by decide]
  refine ⟨a3, b3, { tResume q m with lines := a1, l2 := b1 }, ?_, ?_⟩
  · unfold State.imageVa State.unitWord
    rw [show 0 + 8 = 8 from rfl, h1]
    dsimp only
    rw [Nat.zero_mul]
  · refine readImage_of h2 ?_ h3 hc
    rw [hword]
    decide

/-- The image stands where it was written. -/
theorem iMade_placed (img : List Byte) (hlen : img.length = 17216) :
    (Memory.write [] (2 ^ 30 + 4096) img).bytes (2 ^ 30 + 8) 8 = List.replicate 8 0 ∧
    (Memory.write [] (2 ^ 30 + 4096) img).bytes (2 ^ 30 + 4096) 17216 = img := by
  constructor
  · rw [Memory.bytes_write_other _ _ _ _ _ (.inl (by omega)), bytes_nil]
  · have := Memory.bytes_write [] (2 ^ 30 + 4096) img
    rwa [hlen] at this

theorem spot_tResume {s : State} (hc : s.cores = []) (hd : s.dies = []) (hg : s.groups = []) (n : Nat) :
    s.spotsFor 95 0 iRcd false n = some ({ place := 0, slots := [0], stash := 0, acc := 0 }, none) := by
  have hk : s.core 95 = Core.reset := by unfold State.core; rw [hc]; rfl
  have hx : s.die (dieOf 95) = Die.reset (dieOf 95) := by unfold State.die; rw [hd]; rfl
  have hl : s.loadOf 95 = Load.none := by unfold State.loadOf; rw [hg]; rfl
  unfold State.spotsFor State.coreRuns State.bringsHandler
  rw [hk, hx, hl]
  rfl

theorem restore_reaches (q : Option Nat) (m : Memory) (img : List Byte)
    (hz : m.bytes (2 ^ 30 + 8) 8 = List.replicate 8 0) (hw : m.bytes (2 ^ 30 + 4096) 17216 = img)
    (hb : word img 8 = 256 * 2 ^ 32 + 17216) (hc : imageCheck 256 img = none)
    (w2 : word img 0x10 = 0) (w3 : word img 0x18 = 15 * 2 ^ 16) (w4 : word img 0x20 = 0) (hh : imageHandler img = false) :
    ∃ (s s1 s2 s3 : State) (lau : Launch) (a : Spot),
    s.runList = [.resume 256 0 q 0 0] ∧ s.imageVa 95 256 0 0 0 = .ok (s1, 4096) ∧ s1.readImage 95 256 0 4096 = .ok (s2, img) ∧
    State.launchFor { s2 with runList := [] } 256 0 (word img 0x10) (s.saveOf 256 0 4096) = some (s3, 0) ∧
    s3.launches.find 0 = some lau ∧ lau.rcd.shape = bits (word img 0x18) 0 32 ∧ lau.rcd.stash4k = bits (word img 0x20) 32 9 ∧
    (s3.core 95).engine.count = (s3.core 95).engine.issued ∧ (s.fn 256).focus.getLsbD 63 = false ∧
    s3.spotsFor 95 0 lau.rcd (imageHandler img) (bits (word img 0x18) 32 32) = some (a, none) := by
  obtain ⟨ls, l2, s1, h1, h2⟩ := tResume_reads q m img hz hw hb hc
  refine ⟨_, s1, _, { tResume q m with lines := ls, l2 := l2, runList := [] },
    newLaunch 256 0 0 none none iRcd [] [], { place := 0, slots := [0], stash := 0, acc := 0 }, rfl, h1, h2, ?_, rfl, ?_, ?_, rfl,
    (by change (0 : Reg).getLsbD 63 = false; decide), ?_⟩
  · rw [w2]; rfl
  · rw [w3]; decide
  · rw [w4]; decide
  · rw [hh, w3]
    exact spot_tResume rfl rfl rfl _

/-- A RESUME whose image passes every check, with a launch and a core that take it. -/
theorem witness_Restore (q : Option Nat) : ∃ (s s1 s2 s3 : State) (img : List Byte) (lau : Launch) (a : Spot),
    s.runList = [.resume 256 0 q 0 0] ∧ s.imageVa 95 256 0 0 0 = .ok (s1, 4096) ∧ s1.readImage 95 256 0 4096 = .ok (s2, img) ∧
    State.launchFor { s2 with runList := [] } 256 0 (word img 0x10) (s.saveOf 256 0 4096) = some (s3, 0) ∧
    s3.launches.find 0 = some lau ∧ lau.rcd.shape = bits (word img 0x18) 0 32 ∧ lau.rcd.stash4k = bits (word img 0x20) 32 9 ∧
    (s3.core 95).engine.count = (s3.core 95).engine.issued ∧ (s.fn 256).focus.getLsbD 63 = false ∧
    s3.spotsFor 95 0 lau.rcd (imageHandler img) (bits (word img 0x18) 32 32) = some (a, none) := by
  obtain ⟨hz, hw⟩ := iMade_placed (iMade iSum) (length_iMade _)
  obtain ⟨-, w1, w2, w3, w4, -⟩ := iMade_words iSum
  obtain ⟨s, s1, s2, s3, lau, a, h⟩ := restore_reaches q _ (iMade iSum) hz hw w1 iMade_check w2 w3 w4 (iMade_parts iSum).1
  exact ⟨s, s1, s2, s3, iMade iSum, lau, a, h⟩

end Sys2Proof.Tests
end

section
/-!
PROOFS. The paged-tensor instructions: an instruction that nothing holds up and whose plan is a fault takes that fault and
writes nothing, and the plan of a KV.APP that needs a frame of an empty pool is POOL_EMPTY (R36).
-/

namespace Sys2Proof.Machine

/-- Nothing stands before the plan of the paged-tensor instruction that fragment c issues under guard g: no answer to an
earlier try, no SKIP bit, no limit, no older load and no earlier write of the gang. -/
structure KvReady (s : State) (c : Ctx) (g : Nat) : Prop where
  ctx : s.ctx = some c
  guard : c.gang.qpred g = true
  skip : c.frag.skip.getLsbD 0 = false
  mem : s.memFull c = false
  older : c.olderWaits = false
  answer : c.answer = none
  grant : ∀ r d0 d1 d2, c.frag.grant ≠ some (.fault r d0 d1 d2)
  settled : s.unsettled c.who.gid c.who.gang = false

theorem Ctx.grant_ne_walkFault {c : Ctx} (h : c.answer = none) (r : Reason) (va : Nat) :
    c.frag.grant ≠ some (.walkFault r va) := by
  intro hg
  simp [Ctx.answer, hg] at h

theorem KvReady.kvRun_bad {s : State} {c : Ctx} {o : LX} {plan : State → Ctx → Except KvStop KvPlan} {r : Reason} {d : Detail}
    (hr : KvReady s c o.w.g.toNat) (hp : plan s c = .error (.bad r d)) :
    s.kvRun o plan = .next (s.put (c.fault s.now r d)) := by
  obtain ⟨hctx, hguard, hskip, hmem, holder, hans, hgrant, hset⟩ := hr
  simp only [State.kvRun, State.onCtx, hctx]
  split
  · next hg => exact absurd hg (hgrant _ _ _ _)
  · next hg => exact absurd hg (Ctx.grant_ne_walkFault hans _ _)
  · simp only [hguard, Ctx.skipped, hskip, hmem, holder, hset, hp, Bool.not_true, Bool.false_eq_true, if_false]

theorem exec_kvApp (o : LX) (s : State) : exec (.kvApp o) s = execKvApp o s := by
  rfl

/-! ### The reads of an append -/

theorem PoolDesc.framesOf_noFrame (p : PoolDesc) : p.framesOf false [noFrame] = [] := by
  simp [PoolDesc.framesOf]

theorem PoolDesc.framesOf_frame {p : PoolDesc} {f : Nat} (hf : f ≠ noFrame) (hn : f < p.nframes) :
    p.framesOf false [f] = [f] := by
  simp [PoolDesc.framesOf, hf, hn, List.eraseDups_cons]

theorem PoolDesc.badFrame_eq_false_iff (p : PoolDesc) (f : Nat) : p.badFrame f = false ↔ f = noFrame ∨ f < p.nframes := by
  simp [PoolDesc.badFrame, Decidable.or_iff_not_imp_left]

/-- The free stack of an empty pool gives no frame, and no fault of its own. -/
theorem State.kvPop_empty (s : State) (c : Ctx) {p : PoolDesc} (need : Bool) (h : p.top = 0) :
    s.kvPop c p need = .ok (none, false) := by
  simp [State.kvPop, h]

/-- What a KV.APP has read and checked on a list with room, whose next entry holds f, and on its pool, which is empty. -/
structure EmptyPoolReads (s : State) (c : Ctx) (list row : Nat) (h : ListHead) (p : PoolDesc) (f : Nat) : Prop where
  aligned : list % 8 = 0 ∧ row % 16 = 0
  global : inAperture list = false
  own : (s.aperture c row 1).map Prod.fst = some c.who.gid
  head : ∃ pool, s.kvHeader c list = .ok (h, pool, false) ∧ s.kvDesc c pool = .ok (p, false)
  room : h.tokens < h.cap * 2 ^ h.pageLog2
  tokens : ∃ hpa, s.kvPa c .write (list + 4) = .ok hpa
  entry : ∃ eb, s.kvLoad c (list + 8 + 4 * (h.tokens / 2 ^ h.pageLog2)) 4 = .ok eb ∧ leNat eb = f
  empty : p.top = 0
  source : (s.aperture c row (2 ^ (p.frameLog2 - h.pageLog2))).isSome = true

/-- An append needs a frame: its entry holds none at a page boundary, or the entry's frame is shared (R36, R37). -/
def NeedsFrame (h : ListHead) (f : Nat) (cs : List (Nat × Nat × Nat)) : Prop :=
  (f = noFrame ∧ h.tokens % 2 ^ h.pageLog2 = 0) ∨ (f ≠ noFrame ∧ 1 < countOf cs f)

theorem EmptyPoolReads.kvApp_poolEmpty {s : State} {c : Ctx} {list row : Nat} {h : ListHead} {p : PoolDesc} {f epa : Nat}
    {cs : List (Nat × Nat × Nat)} (hr : EmptyPoolReads s c list row h p f)
    (hepa : (if f = noFrame ∧ h.tokens % 2 ^ h.pageLog2 = 0 then
      s.kvPa c .write (list + 8 + 4 * (h.tokens / 2 ^ h.pageLog2)) else .ok 0) = .ok epa)
    (hframe : p.badFrame f = false) (hcs : s.kvCounts c p .read (p.framesOf false [f]) = .ok cs) (hok : countsOk cs = true)
    (hneed : NeedsFrame h f cs) : ∃ d, s.kvApp c list row = .error (.bad .poolEmpty d) := by
  obtain ⟨⟨hlist, hrow⟩, hglobal, hown, ⟨pool, hhead, hdesc⟩, hroom, ⟨hpa, htok⟩, ⟨eb, heb, hf⟩, htop, hsrc⟩ := hr
  simp only [State.kvApp, Ctx.kvAlign, Ctx.kvGlobal, hlist, hrow, hglobal, hown, hhead, hdesc, htok, heb, hf, hroom, hcs, hok,
    hframe, State.kvPop_empty s c _ htop, Option.isNone_eq_false_iff.mpr hsrc, bind, Except.bind, ne_eq, not_true_eq_false,
    if_false, Bool.false_eq_true, decide_true, if_true, Bool.true_and, decide_eq_true_eq, Bool.and_eq_true]
  rcases hneed with ⟨rfl, hfresh⟩ | ⟨hne, hshared⟩
  · simp only [hfresh, and_self, if_true] at hepa
    simp [hfresh, hepa]
  · simp [hne, hshared, Nat.ne_zero_of_lt hshared]

/-- Settles O13: either way of needing a frame (R36) leads to the same plan, which is the fault POOL_EMPTY, and a plan that
is a fault writes nothing. -/
theorem emptyPoolFault : Obligations.EmptyPoolFault := by
  unfold Obligations.EmptyPoolFault
  intro o s c h p pool hpa eb list row per entry hguard hctx hskip hmem holder hans hgrant hset hlist hrow hglobal hown hhead hroom
    htok hentry hdesc htop hsrc
  have hready : KvReady s c o.w.g.toNat := ⟨hctx, hguard, hskip, hmem, holder, hans, hgrant, hset⟩
  have hreads : EmptyPoolReads s c list row h p (leNat eb) :=
    ⟨⟨hlist, hrow⟩, hglobal, hown, ⟨pool, hhead, hdesc⟩, hroom, ⟨hpa, htok⟩, ⟨eb, hentry, rfl⟩, htop, hsrc⟩
  have hfault : (∃ d, s.kvApp c list row = .error (.bad .poolEmpty d)) →
      ∃ d, exec (.kvApp o) s = .next (s.put (c.fault s.now .poolEmpty d)) :=
    fun ⟨d, hd⟩ => ⟨d, (exec_kvApp o s).trans (hready.kvRun_bad hd)⟩
  constructor
  · intro epa hf hfresh hepa
    apply hfault
    refine hreads.kvApp_poolEmpty (epa := epa) (cs := []) ?_ ?_ ?_ rfl (.inl ⟨hf, hfresh⟩)
    · rw [if_pos ⟨hf, hfresh⟩, hepa]
    · exact (p.badFrame_eq_false_iff _).mpr (.inl hf)
    · rw [hf, p.framesOf_noFrame]; rfl
  · intro hf hn cs hcs hok hshared
    apply hfault
    refine hreads.kvApp_poolEmpty (epa := 0) (cs := cs) ?_ ?_ ?_ hok (.inr ⟨hf, hshared⟩)
    · rw [if_neg (fun hm => hf hm.1)]
    · exact (p.badFrame_eq_false_iff _).mpr (.inr hn)
    · rw [PoolDesc.framesOf_frame hf hn, hcs]

end Sys2Proof.Machine
end

section
/-!
PROOFS. L2_LEASE (R47): the register that the host writes bounds the lease length from below and from above.
-/

namespace Sys2Proof.Machine

theorem State.hostDo_of_may {s : State} {func : Nat} (h : s.hostMay func = true) (run : State → State) :
    s.hostDo func run = run s := by
  simp [State.hostDo, h]

theorem exec_l2LeaseWrite (func v : Nat) (s : State) :
    exec (.l2LeaseWrite func v) s = .next (s.evL2LeaseWrite func v) := by
  rfl

/-- The lease length that a write of v stores (R47). -/
def leaseOf (v : Nat) : Nat := min 4096 (max 32 (v % 2 ^ 13))

theorem State.evL2LeaseWrite_eq {s : State} {func : Nat} (h : s.hostMay func = true) (v : Nat) :
    s.evL2LeaseWrite func v = s.setFn func { s.fn func with lease := leaseOf v } :=
  State.hostDo_of_may h _

theorem leaseOf_of_low {v : Nat} (h : v % 2 ^ 13 < 32) : leaseOf v = 32 := by
  unfold leaseOf; omega

theorem leaseOf_of_high {v : Nat} (h : 4096 < v % 2 ^ 13) : leaseOf v = 4096 := by
  unfold leaseOf; omega

theorem leaseOf_of_between {v : Nat} (hlow : 32 ≤ v % 2 ^ 13) (hhigh : v % 2 ^ 13 ≤ 4096) : leaseOf v = v % 2 ^ 13 := by
  unfold leaseOf; omega

/-- Settles O24: the write stores `leaseOf v` in the function's record and nothing elsewhere. -/
theorem leaseRegister : Obligations.LeaseRegister := by
  unfold Obligations.LeaseRegister
  intro func v s haccepted hfunc
  have hmay : s.hostMay func = true := by simp [State.hostMay, haccepted, hfunc]
  refine ⟨s.setFn func { s.fn func with lease := leaseOf v }, ?_, rfl, ?_, ?_, ?_, ?_, ?_, rfl⟩
  · rw [exec_l2LeaseWrite, State.evL2LeaseWrite_eq hmay]
  · rw [State.fn_setFn_same]
  · exact fun g hg => State.fn_setFn_other s _ hg
  · intro hlow; rw [State.fn_setFn_same, leaseOf_of_low hlow]
  · intro hhigh; rw [State.fn_setFn_same, leaseOf_of_high hhigh]
  · intro hlow hhigh; rw [State.fn_setFn_same, leaseOf_of_between hlow hhigh]

end Sys2Proof.Machine
end

section
/-!
PROOFS. Stores and the read buffer (R52): once a store has issued, its core's read buffer has no copy of any line that one
of its units goes to. Each unit of a window line drops the copy or leaves a part for the home slice, each part for the home
slice is sent in a request of its line, and each such request drops the line's copy; nothing puts a copy back.
-/

namespace Sys2Proof.Machine

/-! ### What a read buffer no longer holds -/

/-- The core's read buffer has no copy of the line, of any function and address space. -/
def State.RbufClear (s : State) (core line : Nat) : Prop :=
  ∀ x ∈ (s.core core).rbuf, x.1 % 2 ^ 42 ≠ line

theorem State.RbufClear.of_cores {s t : State} {core line : Nat} (h : s.RbufClear core line) (hc : t.cores = s.cores) :
    t.RbufClear core line := by
  unfold State.RbufClear State.core at *
  rwa [hc]

theorem State.rbufClear_dropRbuf (s : State) (core line : Nat) : (s.dropRbuf core line).RbufClear core line := by
  intro x hx
  simp only [State.dropRbuf, State.updCore, State.core_setCore_same, List.mem_filter, bne_iff_ne] at hx
  exact hx.2

theorem State.RbufClear.dropRbuf {s : State} {core line : Nat} (h : s.RbufClear core line) (k l : Nat) :
    (s.dropRbuf k l).RbufClear core line := by
  unfold State.RbufClear State.dropRbuf State.updCore
  by_cases hk : core = k
  · subst hk
    rw [State.core_setCore_same]
    exact fun x hx => h x (List.mem_filter.mp hx |>.1)
  · rwa [State.core_setCore_other s _ hk]

theorem State.RbufClear.foldl {α : Type} {f : State → α → State} {core line : Nat}
    (hf : ∀ t x, State.RbufClear t core line → (f t x).RbufClear core line) (xs : List α) {s : State}
    (h : s.RbufClear core line) : (xs.foldl f s).RbufClear core line :=
  List.foldlRecOn xs f (motive := fun t => t.RbufClear core line) h (fun t ht x _ => hf t x ht)

@[simp] theorem State.post_cores (s : State) (c : Ctx) (kind : ReqKind) (ps : List ReqPart) (total : BitVec 64) (marker : Nat)
    (stage : ReqStage) : (s.post c kind ps total marker stage).cores = s.cores := rfl

@[simp] theorem State.toHost_cores (s : State) : s.toHost.cores = s.cores := by
  unfold State.toHost
  split
  · split <;> rfl
  · rfl

/-! ### Folds whose steps each leave a mark -/

/-- Where each step of a fold keeps I, marks its element and takes no mark away, every element is marked at the end. -/
theorem foldl_marks {σ α : Type} {f : σ → α → σ} {I : σ → Prop} {P : σ → α → Prop}
    (step : ∀ a u, I a → I (f a u) ∧ P (f a u) u ∧ ∀ v, P a v → P (f a u) v) (us : List α) {a : σ} (ha : I a) :
    ∀ u ∈ us, P (us.foldl f a) u := by
  suffices h : (∀ v, P a v → P (us.foldl f a) v) ∧ ∀ u ∈ us, P (us.foldl f a) u from h.2
  induction us generalizing a with
  | nil => exact ⟨fun _ h => h, fun _ h => absurd h List.not_mem_nil⟩
  | cons w us ih =>
    obtain ⟨hI, hmark, hkeep⟩ := step a w ha
    obtain ⟨ihkeep, ihmark⟩ := ih hI
    refine ⟨fun v hv => ihkeep v (hkeep v hv), fun u hu => ?_⟩
    rcases List.mem_cons.mp hu with rfl | hu
    · exact ihkeep u hmark
    · exact ihmark u hu

/-! ### Parts by line -/

/-- Some list of parts begins with one of the line. -/
def HeadsLine (gs : List (List ReqPart)) (line : Nat) : Prop := ∃ g ∈ gs, g.head?.map (fun q => lineOf q.pa) = some line

theorem headsLine_cons {g : List ReqPart} {t : List (List ReqPart)} {line : Nat} :
    HeadsLine (g :: t) line ↔ g.head?.map (fun q => lineOf q.pa) = some line ∨ HeadsLine t line := by
  simp [HeadsLine]

theorem headsLine_addByLine (p : ReqPart) (gs : List (List ReqPart)) (line : Nat) :
    HeadsLine (addByLine p gs) line ↔ lineOf p.pa = line ∨ HeadsLine gs line := by
  induction gs with
  | nil => simp [addByLine, HeadsLine]
  | cons g t ih =>
    unfold addByLine
    split
    · next hjoin =>
      cases g with
      | nil => simp at hjoin
      | cons q g =>
        have hline : lineOf q.pa = lineOf p.pa := Option.some.inj hjoin
        simp only [headsLine_cons, List.cons_append, List.head?_cons, Option.map_some, Option.some.injEq, hline, ← or_assoc,
          or_self]
    · rw [headsLine_cons, headsLine_cons, ih, or_left_comm]

theorem headsLine_groupByLine {ps : List ReqPart} {p : ReqPart} (h : p ∈ ps) : HeadsLine (groupByLine ps) (lineOf p.pa) :=
  foldl_marks (f := fun gs q => addByLine q gs) (I := fun _ => True) (P := fun gs q => HeadsLine gs (lineOf q.pa))
    (fun gs q _ => ⟨trivial, (headsLine_addByLine q gs _).mpr (.inl rfl),
      fun _ hv => (headsLine_addByLine q gs _).mpr (.inr hv)⟩) ps trivial p h

/-- Where sending a list of parts puts back no copy of the line, and drops it if the list is of that line, the line has no
copy once lists of which one is of it have been sent. -/
theorem rbufClear_foldl_send {f : State → List ReqPart → State} {core line : Nat}
    (hkeep : ∀ t ps, State.RbufClear t core line → (f t ps).RbufClear core line)
    (hdrop : ∀ t ps, ps.head?.map (fun q => lineOf q.pa) = some line → (f t ps).RbufClear core line)
    (gs : List (List ReqPart)) {s : State} (h : s.RbufClear core line ∨ HeadsLine gs line) :
    (gs.foldl f s).RbufClear core line := by
  induction gs generalizing s with
  | nil => exact h.resolve_right (by simp [HeadsLine])
  | cons ps gs ih =>
    rcases h with hclear | hheads
    · exact ih (.inl (hkeep s ps hclear))
    · exact ih ((headsLine_cons.mp hheads).imp_left (hdrop s ps))

/-! ### The effect of a store -/

/-- Once a unit of a store has been taken up: where it goes to a line of memory, the core's copy of the line has been
dropped, or a part of that line waits to be sent to the home slice. -/
def UnitTaken (core : Nat) (s : State) (parts : List ReqPart) (a : Acc) (off : Nat) : Prop :=
  ∀ pa f, a.missPa off = some (pa, f) → s.RbufClear core (lineOf pa) ∨ ∃ p ∈ parts, lineOf p.pa = lineOf pa

section
variable {core : Nat} {s : State} {parts : List ReqPart} {a : Acc} {off : Nat}

theorem UnitTaken.of_local (h : a.missPa off = none) : UnitTaken core s parts a off := by
  simp [UnitTaken, h]

theorem UnitTaken.of_clear {pa : Nat} {f : Fill} (h : a.missPa off = some (pa, f)) (hclear : s.RbufClear core (lineOf pa)) :
    UnitTaken core s parts a off := by
  rintro _ _ h'
  obtain ⟨rfl, -⟩ : pa = _ ∧ f = _ := by simpa [h] using h'
  exact .inl hclear

theorem UnitTaken.of_part {p : ReqPart} {f : Fill} (h : a.missPa off = some (p.pa, f)) :
    UnitTaken core s (parts ++ [p]) a off := by
  rintro _ _ h'
  obtain ⟨rfl, -⟩ : p.pa = _ ∧ f = _ := by simpa [h] using h'
  exact .inr ⟨p, List.mem_append_right _ (List.mem_singleton_self p), rfl⟩

end

theorem UnitTaken.mono {core : Nat} {s t : State} {ps qs : List ReqPart} {a : Acc} {off : Nat} (h : UnitTaken core s ps a off)
    (hst : ∀ line, s.RbufClear core line → t.RbufClear core line) (hpq : ps ⊆ qs) : UnitTaken core t qs a off := by
  intro pa f hpa
  rcases h pa f hpa with hclear | ⟨p, hp, hline⟩
  · exact .inl (hst _ hclear)
  · exact .inr ⟨p, hpq hp, hline⟩

/-- What the units of a store that have been taken up leave: the state, the fragment, the parts that wait for the
ownership of their lines, and the parts for home slices. -/
abbrev StoreState : Type := State × Ctx × List ((Nat × Nat) × ReqPart) × List ReqPart

theorem State.storeAccs_rbufClear (s : State) (c : Ctx) (as : List Acc) (reg size : Nat) {a : Acc} (ha : a ∈ as)
    {u : Nat × Nat} (hu : u ∈ unitsOfSize size) {pa : Nat} {fill : Fill} (hpa : a.missPa u.1 = some (pa, fill)) :
    (s.storeAccs c as reg size).1.RbufClear c.core (lineOf pa) := by
  simp only [State.storeAccs]
  generalize hst : List.foldl _ (s, c, [], []) _ = st
  have htaken : UnitTaken c.core st.1 st.2.2.2 a u.1 := by
    rw [← hst]
    refine foldl_marks (I := fun x : StoreState => x.2.1.core = c.core)
      (P := fun (x : StoreState) (v : Acc × Nat × List Byte) => UnitTaken c.core x.1 x.2.2.2 v.1 v.2.1)
      ?_ _ rfl (a, u.1, _) (List.mem_flatMap.mpr ⟨a, ha, List.mem_map_of_mem hu⟩)
    rintro ⟨s, c', owns, parts⟩ ⟨⟨lane, va, route⟩, off, d⟩ hcore
    cases route with
    | zero => exact ⟨hcore, .of_local rfl, fun _ hv => hv⟩
    | stash k o =>
      dsimp only
      split
      · exact ⟨hcore, .of_local rfl, fun _ hv => hv⟩
      · exact ⟨hcore, .of_local rfl, fun _ hv => hv.mono (fun _ h => h.of_cores rfl) (List.Subset.refl _)⟩
    | window o pa =>
      dsimp only
      split
      · exact ⟨hcore, .of_part rfl, fun _ hv => hv.mono (fun _ h => h) (List.subset_append_left _ _)⟩
      · have hclear := s.rbufClear_dropRbuf c.core (lineOf (pa + off))
        rw [show c'.core = c.core from hcore]
        split <;>
          exact ⟨hcore, .of_clear rfl hclear, fun _ hv => hv.mono (fun _ h => h.dropRbuf _ _) (List.Subset.refl _)⟩
    | home pa => exact ⟨hcore, .of_part rfl, fun _ hv => hv.mono (fun _ h => h) (List.subset_append_left _ _)⟩
  refine rbufClear_foldl_send (fun t ps ht => ?_) (fun t ps hhead => ?_) _ ?_
  · refine .of_cores ?_ ((State.toHost_cores _).trans (State.post_cores ..))
    split
    · exact ht.dropRbuf _ _
    · exact ht
  · obtain ⟨q, hq, hline⟩ := Option.map_eq_some_iff.mp hhead
    rw [← hline]
    simp only [hq]
    exact (t.rbufClear_dropRbuf c.core (lineOf q.pa)).of_cores ((State.toHost_cores _).trans (State.post_cores ..))
  · rcases htaken pa fill hpa with hclear | ⟨p, hp, hline⟩
    · exact .inl (.foldl (fun _ _ ht => ht.of_cores (State.post_cores ..)) _ hclear)
    · exact .inr (hline ▸ headsLine_groupByLine hp)

/-! ### Running a store -/

section
open Claims

theorem State.memRun_cores {s s' : State} {c c' : Ctx} {size : Nat} {acc : Access} {mask : List Nat → BitVec 64}
    {xs : List (Nat × Nat)} {upd : Ctx → Ctx} {eff : State → Ctx → List Acc → MemRes} {as : List Acc} {w : Option Wait}
    (hskip : c.skipped = false) (hfull : s.memFull c = false) (holder : c.olderWaits = false)
    (hgo : s.prep c size acc mask xs = .go as) (heff : eff s c as = .ok s' c' w) :
    (s.memRun c size acc mask xs upd eff).cores = s'.cores := by
  simp [State.memRun, hskip, hfull, holder, hgo, heff]

theorem MemForm.va_lane (o : LM) (size : Nat) (acc : Access) (c : Ctx) (l : Nat) :
    ({ o := o, size := size, acc := acc, lane := true } : MemForm).va c l = c.laneAddr o size l := by
  simp only [MemForm.va, Ctx.laneAddr, if_true]
  split
  · rw [BitVec.ofNat_add, BitVec.ofNat_toNat, BitVec.setWidth_eq]
  · have hscale (k : Nat) : BitVec.ofInt 64 (2 ^ k) = BitVec.ofNat 64 (2 ^ k) := by
      rw [← BitVec.ofInt_natCast, Int.natCast_pow]
      rfl
    rw [BitVec.ofInt_add, BitVec.ofInt_mul, BitVec.ofInt_toInt, BitVec.ofInt_toInt, hscale]

theorem MemForm.va_uniform (o : LM) (size : Nat) (acc : Access) (c : Ctx) (l : Nat) :
    ({ o := o, size := size, acc := acc, lane := false } : MemForm).va c l = c.uniAddr o := by
  simp only [MemForm.va, Ctx.uniAddr, Bool.false_eq_true, if_false]
  split
  · rw [BitVec.ofInt_add, BitVec.ofInt_toInt, BitVec.signExtend]
  · rfl

theorem exec_laneSt {i : Instr} {o : LM} {size : Nat} (h : laneSt i = some (o, size)) (s : State) :
    exec i s = s.laneStore o size := by
  unfold laneSt at h
  split at h <;> cases h <;> rfl

theorem exec_uniSt {i : Instr} {o : LM} {size : Nat} (h : uniSt i = some (o, size)) (s : State) :
    exec i s = s.uniStore o size := by
  unfold uniSt at h
  split at h <;> cases h <;> rfl

theorem memForm_of_laneSt {i : Instr} {o : LM} {size : Nat} (h : laneSt i = some (o, size)) :
    memForm i = some { o := o, size := size, acc := .write, lane := true } := by
  unfold laneSt at h
  split at h <;> cases h <;> rfl

theorem memForm_of_uniSt {i : Instr} {o : LM} {size : Nat} (h : uniSt i = some (o, size)) :
    memForm i = some { o := o, size := size, acc := .write, lane := false } := by
  unfold uniSt at h
  split at h <;> cases h <;> rfl

theorem State.laneStore_cores {s : State} {c : Ctx} {o : LM} {size : Nat} {wf : Reg → Reg} {as : List Acc} (hctx : s.ctx = some c)
    (hready : MemForm.Ready { o := o, size := size, acc := .write, lane := true } s c wf)
    (hgo : MemForm.checks { o := o, size := size, acc := .write, lane := true } s c wf = .go as) :
    ∃ t, s.laneStore o size = .next t ∧ t.cores = (s.storeAccs c as o.x.c.toNat size).1.cores := by
  obtain ⟨-, hskip, hfull, holder, hwrap⟩ := hready
  simp only [MemForm.checks, MemForm.va_lane] at hgo
  simp only [State.laneStore, State.laneMem, State.onCtx, hctx, hwrap]
  exact ⟨_, rfl, State.memRun_cores hskip hfull (holder nofun) hgo rfl⟩

theorem State.uniStore_cores {s : State} {c : Ctx} {o : LM} {size : Nat} {wf : Reg → Reg} {as : List Acc} (hctx : s.ctx = some c)
    (hready : MemForm.Ready { o := o, size := size, acc := .write, lane := false } s c wf)
    (hgo : MemForm.checks { o := o, size := size, acc := .write, lane := false } s c wf = .go as) :
    ∃ t, s.uniStore o size = .next t ∧ t.cores = (s.storeAccs c as o.x.c.toNat size).1.cores := by
  obtain ⟨hguard, hskip, hfull, holder, hwrap⟩ := hready
  simp only [MemForm.checks, MemForm.va_uniform] at hgo
  simp only [State.uniStore, State.uniMem, State.onCtx, hctx, hguard rfl, hwrap, Bool.not_true, Bool.false_eq_true, if_false]
  exact ⟨_, rfl, State.memRun_cores hskip hfull (holder nofun) hgo rfl⟩

/-- Settles O9: the core's read buffer after a store is the one that the store's effect leaves, and that one is clear of
every line that a unit of the store goes to. -/
theorem storeDropsReadBufferCopy : Obligations.StoreDropsReadBufferCopy := by
  unfold Obligations.StoreDropsReadBufferCopy
  intro i o size m s c wf as hstore hform hctx hready hgo
  obtain ⟨t, hexec, hcores⟩ : ∃ t, exec i s = .next t ∧ t.cores = (s.storeAccs c as o.x.c.toNat size).1.cores := by
    rcases hstore with hlane | huni
    · obtain rfl : _ = m := Option.some.inj ((memForm_of_laneSt hlane).symm.trans hform)
      rw [exec_laneSt hlane]
      exact State.laneStore_cores hctx hready hgo
    · obtain rfl : _ = m := Option.some.inj ((memForm_of_uniSt huni).symm.trans hform)
      rw [exec_uniSt huni]
      exact State.uniStore_cores hctx hready hgo
  refine ⟨t, hexec, fun a ha pa hroute u hu => ?_⟩
  obtain ⟨fill, hpa⟩ : ∃ fill, a.missPa u.1 = some (pa + u.1, fill) := by
    rcases hroute with hhome | ⟨off, hwindow⟩
    · simp [Acc.missPa, hhome]
    · simp [Acc.missPa, hwindow]
  exact (s.storeAccs_rbufClear c as _ size ha hu hpa).of_cores hcores

end

end Sys2Proof.Machine
end

section
/-!
PROOFS. Faults in handler mode (R223). The agent's append of an entry goes through memory as any unit's accesses do:
translations, reads, writes and events recall lines and raise a gang's %wct, but none of them touches a fragment. So a
fragment's record after FAULT_DELIVERY is its own with the entry's address put in, and after RETRY its own made eligible.
-/

namespace Sys2Proof.Machine

/-! ### The fragment that a name stands for -/

/-- A group's fragment of a gang and a number. -/
def Group.fragAt (g : Group) (gang n : Nat) : Option Frag := (g.gangs[gang]?).bind (fun x => x.frag n)

/-- A name stands for a fragment of its group, if the group's launch is known. -/
theorem State.fragOf_eq (s : State) (w : Who) :
    s.fragOf w = (s.groups.find w.gid).bind (fun g =>
      (s.launches.find g.launch).bind (fun _ => g.fragAt w.gang w.frag)) := by
  unfold State.fragOf State.ctxOf Group.fragAt
  cases s.groups.find w.gid with
  | none => rfl
  | some g =>
    cases hl : s.launches.find g.launch <;> cases hg : g.gangs[w.gang]? <;> simp [hl, hg, Function.comp_def]

theorem State.fragOf_of_ctxOf {s : State} {w : Who} {c : Ctx} (h : s.ctxOf w = some c) : s.fragOf w = some c.frag := by
  simp [State.fragOf, h]

/-- A change of a group that keeps its launch changes a fragment as it changes the group's record of it. -/
theorem State.updGroup_fragOf_map {s : State} {f : Group → Group} {w : Who} {u : Frag → Frag}
    (hlaunch : ∀ g, (f g).launch = g.launch)
    (hfrag : ∀ g, (f g).fragAt w.gang w.frag = (g.fragAt w.gang w.frag).map u) :
    (s.updGroup w.gid f).fragOf w = (s.fragOf w).map u := by
  simp only [State.fragOf_eq, State.updGroup_groups, State.updGroup_launches, SMap.find_upd_same]
  cases s.groups.find w.gid with
  | none => rfl
  | some g => cases hl : s.launches.find g.launch <;> simp [hlaunch, hfrag, hl]

/-- A change of a group that keeps its launch and its gangs' fragments keeps what every name stands for. -/
theorem State.updGroup_fragOf {s : State} {gid : Nat} {f : Group → Group} {w : Who} (hlaunch : ∀ g, (f g).launch = g.launch)
    (hfrag : ∀ g, (f g).fragAt w.gang w.frag = g.fragAt w.gang w.frag) : (s.updGroup gid f).fragOf w = s.fragOf w := by
  by_cases hgid : w.gid = gid
  · subst hgid
    simpa using State.updGroup_fragOf_map (s := s) (u := id) hlaunch (by simpa using hfrag)
  · simp only [State.fragOf_eq, State.updGroup_groups, State.updGroup_launches, SMap.find_upd_other _ _ hgid]

theorem State.updLaunch_fragOf (s : State) (l : Nat) (f : Launch → Launch) (w : Who) :
    (s.updLaunch l f).fragOf w = s.fragOf w := by
  simp only [State.fragOf_eq, State.updLaunch_groups, State.updLaunch_launches]
  congr 1; funext g
  by_cases hl : g.launch = l
  · subst hl
    rw [SMap.find_upd_same]
    cases s.launches.find g.launch <;> rfl
  · rw [SMap.find_upd_other _ _ hl]

/-- The fragment of a number after every fragment of that number is changed. -/
theorem find?_map_frag {n : Nat} {u : Frag → Frag} (hid : ∀ f, (u f).id = f.id) (fs : List Frag) :
    (fs.map (fun y => if y.id == n then u y else y)).find? (fun y => y.id == n) = (fs.find? (fun y => y.id == n)).map u := by
  have hpred : (fun y : Frag => y.id == n) ∘ (fun y => if y.id == n then u y else y) = fun y => y.id == n := by
    funext y
    simp only [Function.comp_apply]
    split <;> simp [hid]
  rw [List.find?_map, hpred]
  exact Option.map_congr (fun f hf => if_pos (List.find?_some hf))

/-- Changing a fragment changes what its name stands for. -/
theorem State.updFrag_fragOf {s : State} {w : Who} {u : Frag → Frag} (hid : ∀ f, (u f).id = f.id) :
    (s.updFrag w u).fragOf w = (s.fragOf w).map u := by
  refine State.updGroup_fragOf_map (fun _ => rfl) (fun g => ?_)
  simp only [Group.fragAt, Gang.frag, List.getElem?_mapIdx]
  cases g.gangs[w.gang]? with
  | none => rfl
  | some x => simp only [Option.map_some, Option.bind_some, if_true, find?_map_frag hid]

/-- Steps that each keep a fragment keep it together; `st` gives the state among what a fold carries. -/
theorem foldl_fragOf {σ α : Type} (st : σ → State) {f : σ → α → σ} {w : Who}
    (step : ∀ a x, (st (f a x)).fragOf w = (st a).fragOf w) (xs : List α) (a : σ) :
    (st (xs.foldl f a)).fragOf w = (st a).fragOf w :=
  List.foldlRecOn xs f (motive := fun b => (st b).fragOf w = (st a).fragOf w) rfl (fun b hb x _ => (step b x).trans hb)

/-! ### Lines and their times -/

@[simp] theorem State.setLine_fragOf (s : State) (k : Nat) (x : LineRec) (w : Who) : (s.setLine k x).fragOf w = s.fragOf w := rfl
@[simp] theorem State.pend_fragOf (s : State) (p : Pending) (w : Who) : (s.pend p).fragOf w = s.fragOf w := rfl
@[simp] theorem State.fresh_fragOf (s : State) (w : Who) : s.fresh.1.fragOf w = s.fragOf w := rfl
@[simp] theorem State.setReq_fragOf (s : State) (r : Req) (w : Who) : (s.setReq r).fragOf w = s.fragOf w := rfl
@[simp] theorem State.dropReq_fragOf (s : State) (id : Nat) (w : Who) : (s.dropReq id).fragOf w = s.fragOf w := rfl
@[simp] theorem State.updCore_fragOf (s : State) (k : Nat) (f : Core → Core) (w : Who) : (s.updCore k f).fragOf w = s.fragOf w := rfl
@[simp] theorem State.updFn_fragOf (s : State) (k : Nat) (f : Func → Func) (w : Who) : (s.updFn k f).fragOf w = s.fragOf w := rfl
@[simp] theorem State.assignT_fragOf (s : State) (line marker : Nat) (w : Who) :
    (s.assignT line marker).1.fragOf w = s.fragOf w := rfl

@[simp] theorem State.noteT_fragOf (s : State) (l : Option Nat) (t : Nat) (w : Who) : (s.noteT l t).fragOf w = s.fragOf w := by
  cases l with
  | none => rfl
  | some l => exact s.updLaunch_fragOf l _ w

@[simp] theorem State.foldWct_fragOf (s : State) (gid gang t : Nat) (w : Who) :
    (s.foldWct gid gang t).fragOf w = s.fragOf w := by
  refine State.updGroup_fragOf (fun _ => rfl) (fun g => ?_)
  simp only [Group.fragAt, List.getElem?_mapIdx]
  cases g.gangs[w.gang]? with
  | none => rfl
  | some x => simp only [Option.map_some, Option.bind_some]; split <;> rfl

@[simp] theorem State.writeback_fragOf (s : State) (gid k : Nat) (w : Who) : (s.writeback gid k).fragOf w = s.fragOf w := by
  unfold State.writeback
  split
  · rfl
  · split
    · rfl
    · split
      · rfl
      · rw [State.noteT_fragOf]
        refine (State.updGroup_fragOf ?_ (fun g => ?_)).trans (foldl_fragOf id (fun _ _ => by rfl) _ _)
        · exact fun _ => rfl
        · simp only [Group.fragAt, List.getElem?_map]
          cases g.gangs[w.gang]? <;> rfl

@[simp] theorem State.dropLine_fragOf (s : State) (gid k : Nat) (w : Who) : (s.dropLine gid k).fragOf w = s.fragOf w := by
  have hdel : (s.updGroup gid (fun g => { g with lines := g.lines.del k })).fragOf w = s.fragOf w :=
    State.updGroup_fragOf (fun _ => rfl) (fun _ => rfl)
  unfold State.dropLine
  split
  · rfl
  · split
    · exact hdel
    · exact hdel

@[simp] theorem State.recall_fragOf (s : State) (line : Nat) (w : Who) : (s.recall line).fragOf w = s.fragOf w := by
  unfold State.recall
  split
  · rfl
  · split
    · rfl
    · exact foldl_fragOf id (fun t k => by simp) _ s

/-! ### What an access that arrives at a line puts before it -/

@[simp] theorem State.foldParts_fragOf (s : State) (r : Req) (t : Nat) (w : Who) : (s.foldParts r t).fragOf w = s.fragOf w := by
  refine foldl_fragOf id (fun u p => ?_) r.parts s
  cases p.who with
  | none => rfl
  | some v => simp

@[simp] theorem State.pendParts_fragOf (s : State) (r : Req) (t : Nat) (w : Who) : (s.pendParts r t).fragOf w = s.fragOf w :=
  foldl_fragOf id (fun _ _ => by rfl) r.parts s

@[simp] theorem State.timeAtomic_fragOf (s : State) (r : Req) (op ty : Nat) (w : Who) :
    (s.timeAtomic r op ty).fragOf w = s.fragOf w := by
  simp [State.timeAtomic]

@[simp] theorem State.settleReq_fragOf (s : State) (r : Req) (w : Who) : (s.settleReq r).fragOf w = s.fragOf w := by
  unfold State.settleReq
  split <;> simp

@[simp] theorem State.mxSettle_fragOf (s : State) (line : Nat) (w : Who) : (s.mxSettle line).fragOf w = s.fragOf w :=
  foldl_fragOf id (fun _ _ => by rfl) _ s

@[simp] theorem State.arrive_fragOf (s : State) (line : Nat) (w : Who) : (s.arrive line).fragOf w = s.fragOf w := by
  simp only [State.arrive, State.recall_fragOf, State.mxSettle_fragOf]
  exact foldl_fragOf id (fun t r => t.settleReq_fragOf r w) _ s

/-! ### A unit's reads and writes -/

@[simp] theorem State.lease_fragOf (s : State) (line func : Nat) (w : Who) : (s.lease line func).1.fragOf w = s.fragOf w := by
  unfold State.lease
  split
  · rfl
  · dsimp only
    split <;> rfl

@[simp] theorem State.fillL2_fragOf (s : State) (line func cls : Nat) (w : Who) : (s.fillL2 line func cls).fragOf w = s.fragOf w := by
  unfold State.fillL2
  split <;> rfl

@[simp] theorem State.hostBytes_fragOf (s : State) (n : Nat) (w : Who) : (s.hostBytes n).1.fragOf w = s.fragOf w := by
  induction n generalizing s with
  | zero => rfl
  | succ n ih => exact ih _

@[simp] theorem State.unitRead_fragOf (s : State) (func pa n : Nat) (w : Who) : (s.unitRead func pa n).1.fragOf w = s.fragOf w := by
  unfold State.unitRead
  split
  · rw [State.hostBytes_fragOf]
    exact foldl_fragOf id (fun _ _ => by rfl) _ s
  · exact foldl_fragOf id (fun t l => by simp) _ s

@[simp] theorem State.aliasWrite_fragOf (s : State) (x : Writer) (line : Nat) (put : Nat → Option Byte) (marker : Nat) (w : Who) :
    (s.aliasWrite x line put marker).1.fragOf w = s.fragOf w := by
  unfold State.aliasWrite
  split <;> rfl

@[simp] theorem State.writeLine_fragOf (s : State) (x : Writer) (pa : Nat) (data : List Byte) (marker : Nat) (w : Who) :
    (s.writeLine x pa data marker).1.fragOf w = s.fragOf w := by
  unfold State.writeLine
  dsimp only
  split <;> simp

@[simp] theorem State.hostStore_fragOf (s : State) (func pa : Nat) (data : List Byte) (w : Who) :
    (s.hostStore func pa data).1.fragOf w = s.fragOf w := rfl

@[simp] theorem State.unitWrite_fragOf (s : State) (func : Nat) (lau : Option Nat) (marker n pa : Nat) (data : List Byte) (w : Who) :
    (s.unitWrite func lau marker n pa data).1.fragOf w = s.fragOf w := by
  induction n generalizing s pa data with
  | zero => rfl
  | succ n ih =>
    unfold State.unitWrite
    dsimp only
    split
    · rfl
    · split <;> simp [ih]

/-! ### A unit's accesses at virtual addresses -/

@[simp] theorem State.walkRead_fragOf (s : State) (func va : Nat) (plan : List (Nat × Nat)) (lvl tbl : Nat) (w : Who) :
    (s.walkRead func va plan lvl tbl).fragOf w = s.fragOf w := by
  induction plan generalizing s lvl tbl with
  | nil => rfl
  | cons x plan ih =>
    unfold State.walkRead
    dsimp only
    split
    · rfl
    · split <;> simp [ih]

@[simp] theorem State.walkReads_fragOf (s : State) (tr func aspace va : Nat) (w : Who) :
    (s.walkReads tr func aspace va).fragOf w = s.fragOf w := by
  unfold State.walkReads
  split <;> simp

@[simp] theorem State.cacheWalk_fragOf (s : State) (tr func aspace va : Nat) (also : List Nat) (w : Who) :
    (s.cacheWalk tr func aspace va also).fragOf w = s.fragOf w := by
  unfold State.cacheWalk
  dsimp only
  split
  · exact (foldl_fragOf id (fun _ _ => by rfl) _ _).trans (foldl_fragOf id (fun _ _ => by rfl) _ s)
  · exact foldl_fragOf id (fun _ _ => by rfl) _ s

@[simp] theorem State.unitWalk_fragOf (s : State) (tr func aspace va : Nat) (acc : Access) (w : Who) :
    (s.unitWalk tr func aspace va acc).fragOf w = s.fragOf w := by
  unfold State.unitWalk
  split <;> simp

@[simp] theorem State.unitWalks_fragOf (s : State) (tr func aspace : Nat) (acc : Access) (k va n : Nat) (w : Who) :
    (s.unitWalks tr func aspace acc k va n).fragOf w = s.fragOf w := by
  induction k generalizing s va n with
  | zero => rfl
  | succ k ih =>
    unfold State.unitWalks
    split
    · rfl
    · simp [ih]

theorem State.unitLoad_fragOf {s t : State} {func aspace va n cls tr : Nat} {acc : Access} {bs : List Byte}
    (h : s.unitLoad func aspace va n acc cls tr = .ok (t, bs)) (w : Who) : t.fragOf w = s.fragOf w := by
  unfold State.unitLoad at h
  dsimp only at h
  split at h
  · cases h
  · split at h
    · cases h
    · obtain rfl := congrArg Prod.fst (Except.ok.inj h)
      rw [foldl_fragOf Prod.fst, State.unitWalks_fragOf]
      intro st p
      exact (foldl_fragOf id (fun u i => u.fillL2_fragOf i func cls w) _ _).trans (st.1.unitRead_fragOf func p.1 p.2 w)

theorem State.unitWord_fragOf {s t : State} {func aspace va n tr x : Nat} {acc : Access}
    (h : s.unitWord func aspace va n acc tr = .ok (t, x)) (w : Who) : t.fragOf w = s.fragOf w := by
  unfold State.unitWord at h
  split at h
  · cases h
  · next r hr =>
    cases h
    exact State.unitLoad_fragOf hr w

theorem State.unitStore_fragOf {s t : State} {func aspace va marker tr due : Nat} {lau : Option Nat} {data : List Byte}
    {hosts : List Nat} (h : s.unitStore func aspace lau va data marker tr = .ok (t, due, hosts)) (w : Who) :
    t.fragOf w = s.fragOf w := by
  unfold State.unitStore at h
  dsimp only at h
  split at h
  · cases h
  · obtain rfl := congrArg Prod.fst (Except.ok.inj h)
    rw [foldl_fragOf Prod.fst (fun st p => by simp), State.unitWalks_fragOf]

theorem State.unitAtomic_fragOf {s t : State} {func aspace va op ty opnd tr old due : Nat} {lau : Option Nat}
    (h : s.unitAtomic func aspace lau va op ty opnd tr = .ok (t, old, due)) (w : Who) : t.fragOf w = s.fragOf w := by
  unfold State.unitAtomic at h
  dsimp only at h
  split at h
  · cases h
  · cases h
  · split at h
    · split at h
      · cases h
      · obtain rfl := congrArg Prod.fst (Except.ok.inj h)
        exact (State.hostBytes_fragOf _ _ w).trans (s.unitWalk_fragOf tr func aspace va .atomic w)
    · split at h
      · cases h
      · obtain rfl := congrArg Prod.fst (Except.ok.inj h)
        simp

/-! ### Events and traces -/

@[simp] theorem State.drainEvents_fragOf (s : State) (func n : Nat) (w : Who) : (s.drainEvents func n).fragOf w = s.fragOf w := by
  induction n generalizing s with
  | zero => rfl
  | succ n ih =>
    unfold State.drainEvents
    dsimp only
    split
    · split
      · rfl
      · exact ih _
    · rfl
    · split
      · rfl
      · split
        · next r hr => rw [ih, State.updFn_fragOf, State.unitStore_fragOf hr]
        · rw [ih, State.updFn_fragOf]

@[simp] theorem State.event_fragOf (s : State) (func kind : Nat) (w1 w2 w3 : Reg) (due : Nat) (hosts : List Nat) (w : Who) :
    (s.event func kind w1 w2 w3 due hosts).fragOf w = s.fragOf w := by
  unfold State.event
  rw [State.drainEvents_fragOf]
  split <;> rfl

@[simp] theorem State.ringWrite_fragOf (s : State) (func d w0 payload : Nat) (w : Who) :
    (s.ringWrite func d w0 payload).fragOf w = s.fragOf w := by
  unfold State.ringWrite
  dsimp only
  split
  · next r hr => exact State.unitStore_fragOf hr w
  · rfl

@[simp] theorem State.updRing_fragOf (s : State) (func d : Nat) (f : Ring → Ring) (w : Who) :
    (s.updRing func d f).fragOf w = s.fragOf w := rfl
@[simp] theorem State.stamp_fragOf (s : State) (d : Nat) (w : Who) : (s.stamp d).1.fragOf w = s.fragOf w := rfl

@[simp] theorem State.trace_fragOf (s : State) (func core kind info payload : Nat) (w : Who) :
    (s.trace func core kind info payload).fragOf w = s.fragOf w := by
  unfold State.trace
  extract_lets d f r st header used free w0 delta s1
  have hheader : s1.fragOf w = s.fragOf w := by
    unfold s1
    split
    · exact State.ringWrite_fragOf ..
    · rfl
  split
  · rfl
  · by_cases hfull : free < if header = true then 2 else 1
    · rw [if_pos hfull, State.updRing_fragOf]
    · rw [if_neg hfull, State.updRing_fragOf, State.ringWrite_fragOf, hheader]

@[simp] theorem State.agentWorks_fragOf (s : State) (core : Nat) (w : Who) : (s.agentWorks core).fragOf w = s.fragOf w := rfl

/-! ### The fault record (R217, R220, R223) -/

/-- An append that gives the entry an address touches no fragment; only one that loses its entry ends the launch. -/
theorem State.appendAt_fragOf {s t : State} {l core va : Nat} {e : FEntry} (h : s.appendAt l core e = (t, some va)) (w : Who) :
    t.fragOf w = s.fragOf w := by
  unfold State.appendAt at h
  dsimp only at h
  split at h
  · cases h
  · split at h
    · cases h
    · next s1 n t0 hatomic =>
      split at h
      · cases h
      · next s2 cap hword =>
        have hkeep : s2.fragOf w = s.fragOf w :=
          (State.unitWord_fragOf hword w).trans (State.unitAtomic_fragOf hatomic w)
        split at h
        · split at h
          · cases h
          · next s3 due hs hstore =>
            obtain rfl := congrArg Prod.fst h
            simp only [State.event_fragOf, State.trace_fragOf, State.unitStore_fragOf hstore, hkeep]
        · obtain rfl := congrArg Prod.fst h
          simp only [State.event_fragOf, State.trace_fragOf, hkeep]

theorem Ctx.delegable_of_handler {c : Ctx} (h : c.frag.handler = true) (r : Reason) : c.delegable r = false := by
  simp [Ctx.delegable, h]

theorem exec_delegatedFault (w : Who) (s : State) : exec (.delegatedFault w) s = .next ((s.evDelegatedFault w).getD s) := by
  rfl
theorem exec_faultDelivery (w : Who) (s : State) : exec (.faultDelivery w) s = .next ((s.evFaultDelivery w).getD s) := by
  rfl
theorem exec_retry (func : Nat) (s : State) : exec (.retry func) s = .next (s.evRetry func) := by
  rfl

section
variable {s : State} {w : Who} {c : Ctx} {i : FaultInfo}

/-- What is not delegable does not go to the handler. -/
theorem State.evDelegatedFault_of_not_delegable (hc : s.ctxOf w = some c) (hd : c.delegable i.reason = false)
    (hf : c.frag.state = .faulted i none) : s.evDelegatedFault w = none := by
  simp [State.evDelegatedFault, hc, hf, hd]

/-- What is not delegable goes to the agent, and the fragment waits with its entry's address. -/
theorem State.evFaultDelivery_fragOf {s1 : State} {va : Nat} (hc : s.ctxOf w = some c) (hd : c.delegable i.reason = false)
    (hf : c.frag.state = .faulted i none) (hcode : i.reason ≠ .codeAbsent)
    (happend : s.appendAt c.grp.launch c.core (c.entryOf i false) = (s1, some va)) :
    ∃ t, s.evFaultDelivery w = some t ∧ t.fragOf w = some { c.frag with state := .faulted i (some va) } := by
  refine ⟨_, by simp only [State.evFaultDelivery, hc, hf, hd, happend, Bool.or_false, beq_iff_eq, hcode, if_false]; rfl, ?_⟩
  rw [State.agentWorks_fragOf]
  calc (s1.updFrag w (fun f => { f with state := .faulted i (some va) })).fragOf w
      = (s1.fragOf w).map (fun f => { f with state := .faulted i (some va) }) := State.updFrag_fragOf (fun _ => rfl)
    _ = some { c.frag with state := .faulted i (some va) } := by
      rw [State.appendAt_fragOf happend, State.fragOf_of_ctxOf hc]
      rfl

end

/-! ### RETRY (R220, R223) -/

theorem State.hcRun_of_ready {s : State} {func : Nat} (h : Claims.MailboxReady s func) (code : Nat)
    (run : State → Vector Reg 4 → State) :
    s.hcRun func code run =
      run (s.updFn func (fun f => { f with hcCmd := BitVec.ofNat 64 (code % 256), hcBusy := true })) (s.fn func).hcArgs := by
  obtain ⟨hfunc, hbusy, haccepted⟩ := h
  simp [State.hcRun, hbusy, haccepted, Nat.not_lt.mpr hfunc]

/-- RETRY of a fragment's delivered fault makes it eligible and changes nothing else of it. -/
theorem State.evRetry_fragOf {s : State} {func : Nat} {d : Ctx} (hready : Claims.MailboxReady s func)
    (hfault : s.faultAt func ((s.fn func).hcArgs[0]).toNat = some d) :
    (s.evRetry func).fragOf d.who = (s.fragOf d.who).map (fun f => { f with state := .eligible }) := by
  have htaken (g : Func → Func) : (s.updFn func g).faultAt func ((s.fn func).hcArgs[0]).toNat = some d := hfault
  simp only [State.evRetry, State.hcRun_of_ready hready, htaken, State.hcEnd, State.updFn_fragOf, State.retryFrag]
  exact State.updFrag_fragOf (fun _ => rfl)

/-- Settles O20: handler mode makes no fault delegable, so FAULT_DELIVERY takes it, its entry's NESTED is the fragment's
mode, and RETRY leaves the program counter and the mode of the fragment as the fault found them. -/
theorem handlerFaultsAreNested : Obligations.HandlerFaultsAreNested := by
  unfold Obligations.HandlerFaultsAreNested
  intro w s c i hc hhandler hf
  have hd : c.delegable i.reason = false := Ctx.delegable_of_handler hhandler i.reason
  refine ⟨?_, hhandler, rfl, fun hcode s1 va happend => ?_, ?_⟩
  · rw [exec_delegatedFault, State.evDelegatedFault_of_not_delegable hc hd hf]
    rfl
  · obtain ⟨t, hdeliver, ht⟩ := State.evFaultDelivery_fragOf hc hd hf hcode happend
    exact ⟨t, by rw [exec_faultDelivery, hdeliver]; rfl, ht⟩
  · intro func u d va hready hva hfault hwho hlives hfrag
    subst hva hwho
    refine ⟨u.evRetry func, { d.frag with state := .eligible }, exec_retry func u, ?_, ?_, rfl, ?_⟩
    · rw [State.evRetry_fragOf hready hfault, hlives]
      rfl
    · rw [hfrag]; exact hhandler
    · rw [hfrag]

end Sys2Proof.Machine
end

section
/-!
PROOFS. HGET (R316): it writes a word of the handle, and word 3, put together from GEN and SLOT, is the stored word with the
RSVD bits cleared.
-/

namespace Sys2Proof.Machine

/-! ### A handle's words -/

/-- Word w of a handle as HGET reads it (R316). -/
def Handle.word (h : Handle) : Nat → Reg
  | 0 => h.base
  | 1 => h.dims
  | 2 => h.stride
  | _ => BitVec.ofNat 64 (h.gen * 2 ^ 54 + h.slot)

theorem exec_hget (o : LR) (s : State) :
    exec (.hget o) s = s.runU o.g 1 (fun c =>
      .ok { c with gang := c.gang.wrG o.d.toNat ((c.gang.handle o.a.toNat).word o.b.toNat) }) := by
  rfl

/-- The bits of word 3 that are GEN's or SLOT's. -/
theorem getLsbD_genSlotMask {i : Nat} (hi : i < 64) :
    (0xFFC0000000000007 : Reg).getLsbD i = (decide (i < 3) || decide (54 ≤ i)) :=
  (by decide : ∀ i : Fin 64, (0xFFC0000000000007 : Reg).getLsbD i.val = (decide (i.val < 3) || decide (54 ≤ i.val))) ⟨i, hi⟩

theorem Handle.word_three (h : Handle) : h.word 3 = h.genSlot &&& 0xFFC0000000000007 := by
  show BitVec.ofNat 64 (h.gen * 2 ^ 54 + h.slot) = _
  have hslot : h.slot < 2 ^ 54 := Nat.lt_trans (Nat.mod_lt _ (by decide : 0 < 2 ^ 3)) (by decide)
  apply BitVec.eq_of_getLsbD_eq
  intro i hi
  rw [BitVec.getLsbD_and, getLsbD_genSlotMask hi, BitVec.getLsbD_ofNat, Nat.mul_comm, Nat.testBit_two_pow_mul_add _ hslot]
  rcases Nat.lt_or_ge i 54 with hlow | hhigh
  · simp only [Handle.slot, Nat.testBit_mod_two_pow, Nat.testBit_div_two_pow, BitVec.getLsbD, hi, hlow,
      Nat.not_le.mpr hlow]
    simp [Bool.and_comm]
  · simp only [Handle.gen, Nat.testBit_mod_two_pow, Nat.testBit_div_two_pow, BitVec.getLsbD, hi, hhigh,
      Nat.not_lt.mpr hhigh, Nat.sub_add_cancel hhigh]
    simp [show i - 54 < 10 by omega]

theorem Gang.handle_of_getElem? {g : Gang} {i : Nat} {h : Handle} (hh : g.h[i]? = some h) : g.handle i = h := by
  simp [Gang.handle, hh]

/-- A uniform-set instruction under a true guard that does no more than write one uniform register. -/
theorem State.runU_wrG {s : State} {c : Ctx} (h : s.ctx = some c) {i : Instr} {g : BitVec 3} {len d : Nat} {f : Ctx → Res}
    {x : Reg} (hguard : c.gang.qpred g.toNat = true) (hd : 96 ≤ d) (he : exec i s = s.runU g len f)
    (hf : f c = .ok { c with gang := c.gang.wrG d x }) : UniformResult i s c len d x :=
  State.run_wrG h i len d hd _ x he (by simp only [hguard, if_true, hf])

/-- Settles O11: the number picks a word of the handle that hA names, and `Handle.word_three` gives word 3. -/
theorem handleReadResult : Obligations.HandleReadResult := by
  unfold Obligations.HandleReadResult
  intro o s c h hd hguard hctx hh
  have hread : UniformResult (.hget o) s c 1 o.d.toNat (h.word o.b.toNat) :=
    State.runU_wrG hctx hguard hd (exec_hget o s) (by rw [Gang.handle_of_getElem? hh])
  refine ⟨fun hw => ?_, fun hw => ?_, fun hw => ?_, fun hw => ?_⟩ <;> rw [hw] at hread
  · exact hread
  · exact hread
  · exact hread
  · rwa [h.word_three] at hread

end Sys2Proof.Machine
end

section
/-!
PROOFS. TW.PERMIT (R73, R331): the instruction changes its group, at once or by a permit that waits, and no gang's registers.
-/

namespace Sys2Proof.Machine

/-! ### Storing a fragment together with a change of its group -/

theorem SMap.set_set_same {α : Type} (m : SMap α) (x : Nat) (v w : α) : (m.set x v).set x w = m.set x w := by
  induction m with
  | nil => simp [SMap.set]
  | cons p t ih =>
    obtain ⟨k, u⟩ := p
    simp only [SMap.set]
    split
    · simp [SMap.set]
    · next hlt =>
      split
      · simp [SMap.set]
      · next hne => simp [SMap.set, hlt, hne, ih]

/-- The fragment that issues, once its group is another one with the same gangs of the same launch. -/
theorem State.ctx_setGroup {s : State} {c : Ctx} {g : Group} (h : s.ctx = some c) (hl : g.launch = c.grp.launch)
    (hgs : g.gangs = c.grp.gangs) :
    ({ s with groups := s.groups.set c.who.gid g } : State).ctx = some { c with grp := g } := by
  obtain ⟨w, hcur, hfound⟩ := Option.bind_eq_some_iff.mp h
  obtain ⟨rfl, -, hlau, hgang, hfrag⟩ := State.ctxOf_parts hfound
  simp [State.ctx, State.ctxOf, hcur, hl, hgs, hlau, hgang, hfrag]

/-- Storing the fragment of c in a changed form and its group as g, with the gangs it had: they are found so, and nothing
else differs. -/
theorem State.change_put {s : State} {c c' : Ctx} {g : Group} (h : s.ctx = some c) (hl : g.launch = c.grp.launch)
    (hgs : g.gangs = c.grp.gangs) (hw : c'.who = c.who) (hid : c'.frag.id = c.frag.id) (hlau : c'.lau = c.lau)
    (hg : c'.grp = g) (hf : c'.gang.frags = c.gang.frags) : Change s s (s.put c') c c'.stored g := by
  have hput : ({ s with groups := s.groups.set c.who.gid g } : State).put c' = s.put c' := by
    simp only [State.put, hw, SMap.set_set_same]
  obtain ⟨-, hothers, hhere, hlaunch, hgroup, hgangs, hfrags⟩ :=
    hput ▸ State.effect_put (State.ctx_setGroup h hl hgs) hw hid hlau hg hf
  exact
    { device := rfl
      others := fun k hk => (hothers k hk).trans (SMap.find_set_other _ _ hk)
      here := hhere
      launch := hlaunch
      group := hgroup
      gangs := fun k hk => (hgangs k hk).trans (by rw [hgs])
      frags := hfrags }

/-- An instruction that gives its group another form and retires. -/
theorem State.retires_group {s : State} {c : Ctx} (h : s.ctx = some c) {i : Instr} {len : Nat} {g : Group}
    (he : exec i s = .next (s.put (({ c with grp := g } : Ctx).retire len))) (hl : g.launch = c.grp.launch)
    (hgs : g.gangs = c.grp.gangs) : ChangeResult i s c len s g := by
  refine ⟨_, _, he, State.change_put h hl hgs ?_ ?_ ?_ ?_ ?_,
    Ctx.retired (c := c) (c1 := { c with grp := g }) rfl rfl len, Ctx.done_sameBut len rfl, ?_, ?_, ?_⟩ <;>
    simp [Gang.LanesSame, Gang.UniformSame]

/-! ### The instruction -/

theorem Group.getElem?_halyard_addHalyard (g : Group) (d n : Nat) {k : Nat} (hk : k < 8) :
    (g.addHalyard d n).halyard[k]? = if k = d then some (BitVec.ofNat 12 (g.halyardAt k + n)) else g.halyard[k]? := by
  rw [Group.addHalyard, Vector.getElem?_setIfInBounds]
  by_cases hkd : k = d
  · subst hkd; simp [hk]
  · simp [hkd, Ne.symm hkd]

theorem exec_twPermit (o : UI) (s : State) : exec (.twPermit o) s = execTwPermit o s := by
  rfl

section
variable {o : UI} {s : State} {c : Ctx} (hctx : s.ctx = some c)
include hctx

theorem exec_twPermit_overflow (h : 4095 < c.grp.halyardAt o.d.toNat + c.grp.permitsFor o.d.toNat + o.imm.toNat) :
    exec (.twPermit o) s = .next (s.put (c.fault s.now .permitOverflow)) := by
  simp only [exec_twPermit, execTwPermit, State.onCtx, hctx, h, if_true]

theorem exec_twPermit_now (h : c.grp.halyardAt o.d.toNat + c.grp.permitsFor o.d.toNat + o.imm.toNat ≤ 4095)
    (hloads : s.loadsBefore c.who.gid c.who.gang s.nextIns = false) :
    exec (.twPermit o) s = .next (s.put (({ c with grp := c.grp.addHalyard o.d.toNat o.imm.toNat } : Ctx).retire 1)) := by
  simp only [exec_twPermit, execTwPermit, State.onCtx, hctx, Nat.not_lt.mpr h, if_false, hloads, Bool.false_eq_true]

theorem exec_twPermit_later (h : c.grp.halyardAt o.d.toNat + c.grp.permitsFor o.d.toNat + o.imm.toNat ≤ 4095)
    (hloads : s.loadsBefore c.who.gid c.who.gang s.nextIns = true) :
    exec (.twPermit o) s = .next (s.put (({ c with grp := { c.grp with
      permits := c.grp.permits ++ [(c.who.gang, o.d.toNat, o.imm.toNat, s.nextIns)] } } : Ctx).retire 1)) := by
  simp only [exec_twPermit, execTwPermit, State.onCtx, hctx, Nat.not_lt.mpr h, if_false, hloads, if_true]

end

/-- Settles O12: permits in force, permits that wait and n decide overflow; without it the gang's earlier loads decide which
part of the group changes. -/
theorem permitResult : Obligations.PermitResult := by
  unfold Obligations.PermitResult
  intro o s c hd hctx n now
  refine ⟨fun hn => exec_twPermit_overflow hctx (Nat.lt_add_left now hn), exec_twPermit_overflow hctx, ?_, ?_⟩
  · intro hsum hloads
    refine ⟨_, State.retires_group hctx (exec_twPermit_now hctx hsum hloads) rfl rfl, fun k hk => ?_⟩
    exact c.grp.getElem?_halyard_addHalyard o.d.toNat n hk
  · intro hsum hloads
    exact State.retires_group hctx (exec_twPermit_later hctx hsum hloads) rfl rfl

end Sys2Proof.Machine
end
